-- ==== Sys2Proof/Word.lean ====
section
/-! DEFINITION. The machine word types of the AX8 and their plainest arithmetic (R1 to R4). -/

namespace Sys2Proof

/-- A byte, the smallest addressable unit (R3). -/
abbrev Byte := BitVec 8
/-- The lanes of a warp: a lane mask (R2). -/
abbrev Lanes := BitVec 32
/-- A 32-bit element of a vector register (R312). -/
abbrev Word32 := BitVec 32
/-- A scalar register's value (R312). -/
abbrev Word64 := BitVec 64

end Sys2Proof
end

