-- ==== Sys2Proof/Config.lean ====
section
/-! DEFINITION. What the manual leaves free: constants without a body, so that no proof can see a
value of them.  A step applies one to the state's counter of draws, and advances the counter. -/

namespace Sys2Proof.Config

/-- Which of the entries that a translation may use it does use: the entry in memory or a cached
one (R207, R460). [DESIGN CHOICE, log 9] -/
opaque tlbPick : Nat → Nat

/-- Whether a core's L1 still holds a word that it has held when a relaxed load comes to it, by the time, the
core and the word: which lines are evicted is not modelled (R178, R230). [DESIGN CHOICE, log 9] -/
opaque l1Holds : Nat → Nat → Nat → Bool

/-- Where a private word that stands dirty in an L1 is reached through a global address, which of the two values is read
or stays (R178). [DESIGN CHOICE, log 9] -/
opaque privatePick : Nat → Bool

/-- Which of the values that a register word had since the latest OFENCE a loom request reads, by the request, the
register and the lane (R239, R240). [DESIGN CHOICE, log 9] -/
opaque operandPick : Nat → Nat → Nat → Nat

/-- Whether an element of a destination that was written while a loom operation was outstanding keeps what it was
written, and not the operation's value, by the request, the register or row, and the place in it (R156, R240).
[DESIGN CHOICE, log 9] -/
opaque destPick : Nat → Nat → Nat → Bool

/-- Whether a byte that a copy fills still stands as it was when an access comes to it, by its place in the access
(R185). [DESIGN CHOICE, log 9] -/
opaque fillPick : Nat → Nat → Bool

/-- Which of the cores that a restored group fits it goes to (R128, R470). [DESIGN CHOICE, log 9] -/
opaque restorePick : Nat → Nat → Nat

/-- Which of the ready pending warps of a core has waited beyond its starvation limit (R143): timing is not
modelled. [DESIGN CHOICE, log 9] -/
opaque starved : Nat → Nat

/-- Whether a store that is cut off when its group is killed has performed (R272). [DESIGN CHOICE, log 9] -/
opaque cutPerformed : Nat → Bool

/-- The data that a peer returns for an access to the remote aperture (R57). [DESIGN CHOICE, log 9] -/
opaque remoteData : Nat → Word64

/-- Whether a peer rejects an access (R56), or, for an access of an engine, gives it no answer either (R59).
[DESIGN CHOICE, log 9] -/
opaque remoteRejected : Nat → Bool

/-- Whether a peer that has not accepted an access has rejected it (R56) or has given it no answer (R59).
[DESIGN CHOICE, log 9] -/
opaque remoteSilent : Nat → Bool

/-- Whether an element of a remote access that times out is written as zero (R59). [DESIGN CHOICE, log 9] -/
opaque timeoutZero : Nat → Bool

/-- By how much a cluster's clock has advanced since it was last read (R302): timing is not
modelled. [DESIGN CHOICE, log 9] -/
opaque clockAdvance : Nat → BitVec 32

/-- The cycles that a WAIT was held (R297): timing is not modelled. [DESIGN CHOICE, log 9] -/
opaque heldCycles : Nat → BitVec 24

/-- The reason that a record gives for the rejection of a collective (R66): the manual names none.
[DESIGN CHOICE, log 9] -/
opaque collReason : Nat → BitVec 32

/-- How many lines of HBM4E an L2 slice reads or writes for a request (R304): which lines it holds is not modelled.
[DESIGN CHOICE, log 9] -/
opaque countAdvance : Nat → BitVec 32

/-- Which of the homes that have changed a line writes it back last (R212, R215). [DESIGN CHOICE, log 9] -/
opaque homePick : Nat → Nat

/-- A byte of a granule that has changed since a mapping first named its home, as the copy at another home begins, by the
byte's place: what the granule held when its mappings diverged is not known (R212). [DESIGN CHOICE, log 9] -/
opaque homeByte : Nat → Nat → BitVec 8

/-- Whether the fetch of a packet asks its home for a line (R181): what a core keeps of its instructions is not
modelled. [DESIGN CHOICE, log 9] -/
opaque fetchAsks : Nat → Nat → Bool

/-- A byte of a word with an uncorrectable error as a host or a peer reads it (R194).
[DESIGN CHOICE, log 9] -/
opaque badByte : Nat → BitVec 8

/-- The SHAKE256 digest, 64 bytes long, of a sequence of bytes (R87, R89, R92). [DESIGN CHOICE, log 10] -/
opaque shake256 : List (BitVec 8) → BitVec 512

/-- The digest of the public key that is fused at manufacture (R89). [DESIGN CHOICE, log 10] -/
opaque keyDigest : BitVec 512

/-- Whether a signature verifies under Ed448ph for a public key and a prehash (R89).
[DESIGN CHOICE, log 10] -/
opaque sigOk : List (BitVec 8) → List (BitVec 8) → BitVec 512 → Bool

/-- The device's serial identity (R92). [DESIGN CHOICE, log 10] -/
opaque devId : BitVec 64

/-- The public attestation key that is derived from the fused secret and an image digest (R92).
[DESIGN CHOICE, log 10] -/
opaque akPub : BitVec 512 → BitVec 456

/-- The signature of a prehash by the attestation key of an image digest (R92). [DESIGN CHOICE, log 10] -/
opaque quoteSig : BitVec 512 → BitVec 512 → BitVec 912

/-- The signature of bytes by the fused device identity key (R92). [DESIGN CHOICE, log 10] -/
opaque certSig : List (BitVec 8) → BitVec 912

end Sys2Proof.Config
end

