-- ==== Sys2Proof/Syntax.lean ====
section
/-! DEFINITION. The syntax of the AX8: the operand types of R312 to R320, the records that
device steps carry, and `Instr`, with one constructor for every row of the opcode table.

A constructor of an instruction word takes first the extension `Ext` that its LIT word gives it
(R311, R313): guard predicate, guard negation and window.  The chain bit C is a property of the
packet (R309), not of the instruction.  A constructor without an encoding is a device step: a
command of a stream, a write of a register with behaviour of its own, or an event of the reed, the
links, the distributor, the cores, the looms, the shuttles, the memory system or the starts. -/

namespace Sys2Proof

/-- A beam: 0 or 1 (R12). -/
abbrev Beam := Fin 2
/-- A context of a beam's command processor (R94). -/
abbrev CtxN := Fin 16
/-- A ply, numbered 4 x beam + ply (R12). -/
abbrev Die := Fin 8
/-- A partition, numbered by its lowest die (R78). -/
abbrev PartN := Fin 8
/-- A host port (R73). -/
abbrev Port := Fin 2

/-- A scalar register field: s0 to s63 (R312). -/
abbrev SReg := BitVec 6
/-- A predicate register field: p0 to p15 (R312). -/
abbrev PReg := BitVec 4
/-- An index register field: ix0 to ix3 (R312). -/
abbrev IxReg := BitVec 2
/-- An accumulator tile field: acc0 to acc31 (R312). -/
abbrev AccReg := BitVec 5
/-- A tile name field: tl0 to tl63 (R312). -/
abbrev TileName := BitVec 6

/-- A vector or scale register field: REL and BASE (R312). -/
structure VOp where
  rel  : Bool
  base : BitVec 5
  deriving DecidableEq, Repr

/-- What a LIT word gives every format (R311): the guard's negation GN, its predicate GP and the
window selector W.  Without a LIT all three are 0. -/
structure Ext where
  gn  : Bool
  gp  : PReg
  win : BitVec 2
  deriving DecidableEq, Repr

/-- The extension of a word without a LIT (R311). -/
def Ext.none : Ext := ⟨false, 0, 0⟩

/-- The scalar types (R317). -/
inductive STy where
  | i64 | i32 | u32
  deriving DecidableEq, Repr

/-- The code of a value of `STy`: scalar types (R317). -/
def STy.code : STy → Nat
  | .i64 => 0
  | .i32 => 1
  | .u32 => 2

/-- The value of `STy` with a code, if one is assigned. -/
def STy.ofCode? : Nat → Option STy
  | 0 => some .i64
  | 1 => some .i32
  | 2 => some .u32
  | _ => none

/-- The vector integer types (R317). -/
inductive VTy where
  | i32 | u32 | i16 | i8
  deriving DecidableEq, Repr

/-- The code of a value of `VTy`: vector integer types (R317). -/
def VTy.code : VTy → Nat
  | .i32 => 0
  | .u32 => 1
  | .i16 => 2
  | .i8 => 3

/-- The value of `VTy` with a code, if one is assigned. -/
def VTy.ofCode? : Nat → Option VTy
  | 0 => some .i32
  | 1 => some .u32
  | 2 => some .i16
  | 3 => some .i8
  | _ => none

/-- The floating-point types (R317). -/
inductive FTy where
  | f32 | f16 | bf16
  deriving DecidableEq, Repr

/-- The code of a value of `FTy`: floating-point types (R317). -/
def FTy.code : FTy → Nat
  | .f32 => 0
  | .f16 => 1
  | .bf16 => 2

/-- The value of `FTy` with a code, if one is assigned. -/
def FTy.ofCode? : Nat → Option FTy
  | 0 => some .f32
  | 1 => some .f16
  | 2 => some .bf16
  | _ => none

/-- The conditions of SCMP and VCMP (R317). -/
inductive Cond where
  | eq | ne | lt | le | gt | ge
  deriving DecidableEq, Repr

/-- The code of a value of `Cond`: conditions of SCMP and VCMP (R317). -/
def Cond.code : Cond → Nat
  | .eq => 0
  | .ne => 1
  | .lt => 2
  | .le => 3
  | .gt => 4
  | .ge => 5

/-- The value of `Cond` with a code, if one is assigned. -/
def Cond.ofCode? : Nat → Option Cond
  | 0 => some .eq
  | 1 => some .ne
  | 2 => some .lt
  | 3 => some .le
  | 4 => some .gt
  | 5 => some .ge
  | _ => none

/-- The conditions of VFCMP (R317). -/
inductive FCond where
  | eq | ne | lt | le | gt | ge | un | ord
  deriving DecidableEq, Repr

/-- The code of a value of `FCond`: conditions of VFCMP (R317). -/
def FCond.code : FCond → Nat
  | .eq => 0
  | .ne => 1
  | .lt => 2
  | .le => 3
  | .gt => 4
  | .ge => 5
  | .un => 6
  | .ord => 7

/-- The value of `FCond` with a code, if one is assigned. -/
def FCond.ofCode? : Nat → Option FCond
  | 0 => some .eq
  | 1 => some .ne
  | 2 => some .lt
  | 3 => some .le
  | 4 => some .gt
  | 5 => some .ge
  | 6 => some .un
  | 7 => some .ord
  | _ => none

/-- The conversion types DT and ST (R317). -/
inductive NTy where
  | f32 | f16 | bf16 | e4m3 | e5m2 | e2m3 | e3m2 | e2m1 | i8 | i16 | i32 | u32 | i64 | ts8
  deriving DecidableEq, Repr

/-- The code of a value of `NTy`: conversion types DT and ST (R317). -/
def NTy.code : NTy → Nat
  | .f32 => 0
  | .f16 => 1
  | .bf16 => 2
  | .e4m3 => 3
  | .e5m2 => 4
  | .e2m3 => 5
  | .e3m2 => 6
  | .e2m1 => 7
  | .i8 => 8
  | .i16 => 9
  | .i32 => 10
  | .u32 => 11
  | .i64 => 12
  | .ts8 => 13

/-- The value of `NTy` with a code, if one is assigned. -/
def NTy.ofCode? : Nat → Option NTy
  | 0 => some .f32
  | 1 => some .f16
  | 2 => some .bf16
  | 3 => some .e4m3
  | 4 => some .e5m2
  | 5 => some .e2m3
  | 6 => some .e3m2
  | 7 => some .e2m1
  | 8 => some .i8
  | 9 => some .i16
  | 10 => some .i32
  | 11 => some .u32
  | 12 => some .i64
  | 13 => some .ts8
  | _ => none

/-- The memory types (R317). -/
inductive MTy where
  | i8 | i16 | i32 | u32 | i64 | f32 | f16 | bf16
  deriving DecidableEq, Repr

/-- The code of a value of `MTy`: memory types (R317). -/
def MTy.code : MTy → Nat
  | .i8 => 0
  | .i16 => 1
  | .i32 => 2
  | .u32 => 3
  | .i64 => 4
  | .f32 => 5
  | .f16 => 6
  | .bf16 => 7

/-- The value of `MTy` with a code, if one is assigned. -/
def MTy.ofCode? : Nat → Option MTy
  | 0 => some .i8
  | 1 => some .i16
  | 2 => some .i32
  | 3 => some .u32
  | 4 => some .i64
  | 5 => some .f32
  | 6 => some .f16
  | 7 => some .bf16
  | _ => none

/-- The memory spaces of the M and MG formats (R317). -/
inductive Sp where
  | g | s | p | v | r
  deriving DecidableEq, Repr

/-- The code of a value of `Sp`: memory spaces of the M and MG formats (R317). -/
def Sp.code : Sp → Nat
  | .g => 0
  | .s => 1
  | .p => 2
  | .v => 3
  | .r => 4

/-- The value of `Sp` with a code, if one is assigned. -/
def Sp.ofCode? : Nat → Option Sp
  | 0 => some .g
  | 1 => some .s
  | 2 => some .p
  | 3 => some .v
  | 4 => some .r
  | _ => none

/-- The memory spaces of the AT and AV formats (R317). -/
inductive ASp where
  | g | s | v | r
  deriving DecidableEq, Repr

/-- The code of a value of `ASp`: memory spaces of the AT and AV formats (R317). -/
def ASp.code : ASp → Nat
  | .g => 0
  | .s => 1
  | .v => 2
  | .r => 3

/-- The value of `ASp` with a code, if one is assigned. -/
def ASp.ofCode? : Nat → Option ASp
  | 0 => some .g
  | 1 => some .s
  | 2 => some .v
  | 3 => some .r
  | _ => none

/-- The MX element formats of VLDMX, VSTMX, KAMAX, RQ and RQS (R317). -/
inductive MxF where
  | e4m3 | e5m2 | e2m3 | e3m2 | e2m1
  deriving DecidableEq, Repr

/-- The code of a value of `MxF`: MX element formats of VLDMX, VSTMX, KAMAX, RQ and RQS (R317). -/
def MxF.code : MxF → Nat
  | .e4m3 => 0
  | .e5m2 => 1
  | .e2m3 => 2
  | .e3m2 => 3
  | .e2m1 => 4

/-- The value of `MxF` with a code, if one is assigned. -/
def MxF.ofCode? : Nat → Option MxF
  | 0 => some .e4m3
  | 1 => some .e5m2
  | 2 => some .e2m3
  | 3 => some .e3m2
  | 4 => some .e2m1
  | _ => none

/-- The atomic types (R317). -/
inductive ATy where
  | u32 | i32 | i64 | f32
  deriving DecidableEq, Repr

/-- The code of a value of `ATy`: atomic types (R317). -/
def ATy.code : ATy → Nat
  | .u32 => 0
  | .i32 => 1
  | .i64 => 2
  | .f32 => 3

/-- The value of `ATy` with a code, if one is assigned. -/
def ATy.ofCode? : Nat → Option ATy
  | 0 => some .u32
  | 1 => some .i32
  | 2 => some .i64
  | 3 => some .f32
  | _ => none

/-- The atomic operations (R318). -/
inductive AOp where
  | xchg | add | andB | orB | xorB | min | max | cas
  deriving DecidableEq, Repr

/-- The code of a value of `AOp`: atomic operations (R318). -/
def AOp.code : AOp → Nat
  | .xchg => 0
  | .add => 1
  | .andB => 2
  | .orB => 3
  | .xorB => 4
  | .min => 5
  | .max => 6
  | .cas => 7

/-- The value of `AOp` with a code, if one is assigned. -/
def AOp.ofCode? : Nat → Option AOp
  | 0 => some .xchg
  | 1 => some .add
  | 2 => some .andB
  | 3 => some .orB
  | 4 => some .xorB
  | 5 => some .min
  | 6 => some .max
  | 7 => some .cas
  | _ => none

/-- The ordering suffixes (R317). -/
inductive AOrd where
  | rlx | acq | rel | ar
  deriving DecidableEq, Repr

/-- The code of a value of `AOrd`: ordering suffixes (R317). -/
def AOrd.code : AOrd → Nat
  | .rlx => 0
  | .acq => 1
  | .rel => 2
  | .ar => 3

/-- The value of `AOrd` with a code, if one is assigned. -/
def AOrd.ofCode? : Nat → Option AOrd
  | 0 => some .rlx
  | 1 => some .acq
  | 2 => some .rel
  | 3 => some .ar
  | _ => none

/-- The B formats of LDW (R317). -/
inductive BFmt where
  | e4m3 | e5m2 | e2m3 | e3m2 | e2m1 | ts8 | bf16 | f16
  deriving DecidableEq, Repr

/-- The code of a value of `BFmt`: B formats of LDW (R317). -/
def BFmt.code : BFmt → Nat
  | .e4m3 => 0
  | .e5m2 => 1
  | .e2m3 => 2
  | .e3m2 => 3
  | .e2m1 => 4
  | .ts8 => 5
  | .bf16 => 6
  | .f16 => 7

/-- The value of `BFmt` with a code, if one is assigned. -/
def BFmt.ofCode? : Nat → Option BFmt
  | 0 => some .e4m3
  | 1 => some .e5m2
  | 2 => some .e2m3
  | 3 => some .e3m2
  | 4 => some .e2m1
  | 5 => some .ts8
  | 6 => some .bf16
  | 7 => some .f16
  | _ => none

/-- The A formats of MMQ and MMQT (R317). -/
inductive AFmt where
  | e4m3 | e5m2 | e2m3 | e3m2 | e2m1 | bf16 | f16
  deriving DecidableEq, Repr

/-- The code of a value of `AFmt`: A formats of MMQ and MMQT (R317). -/
def AFmt.code : AFmt → Nat
  | .e4m3 => 0
  | .e5m2 => 1
  | .e2m3 => 2
  | .e3m2 => 3
  | .e2m1 => 4
  | .bf16 => 5
  | .f16 => 6

/-- The value of `AFmt` with a code, if one is assigned. -/
def AFmt.ofCode? : Nat → Option AFmt
  | 0 => some .e4m3
  | 1 => some .e5m2
  | 2 => some .e2m3
  | 3 => some .e3m2
  | 4 => some .e2m1
  | 5 => some .bf16
  | 6 => some .f16
  | _ => none

/-- The barrier levels (R317). -/
inductive Lvl where
  | grp | bolt | beam
  deriving DecidableEq, Repr

/-- The code of a value of `Lvl`: barrier levels (R317). -/
def Lvl.code : Lvl → Nat
  | .grp => 0
  | .bolt => 1
  | .beam => 2

/-- The value of `Lvl` with a code, if one is assigned. -/
def Lvl.ofCode? : Nat → Option Lvl
  | 0 => some .grp
  | 1 => some .bolt
  | 2 => some .beam
  | _ => none

/-- The tile sizes of PART (R317). -/
inductive PartSz where
  | t2 | t4 | t8 | t16 | t32
  deriving DecidableEq, Repr

/-- The code of a value of `PartSz`: tile sizes of PART (R317). -/
def PartSz.code : PartSz → Nat
  | .t2 => 1
  | .t4 => 2
  | .t8 => 3
  | .t16 => 4
  | .t32 => 5

/-- The value of `PartSz` with a code, if one is assigned. -/
def PartSz.ofCode? : Nat → Option PartSz
  | 1 => some .t2
  | 2 => some .t4
  | 3 => some .t8
  | 4 => some .t16
  | 5 => some .t32
  | _ => none

/-- The operators of VRED and VSCAN (R318). -/
inductive ROp where
  | add | min | max | andB | orB | xorB
  deriving DecidableEq, Repr

/-- The code of a value of `ROp`: operators of VRED and VSCAN (R318). -/
def ROp.code : ROp → Nat
  | .add => 0
  | .min => 1
  | .max => 2
  | .andB => 3
  | .orB => 4
  | .xorB => 5

/-- The value of `ROp` with a code, if one is assigned. -/
def ROp.ofCode? : Nat → Option ROp
  | 0 => some .add
  | 1 => some .min
  | 2 => some .max
  | 3 => some .andB
  | 4 => some .orB
  | 5 => some .xorB
  | _ => none

/-- The types of VRED and VSCAN (R318). -/
inductive RTy where
  | f32 | i32 | u32
  deriving DecidableEq, Repr

/-- The code of a value of `RTy`: types of VRED and VSCAN (R318). -/
def RTy.code : RTy → Nat
  | .f32 => 0
  | .i32 => 1
  | .u32 => 2

/-- The value of `RTy` with a code, if one is assigned. -/
def RTy.ofCode? : Nat → Option RTy
  | 0 => some .f32
  | 1 => some .i32
  | 2 => some .u32
  | _ => none

/-- The modes of VVOTE (R318). -/
inductive Vote where
  | all | any | ballot
  deriving DecidableEq, Repr

/-- The code of a value of `Vote`: modes of VVOTE (R318). -/
def Vote.code : Vote → Nat
  | .all => 0
  | .any => 1
  | .ballot => 2

/-- The value of `Vote` with a code, if one is assigned. -/
def Vote.ofCode? : Nat → Option Vote
  | 0 => some .all
  | 1 => some .any
  | 2 => some .ballot
  | _ => none

/-- The special registers (R461). -/
inductive SpReg where
  | clock | rmask | draw | rseq | who | launch | boltlo | bolthi | plyheat | tframe | ctxid | hscr0 | hscr1
  deriving DecidableEq, Repr

/-- The code of a value of `SpReg`: special registers (R461). -/
def SpReg.code : SpReg → Nat
  | .clock => 0
  | .rmask => 1
  | .draw => 2
  | .rseq => 3
  | .who => 4
  | .launch => 5
  | .boltlo => 6
  | .bolthi => 7
  | .plyheat => 8
  | .tframe => 256
  | .ctxid => 257
  | .hscr0 => 258
  | .hscr1 => 259

/-- The value of `SpReg` with a code, if one is assigned. -/
def SpReg.ofCode? : Nat → Option SpReg
  | 0 => some .clock
  | 1 => some .rmask
  | 2 => some .draw
  | 3 => some .rseq
  | 4 => some .who
  | 5 => some .launch
  | 6 => some .boltlo
  | 7 => some .bolthi
  | 8 => some .plyheat
  | 256 => some .tframe
  | 257 => some .ctxid
  | 258 => some .hscr0
  | 259 => some .hscr1
  | _ => none

/-- The register apertures of a port (R73, R74). -/
inductive BarSel where
  | bar0 | bar2
  deriving DecidableEq, Repr

/-- A host write to a register aperture (R75): the port, the aperture, the byte offset in it, the
width in bytes (1, 2, 4 or 8) and the data. -/
structure HostWrite where
  port : Port
  bar  : BarSel
  off  : Nat
  size : Nat
  data : BitVec 64
  deriving DecidableEq, Repr

/-- A host read of a register aperture (R75). -/
structure HostRead where
  port : Port
  bar  : BarSel
  off  : Nat
  size : Nat
  deriving DecidableEq, Repr

/-- A host access through BAR4 (R83): the offset, and the bytes of a write or the length of a
read. -/
structure Bar4Req where
  port  : Port
  off   : Nat
  write : Option (List (BitVec 8))
  len   : Nat
  deriving DecidableEq, Repr

/-- What a remote requester asks for (R56, R57). -/
inductive RemoteOp where
  | load | store | atomic
  deriving DecidableEq, Repr

/-- A remote access that arrives over the links (R56). -/
structure InboundReq where
  beam : Beam
  peer : BitVec 10
  off  : Nat
  kind : RemoteOp
  aop  : AOp
  aty  : ATy
  data : List (BitVec 8)
  cmp  : BitVec 64
  len  : Nat
  deriving DecidableEq, Repr

/-- A contribution that arrives from a peer for a collective (R60, R65). -/
structure Contribution where
  coll  : Nat
  chunk : Nat
  peer  : BitVec 10
  rank  : Nat
  data  : List (BitVec 8)
  deriving DecidableEq, Repr

/-- The loom resources that a grant is made for (R162). -/
inductive LoomRes where
  | stream | load | drain | plane
  deriving DecidableEq, Repr

/-- The protected word that a soft error strikes (R194): a lane of a vector register, a scale
register, an accumulator element, a word of scratch, of a vault, of a ply's reed mirror or of a dent
of a stack log, a word of an L1 that is clean or dirty, of an L2 slice, or of HBM4E. -/
inductive SoftTarget where
  | lane (wid : Nat) (r : BitVec 8) (l : BitVec 5)
  | scale (wid : Nat) (r : BitVec 8)
  | acc (gid : Nat) (t : BitVec 5) (row : BitVec 3) (col : BitVec 7)
  | scratch (gid : Nat) (off : Nat)
  | vault (a : Nat)
  | mirror (d : Die) (off : Nat)
  | stackLog (b : Beam) (dsn : Nat)
  | l1 (pa : Nat) (dirty : Bool)
  | l2 (pa : Nat)
  | hbm (pa : Nat)
  deriving DecidableEq, Repr

/-- A soft error (R194, R271 to R274): where it strikes and whether its code corrects it. -/
structure SoftErr where
  target      : SoftTarget
  correctable : Bool
  deriving DecidableEq, Repr

/-- The instructions of the AX8, one constructor for each row of the opcode table. [DESIGN CHOICE, log 55] -/
inductive Instr where
  /-- SADD: Scalar add of sA and sB into sD, wrapping at the width the type sets. (R332) -/
  | sadd (x : Ext) (t : STy) (d : SReg) (a : SReg) (b : SReg)
  /-- SSUB: Scalar subtract of sB from sA into sD. (R332) -/
  | ssub (x : Ext) (t : STy) (d : SReg) (a : SReg) (b : SReg)
  /-- SMUL: Low w bits of the scalar product into sD. (R332) -/
  | smul (x : Ext) (t : STy) (d : SReg) (a : SReg) (b : SReg)
  /-- SMULH: High w bits of the exact scalar product into sD. (R332) -/
  | smulh (x : Ext) (t : STy) (d : SReg) (a : SReg) (b : SReg)
  /-- SDIV: Scalar quotient rounded towards zero, with fixed results for division by zero and overflow. (R333) -/
  | sdiv (x : Ext) (t : STy) (d : SReg) (a : SReg) (b : SReg)
  /-- SREM: Scalar remainder taking the sign of the dividend. (R333) -/
  | srem (x : Ext) (t : STy) (d : SReg) (a : SReg) (b : SReg)
  /-- SAND: Scalar bitwise AND. (R332) -/
  | sand (x : Ext) (t : STy) (d : SReg) (a : SReg) (b : SReg)
  /-- SOR: Scalar bitwise OR. (R332) -/
  | sor (x : Ext) (t : STy) (d : SReg) (a : SReg) (b : SReg)
  /-- SXOR: Scalar bitwise XOR. (R332) -/
  | sxor (x : Ext) (t : STy) (d : SReg) (a : SReg) (b : SReg)
  /-- SSHL: Scalar shift left by sB mod w. (R332) -/
  | sshl (x : Ext) (t : STy) (d : SReg) (a : SReg) (b : SReg)
  /-- SSHR: Scalar logical shift right by sB mod w. (R332) -/
  | sshr (x : Ext) (t : STy) (d : SReg) (a : SReg) (b : SReg)
  /-- SSRA: Scalar arithmetic shift right by sB mod w. (R332) -/
  | ssra (x : Ext) (t : STy) (d : SReg) (a : SReg) (b : SReg)
  /-- SMIN: Lesser of sA and sB, signed or unsigned by type. (R332) -/
  | smin (x : Ext) (t : STy) (d : SReg) (a : SReg) (b : SReg)
  /-- SMAX: Greater of sA and sB, signed or unsigned by type. (R332) -/
  | smax (x : Ext) (t : STy) (d : SReg) (a : SReg) (b : SReg)
  /-- SMAD: Low w bits of sA times sB plus sC, sC carried in a LIT. (R332) -/
  | smad (x : Ext) (t : STy) (d : SReg) (a : SReg) (b : SReg) (e : SReg)
  /-- SMOV: Scalar move, whole or with 32-bit sign or zero extension. (R334) -/
  | smov (x : Ext) (t : STy) (d : SReg) (a : SReg)
  /-- SMOV_TO_IX: Moves sA[15:0] into an index register. (R334) -/
  | smovToIx (x : Ext) (d : IxReg) (a : SReg)
  /-- SMOV_FROM_IX: Moves an index register, zero-extended, into sD. (R334) -/
  | smovFromIx (x : Ext) (d : SReg) (a : IxReg)
  /-- SCMP: Compares two scalars and writes the result to a predicate in the active lanes. (R336) -/
  | scmp (x : Ext) (k : Cond) (t : STy) (d : PReg) (a : SReg) (b : SReg)
  /-- SSEL: Selects sA or sB into sD by a predicate condition. (R337) -/
  | ssel (x : Ext) (n : PReg) (d : SReg) (a : SReg) (b : SReg)
  /-- SPOPC: Counts the set bits of sA. (R338) -/
  | spopc (x : Ext) (d : SReg) (a : SReg)
  /-- SCLZ: Counts the leading zero bits of sA. (R338) -/
  | sclz (x : Ext) (d : SReg) (a : SReg)
  /-- SCVT: Converts a scalar between float and integer types with RNE or RZ rounding. (R343) -/
  | scvt (x : Ext) (t : NTy) (s : NTy) (d : SReg) (a : SReg) (r : Bool)
  /-- SADDI: Adds a signed immediate to sA. (R339) -/
  | saddi (x : Ext) (d : SReg) (a : SReg) (i : BitVec 31)
  /-- SLI: Loads a sign-extended immediate into sD. (R340) -/
  | sli (x : Ext) (d : SReg) (i : BitVec 37)
  /-- SLIH: Loads an immediate into the high half of sD, keeping the low half. (R340) -/
  | slih (x : Ext) (d : SReg) (i : BitVec 32)
  /-- SBFX: Extracts a bit field of sA, zero- or sign-extended. (R341) -/
  | sbfx (x : Ext) (d : SReg) (a : SReg) (p : BitVec 6) (l : BitVec 6) (sx : Bool)
  /-- SBFI: Inserts the low bits of sA into a field of sD. (R341) -/
  | sbfi (x : Ext) (d : SReg) (a : SReg) (p : BitVec 6) (l : BitVec 6)
  /-- PAND: Lane-wise AND of two predicates in the active lanes. (R381) -/
  | pand (x : Ext) (d : PReg) (a : PReg) (b : PReg)
  /-- POR: Lane-wise OR of two predicates in the active lanes. (R381) -/
  | por (x : Ext) (d : PReg) (a : PReg) (b : PReg)
  /-- PXOR: Lane-wise XOR of two predicates in the active lanes. (R381) -/
  | pxor (x : Ext) (d : PReg) (a : PReg) (b : PReg)
  /-- PNOT: Lane-wise NOT of a predicate in the active lanes. (R381) -/
  | pnot (x : Ext) (d : PReg) (a : PReg)
  /-- PMOV: Copies a predicate in the active lanes. (R381) -/
  | pmov (x : Ext) (d : PReg) (a : PReg)
  /-- PPOPC: Counts the active lanes set in a predicate into sD. (R381) -/
  | ppopc (x : Ext) (d : SReg) (a : PReg)
  /-- PART: Sets the partition register to tiles of 2^SZ lanes. (R382) -/
  | part (x : Ext) (z : PartSz)
  /-- VADD: Lane-wise integer add. (R365) -/
  | vadd (x : Ext) (t : VTy) (d : VOp) (a : VOp) (b : VOp)
  /-- VSUB: Lane-wise integer subtract. (R365) -/
  | vsub (x : Ext) (t : VTy) (d : VOp) (a : VOp) (b : VOp)
  /-- VMUL: Lane-wise low product. (R365) -/
  | vmul (x : Ext) (t : VTy) (d : VOp) (a : VOp) (b : VOp)
  /-- VMULH: Lane-wise high product. (R365) -/
  | vmulh (x : Ext) (t : VTy) (d : VOp) (a : VOp) (b : VOp)
  /-- VMAD: Lane-wise multiply-add with vC from a LIT. (R365) -/
  | vmad (x : Ext) (t : VTy) (d : VOp) (a : VOp) (b : VOp) (e : VOp)
  /-- VAND: Lane-wise bitwise AND. (R365) -/
  | vand (x : Ext) (t : VTy) (d : VOp) (a : VOp) (b : VOp)
  /-- VOR: Lane-wise bitwise OR. (R365) -/
  | vor (x : Ext) (t : VTy) (d : VOp) (a : VOp) (b : VOp)
  /-- VXOR: Lane-wise bitwise XOR. (R365) -/
  | vxor (x : Ext) (t : VTy) (d : VOp) (a : VOp) (b : VOp)
  /-- VSHL: Lane-wise shift left. (R365) -/
  | vshl (x : Ext) (t : VTy) (d : VOp) (a : VOp) (b : VOp)
  /-- VSHR: Lane-wise logical shift right. (R365) -/
  | vshr (x : Ext) (t : VTy) (d : VOp) (a : VOp) (b : VOp)
  /-- VSRA: Lane-wise arithmetic shift right. (R365) -/
  | vsra (x : Ext) (t : VTy) (d : VOp) (a : VOp) (b : VOp)
  /-- VMIN: Lane-wise integer minimum. (R365) -/
  | vmin (x : Ext) (t : VTy) (d : VOp) (a : VOp) (b : VOp)
  /-- VMAX: Lane-wise integer maximum. (R365) -/
  | vmax (x : Ext) (t : VTy) (d : VOp) (a : VOp) (b : VOp)
  /-- VSEL: Selects vA or vB per lane by predicate pC from a LIT. (R365) -/
  | vsel (x : Ext) (d : VOp) (a : VOp) (b : VOp) (n : PReg)
  /-- VMOV: Copies active lanes of vA and the whole scale register kA. (R365) -/
  | vmov (x : Ext) (d : VOp) (a : VOp)
  /-- VABS: Lane-wise wrapping absolute value. (R365) -/
  | vabs (x : Ext) (t : VTy) (d : VOp) (a : VOp)
  /-- VPOPC: Per-element population count. (R366) -/
  | vpopc (x : Ext) (t : VTy) (d : VOp) (a : VOp)
  /-- VCLZ: Per-element leading-zero count. (R366) -/
  | vclz (x : Ext) (t : VTy) (d : VOp) (a : VOp)
  /-- VIOTA: Writes each lane's number. (R366) -/
  | viota (x : Ext) (d : VOp)
  /-- VBCAST: Broadcasts sA[31:0] to the active lanes. (R366) -/
  | vbcast (x : Ext) (d : VOp) (a : SReg)
  /-- VEXTR: Extracts the lane named by sB into sD. (R366) -/
  | vextr (x : Ext) (d : SReg) (a : VOp) (b : SReg)
  /-- VCMP: Lane-wise integer compare into a predicate. (R367) -/
  | vcmp (x : Ext) (k : Cond) (t : VTy) (d : PReg) (a : VOp) (b : VOp)
  /-- VFADD: Lane-wise floating add, one RNE rounding. (R369) -/
  | vfadd (x : Ext) (t : FTy) (d : VOp) (a : VOp) (b : VOp)
  /-- VFSUB: Lane-wise floating subtract. (R369) -/
  | vfsub (x : Ext) (t : FTy) (d : VOp) (a : VOp) (b : VOp)
  /-- VFMUL: Lane-wise floating multiply. (R369) -/
  | vfmul (x : Ext) (t : FTy) (d : VOp) (a : VOp) (b : VOp)
  /-- VFMA: Lane-wise fused multiply-add with one rounding. (R369) -/
  | vfma (x : Ext) (t : FTy) (d : VOp) (a : VOp) (b : VOp) (e : VOp)
  /-- VFMS: Lane-wise fused multiply-subtract with one rounding. (R369) -/
  | vfms (x : Ext) (t : FTy) (d : VOp) (a : VOp) (b : VOp) (e : VOp)
  /-- VFMIN: Lane-wise floating minimum, -0 below +0. (R369) -/
  | vfmin (x : Ext) (t : FTy) (d : VOp) (a : VOp) (b : VOp)
  /-- VFMAX: Lane-wise floating maximum. (R369) -/
  | vfmax (x : Ext) (t : FTy) (d : VOp) (a : VOp) (b : VOp)
  /-- VFABS: Clears the sign bit of each element. (R369) -/
  | vfabs (x : Ext) (t : FTy) (d : VOp) (a : VOp)
  /-- VFNEG: Inverts the sign bit of each element. (R369) -/
  | vfneg (x : Ext) (t : FTy) (d : VOp) (a : VOp)
  /-- VFCLASS: Writes the class word of each element. (R370) -/
  | vfclass (x : Ext) (t : FTy) (d : VOp) (a : VOp)
  /-- VFCMP: Lane-wise IEEE FP32 compare into a predicate. (R371) -/
  | vfcmp (x : Ext) (k : FCond) (d : PReg) (a : VOp) (b : VOp)
  /-- VCVT: Lane-wise type conversion with RNE or RZ. (R375) -/
  | vcvt (x : Ext) (t : NTy) (s : NTy) (d : VOp) (a : VOp) (r : Bool)
  /-- VPACK: Packs narrower elements, or folds FP32 registers into one MX register image and its scales. (R377) -/
  | vpack (x : Ext) (t : NTy) (s : NTy) (d : VOp) (a : VOp) (r : Bool)
  /-- VUNPACK: Widens packed or MX elements into consecutive registers. (R378) -/
  | vunpack (x : Ext) (t : NTy) (s : NTy) (d : VOp) (a : VOp)
  /-- KMOV: Copies a scale register whole. (R379) -/
  | kmov (x : Ext) (d : VOp) (a : VOp)
  /-- KSET: Writes sA into a scale register. (R379) -/
  | kset (x : Ext) (d : VOp) (a : SReg)
  /-- KGET: Reads a scale register into sD. (R379) -/
  | kget (x : Ext) (d : SReg) (a : VOp)
  /-- KAMAX: Computes MX block scale codes of registers into kD. (R380) -/
  | kamax (x : Ext) (t : MxF) (d : VOp) (a : VOp)
  /-- VSHFL: Shuffles lanes within each tile by a lane index in vB. (R384) -/
  | vshfl (x : Ext) (d : VOp) (a : VOp) (b : VOp)
  /-- VSHFLUP: Shifts lanes up by n within each tile. (R384) -/
  | vshflup (x : Ext) (d : VOp) (a : VOp) (n : BitVec 5)
  /-- VSHFLDN: Shifts lanes down by n within each tile. (R384) -/
  | vshfldn (x : Ext) (d : VOp) (a : VOp) (n : BitVec 5)
  /-- VSHFLX: Exchanges lanes by XOR of the in-tile index. (R384) -/
  | vshflx (x : Ext) (d : VOp) (a : VOp) (n : BitVec 5)
  /-- VVOTE: Tile vote all or any into a predicate, or ballot into sD. (R385) -/
  | vvote (x : Ext) (t : Vote) (d : BitVec 6) (a : PReg)
  /-- VRED: Fixed-tree reduction over each tile. (R386) -/
  | vred (x : Ext) (t : RTy) (d : VOp) (a : VOp) (o : ROp)
  /-- VSCAN: Fixed-tree inclusive or exclusive scan over each tile. (R386) -/
  | vscan (x : Ext) (t : RTy) (d : VOp) (a : VOp) (ex : Bool) (o : ROp)
  /-- VRAND: Writes four random words per active lane and advances the draw index. (R387) -/
  | vrand (x : Ext) (d : VOp) (a : SReg)
  /-- VBFX: Lane-wise bit-field extract. (R368) -/
  | vbfx (x : Ext) (d : VOp) (a : VOp) (p : BitVec 5) (l : BitVec 5) (sx : Bool)
  /-- VRCP: Correctly rounded reciprocal per lane. (R372) -/
  | vrcp (x : Ext) (d : VOp) (a : VOp)
  /-- VRSQ: Correctly rounded reciprocal square root. (R372) -/
  | vrsq (x : Ext) (d : VOp) (a : VOp)
  /-- VSQRT: Correctly rounded square root. (R372) -/
  | vsqrt (x : Ext) (d : VOp) (a : VOp)
  /-- VEXP2: Correctly rounded base-2 exponential. (R372) -/
  | vexp2 (x : Ext) (d : VOp) (a : VOp)
  /-- VLOG2: Correctly rounded base-2 logarithm. (R372) -/
  | vlog2 (x : Ext) (d : VOp) (a : VOp)
  /-- VSIN: Correctly rounded sine. (R372) -/
  | vsin (x : Ext) (d : VOp) (a : VOp)
  /-- VCOS: Correctly rounded cosine. (R372) -/
  | vcos (x : Ext) (d : VOp) (a : VOp)
  /-- VTANH: Correctly rounded hyperbolic tangent. (R372) -/
  | vtanh (x : Ext) (d : VOp) (a : VOp)
  /-- LD: Scalar load into sD, counting in LC and writing a residency flag. (R394) -/
  | ld (x : Ext) (t : MTy) (sp : Sp) (o : Bool) (d : SReg) (a : SReg) (f : BitVec 20) (rp : PReg)
  /-- ST: Scalar store of sD, counting in SC. (R394) -/
  | st (x : Ext) (t : MTy) (sp : Sp) (o : Bool) (d : SReg) (a : SReg) (f : BitVec 20)
  /-- VLD: Lane-wise contiguous vector load. (R394) -/
  | vld (x : Ext) (t : MTy) (sp : Sp) (o : Bool) (d : VOp) (a : SReg) (f : BitVec 20) (rp : PReg)
  /-- VST: Lane-wise contiguous vector store. (R394) -/
  | vst (x : Ext) (t : MTy) (sp : Sp) (o : Bool) (d : VOp) (a : SReg) (f : BitVec 20)
  /-- VLDG: Gather load with per-lane scaled index. (R394) -/
  | vldg (x : Ext) (t : MTy) (sp : Sp) (o : Bool) (d : VOp) (i : VOp) (k : BitVec 2) (s : SReg) (rp : PReg)
  /-- VSTS: Scatter store with per-lane scaled index. (R394) -/
  | vsts (x : Ext) (t : MTy) (sp : Sp) (o : Bool) (d : VOp) (i : VOp) (k : BitVec 2) (s : SReg)
  /-- VLDMX: Loads one MX register image and its scales from MX lines. (R396) -/
  | vldmx (x : Ext) (t : MxF) (sp : Sp) (o : Bool) (d : VOp) (a : SReg) (f : BitVec 20) (rp : PReg)
  /-- VSTMX: Stores one MX register image and its scales into MX lines. (R397) -/
  | vstmx (x : Ext) (t : MxF) (sp : Sp) (o : Bool) (d : VOp) (a : SReg) (f : BitVec 20)
  /-- ATOM: Scalar atomic read-modify-write at the location's home. (R399) -/
  | atom (x : Ext) (o : AOp) (r : AOrd) (t : ATy) (sp : ASp) (nr : Bool) (d : SReg) (a : SReg) (f : BitVec 12) (e : SReg)
  /-- VATOM: Per-lane atomic read-modify-write, lanes to one location in lane order. (R399) -/
  | vatom (x : Ext) (o : AOp) (r : AOrd) (t : ATy) (sp : ASp) (nr : Bool) (d : VOp) (i : VOp) (s : SReg) (e : VOp)
  /-- FENCE: Address-less release, acquire or both. (R231) -/
  | fence (x : Ext) (r : AOrd)
  /-- WAIT: Held until the outstanding counters meet its immediates. (R158) -/
  | wait (x : Ext) (l : BitVec 6) (s : BitVec 6) (k : BitVec 4) (t : BitVec 4)
  /-- MWATCH: Reads a word at its point of coherence and records address and value. (R407) -/
  | mwatch (x : Ext) (w : Bool) (sp : Sp) (a : SReg) (f : BitVec 29)
  /-- MWAIT: Blocks until the watched word differs from the recorded value. (R408) -/
  | mwait (x : Ext)
  /-- PGREQ: Posts a page request record to the context's queue. (R409) -/
  | pgreq (x : Ext) (a : SReg) (b : SReg)
  /-- PGPREF: Fills the TLB with a valid resident translation, without fault. (R409) -/
  | pgpref (x : Ext) (a : SReg) (f : BitVec 29)
  /-- OFLUSH: Ordered-mode flush point held until the warp's epoch is flushed. (R410) -/
  | oflush (x : Ext)
  /-- ITSET: Copies an iterator record from scratch into a tile entry. (R413) -/
  | itset (x : Ext) (n : TileName) (a : SReg)
  /-- TDEF: Maps a tile name to a free entry with layout and format, plain or counted, optionally armed. (R414) -/
  | tdef (x : Ext) (n : TileName) (a : SReg) (b : SReg) (k : Bool) (m : Bool)
  /-- TFREE: Frees a plain entry or consumes the head slot of a counted entry. (R415) -/
  | tfree (x : Ext) (n : TileName)
  /-- TSTAT: Writes the tile entry image into a vector register. (R416) -/
  | tstat (x : Ext) (n : TileName) (a : VOp)
  /-- CPY: Starts a shuttle copy into or out of a tile entry. (R417) -/
  | cpy (x : Ext) (n : TileName) (out : Bool)
  /-- CPYT: Starts a transposing shuttle copy into or out of a tile entry. (R417) -/
  | cpyt (x : Ext) (n : TileName) (out : Bool)
  /-- CPYM: Starts a multicast copy to armed entries of the clusters in a mask. (R192) -/
  | cpym (x : Ext) (n : TileName) (a : SReg)
  /-- LDW: Loads the loom's shadow weight plane from a tile. (R426) -/
  | ldw (x : Ext) (a : TileName) (f : BFmt)
  /-- SWPW: Swaps the loom's weight planes and advances the generation. (R427) -/
  | swpw (x : Ext) (b : SReg)
  /-- MMQ: Streams register rows against the active plane into accumulator tiles. (R430) -/
  | mmq (x : Ext) (n : AccReg) (a : VOp) (b : SReg) (f : AFmt)
  /-- MMQ_TILE: Streams tile rows against the active plane into accumulator tiles. (R430) -/
  | mmqTile (x : Ext) (n : AccReg) (a : TileName) (b : SReg) (f : AFmt)
  /-- MMQT: Streams register rows across the transposed plane into accumulator tiles. (R430) -/
  | mmqt (x : Ext) (n : AccReg) (a : VOp) (b : SReg) (f : AFmt)
  /-- MMQT_TILE: Streams tile rows across the transposed plane into accumulator tiles. (R430) -/
  | mmqtTile (x : Ext) (n : AccReg) (a : TileName) (b : SReg) (f : AFmt)
  /-- MCLR: Clears an accumulator tile, its flags, ERR and STALE. (R432) -/
  | mclr (x : Ext) (n : AccReg)
  /-- MDRN: Drains an accumulator tile under a tensor scale into 32 registers and clears it. (R433) -/
  | mdrn (x : Ext) (n : AccReg) (a : VOp) (b : SReg)
  /-- MDRNT: Drains an accumulator tile into a tile entry and clears it. (R434) -/
  | mdrnt (x : Ext) (n : AccReg) (a : TileName) (b : SReg)
  /-- MSAV: Writes an accumulator tile image to global memory. (R436) -/
  | msav (x : Ext) (n : AccReg) (a : SReg)
  /-- MRST: Restores an accumulator tile from an image in global memory. (R437) -/
  | mrst (x : Ext) (n : AccReg) (a : SReg)
  /-- MSTAT: Writes a tile's status word and the generation to sB. (R435) -/
  | mstat (x : Ext) (n : AccReg) (b : SReg)
  /-- RQ: Requantises an accumulator tile into MX register images and clears it. (R439) -/
  | rq (x : Ext) (n : AccReg) (a : VOp) (f : MxF)
  /-- RQ_VECTOR: Requantises FP32 registers into one MX register image. (R439) -/
  | rqVector (x : Ext) (a : VOp) (b : VOp) (f : MxF)
  /-- RQS: Requantises an accumulator tile with stochastic rounding. (R440) -/
  | rqs (x : Ext) (n : AccReg) (a : VOp) (f : MxF) (e : SReg)
  /-- RQS_VECTOR: Requantises FP32 registers with stochastic rounding. (R440) -/
  | rqsVector (x : Ext) (a : VOp) (b : VOp) (f : MxF) (e : SReg)
  /-- BARV: Arrives at a named, bolt or beam barrier as a release. (R446) -/
  | barv (x : Ext) (l : Lvl) (n : BitVec 4)
  /-- BARW: Waits for the generation the warp arrived at, completing as an acquire. (R448) -/
  | barw (x : Ext) (l : Lvl) (n : BitVec 4)
  /-- BARM: Sets a named or bolt barrier's membership for the next generation. (R449) -/
  | barm (x : Ext) (l : Lvl) (n : BitVec 4) (a : SReg)
  /-- FETCHW: Reserves a counted slot and asks the distributor for work. (R451) -/
  | fetchw (x : Ext) (a : TileName)
  /-- REEDF: Held until the warp's reed writes and contributing tokens have passed and been applied. (R452) -/
  | reedf (x : Ext)
  /-- BR: Branches when the guard lane set is not empty. (R345) -/
  | br (x : Ext) (f : BitVec 37)
  /-- BRA: Branches when the guard holds in every active lane. (R345) -/
  | bra (x : Ext) (f : BitVec 37)
  /-- CALL: Writes the return PC to sD and branches. (R346) -/
  | call (x : Ext) (d : SReg) (f : BitVec 37)
  /-- BRV: Branches when the guard lane set is empty. (R345) -/
  | brv (x : Ext) (f : BitVec 37)
  /-- MIF: Pushes a mask-stack entry and narrows the active mask, branching if empty. (R350) -/
  | mif (x : Ext) (f : BitVec 39)
  /-- MELSE: Switches to the waiting else lanes or branches to the MEND. (R350) -/
  | melse (x : Ext) (f : BitVec 39)
  /-- MEND: Restores the outer mask and pops the mask stack. (R350) -/
  | mend (x : Ext)
  /-- MLOOP: Rejoins parked lanes and loops or pops. (R350) -/
  | mloop (x : Ext) (f : BitVec 39)
  /-- MBRK: Removes guarded lanes from the loop, branching if none remain. (R350) -/
  | mbrk (x : Ext) (f : BitVec 39)
  /-- MCONT: Parks guarded lanes until MLOOP, branching if none remain. (R350) -/
  | mcont (x : Ext) (f : BitVec 39)
  /-- NOP: Has no effect and occupies the B pipe. (R355) -/
  | nop (x : Ext)
  /-- RET: Branches to the byte address in sA. (R347) -/
  | ret (x : Ext) (a : SReg)
  /-- JMPI: Branches to the byte address in sA. (R347) -/
  | jmpi (x : Ext) (a : SReg)
  /-- YIELD: Swaps the warp out if a ready pending warp exists. (R356) -/
  | yield (x : Ext)
  /-- EXIT: Ends the whole warp; a report and flush point. (R357) -/
  | exit (x : Ext)
  /-- REGION: Opens an idempotent region, recording entry state; a report point. (R358) -/
  | region (x : Ext)
  /-- TRAP: Raises the precise TRAP cause with its immediate. (R359) -/
  | trap (x : Ext) (i : BitVec 33)
  /-- TFENCE: Performs a translation sweep of the partition and writes its report word. (R456) -/
  | tfence (x : Ext) (d : SReg)
  /-- OFENCE: Held until earlier register writes and stores are visible to engines. (R455) -/
  | ofence (x : Ext)
  /-- EFENCE: Waits for all counters to reach zero and reports pending faults. (R458) -/
  | efence (x : Ext)
  /-- TLBINV: Removes cached translations without a sweep. (R460) -/
  | tlbinv (x : Ext) (a : SReg)
  /-- SRD: Reads a special register into sD. (R461) -/
  | srd (x : Ext) (d : SReg) (s : SpReg)
  /-- SWR: Writes sA into a writable special register. (R461) -/
  | swr (x : Ext) (a : SReg) (s : SpReg)
  /-- TRET: Reloads the warp from its trap frame and leaves handler mode. (R465) -/
  | tret (x : Ext)
  /-- CLOBUSO_NOP: Stream command that completes at once. (R100) -/
  | clobusoNop (b : Beam) (c : CtxN)
  /-- LAUNCH: Reads and validates a launch descriptor and queues the launch. (R104) -/
  | launch (b : Beam) (c : CtxN)
  /-- LAUNCHI: Launches with grid extents read from memory. (R104) -/
  | launchi (b : Beam) (c : CtxN)
  /-- IF: Compares a memory word and runs or skips the following commands. (R108) -/
  | cIf (b : Beam) (c : CtxN)
  /-- ELSE: Ends a taken IF body by skipping to ENDIF. (R108) -/
  | cElse (b : Beam) (c : CtxN)
  /-- ENDIF: Closes an IF. (R108) -/
  | cEndif (b : Beam) (c : CtxN)
  /-- LOOP: Runs the commands to its ENDLOOP COUNT times. (R108) -/
  | cLoop (b : Beam) (c : CtxN)
  /-- ENDLOOP: Closes a LOOP body. (R108) -/
  | cEndloop (b : Beam) (c : CtxN)
  /-- WAITV: Waits until a memory word satisfies a condition. (R109) -/
  | waitv (b : Beam) (c : CtxN)
  /-- WAITV_READ: Repeated acquire read of a WAITV word at intervals of at most 1 µs. (R109) -/
  | waitvRead (b : Beam) (c : CtxN)
  /-- SIGNAL: Writes or adds to a word and optionally sends an MSI-X vector. (R110) -/
  | signal (b : Beam) (c : CtxN)
  /-- CLOBUSO_FENCE: Stream fence, with a translation sweep when T = 1. (R102) -/
  | clobusoFence (b : Beam) (c : CtxN)
  /-- COLL: Starts a collective on the collective engine from a descriptor. (R60) -/
  | coll (b : Beam) (c : CtxN)
  /-- OPEN: Opens a version domain with its flag word. (R112) -/
  | cOpen (b : Beam) (c : CtxN)
  /-- COMMIT: Closes a version domain, flipping the generation if the flag word is zero, and refreshes shadows. (R221) -/
  | commit (b : Beam) (c : CtxN)
  /-- ABORT: Abandons a training step and closes the domain. (R221) -/
  | abort (b : Beam) (c : CtxN)
  /-- PAGE: Makes listed pages resident and sweeps the partition. (R113) -/
  | page (b : Beam) (c : CtxN)
  /-- LAUNCH_COMPLETE: A launch becomes complete, releasing its stores to waiting commands. (R102) -/
  | launchComplete (l : Nat)
  /-- POWER_UP: Power is applied and a cold start begins. (R85) -/
  | powerUp
  /-- QUOTE_DONE: The signed quote is finished and DONE_SEQ set. (R92) -/
  | quoteDone (q : Port)
  /-- L2WB_DONE: Every slice has finished the write-back and BUSY returns to 0. (R215) -/
  | l2wbDone (p : PartN)
  /-- WPTR_PUBLISH: Release store of a segment's WPTR at least every 10 µs while records are pending. (R300) -/
  | wptrPublish (core : Nat)
  /-- BEAM_LINK_DOWN: The beam link fails 16 retries; two-beam launches stop and BLINK_DOWN is set. (R53) -/
  | beamLinkDown
  /-- FLIT_RETRY: A flit fails its CRC and is retried. (R53) -/
  | flitRetry
  /-- AUTO_DOZE: A running ply idle for AUTO_DOZE x 16 µs requests doze. (R21) -/
  | autoDoze (d : Die)
  /-- PLY_STATE_ENTRY: A pending doze or sleep completes entry after the last condition clears. (R20) -/
  | plyStateEntry (d : Die)
  /-- DOZE_WAKE: A dozing ply finishes power-up and reaches run. (R22) -/
  | dozeWake (d : Die)
  /-- LISTENER_LOCK: A waking ply's reed listener locks and reads the log head. (R45) -/
  | listenerLock (d : Die)
  /-- LOG_REPLAY: Replay of the stack log gap completes and the ply's mirror is current. (R45) -/
  | logReplay (d : Die)
  /-- MIRROR_COPY: Copy of the 64 MiB mirror from a source ply completes after an overrun. (R45) -/
  | mirrorCopy (d : Die)
  /-- PATROL_SCRUB: Periodic scrub of vault and mirror words once every 4 s. (R196) -/
  | patrolScrub (d : Die)
  /-- DENT_PASS: One dent passes on the reed in a reed cycle, carrying a queued entry, token or control. (R25) -/
  | dentPass (b : Beam)
  /-- DENT_APPLY: A passed dent is applied to every current mirror and the stack log. (R32) -/
  | dentApply (b : Beam)
  /-- REGION_CLEAR: Control dent zeroing a partition's reed region before its first launch. (R39) -/
  | regionClear (b : Beam) (p : PartN)
  /-- SLOT_ALLOCATION: A waiting launch is given its dent slots all at once. (R28) -/
  | slotAllocation (l : Nat)
  /-- SLOT_RETURN: A completed launch's slots are returned once no queue holds its entries. (R30) -/
  | slotReturn (l : Nat)
  /-- COLL_COMPLETE: The collective writes its record with DONE as a release store. (R66) -/
  | collComplete (b : Beam) (k : Nat)
  /-- BOLT_PLACEMENT: The distributor places the next bolt of a launch when room appears. (R126) -/
  | boltPlacement (l : Nat)
  /-- STARVING: A launch's bolt has fitted nowhere for 1 ms and becomes starving. (R127) -/
  | starving (l : Nat)
  /-- PRIORITY_PREEMPTION: After 100 µs a priority-3 bolt pre-empts a chosen set of lower bolts. (R128) -/
  | priorityPreemption (l : Nat)
  /-- BOLT_SAVE: An evictable bolt is saved or discarded into group images. (R261) -/
  | boltSave (k : Nat)
  /-- BOLT_RESTORE: A restorable saved bolt is restored on its ply. (R263) -/
  | boltRestore (k : Nat)
  /-- SAVED_MWADDR_READ: Periodic read of a saved warp's watched address, at most every 50 µs. (R262) -/
  | savedMwaddrRead (wid : Nat)
  /-- FETCHW_ANSWER: The distributor writes a FETCHW answer record and counts its slot. (R134) -/
  | fetchwAnswer (g : Nat)
  /-- BOLT_RETIRE: A finished ordered bolt retires, performing its held stores. (R129) -/
  | boltRetire (k : Nat)
  /-- IDEM_RELAUNCH: A group killed by a scratch error in an idem launch is relaunched. (R135) -/
  | idemRelaunch (g : Nat)
  /-- WARP_SWAP: A blocked active warp is swapped for the oldest ready pending warp. (R142) -/
  | warpSwap (core : Nat)
  /-- SWAP_THRESHOLD: A warp held for SWAP_THR x 16 cycles becomes blocked. (R141) -/
  | swapThreshold (wid : Nat)
  /-- STARVE_SWAP: A ready pending warp waiting STARVE x 256 cycles displaces the longest-active warp. (R143) -/
  | starveSwap (core : Nat)
  /-- ACTIVE_SET_FILL: Empty active positions are filled by the oldest ready pending warps. (R140) -/
  | activeSetFill (core : Nat)
  /-- WARP_SLOT_FREE: An exiting slot becomes free once its counters are zero, freeing group resources. (R159) -/
  | warpSlotFree (wid : Nat)
  /-- TRAP_TAKEN: After the drain, the warp writes its trap frame and enters the handler. (R251) -/
  | trapTaken (wid : Nat)
  /-- LOOM_GRANT: A free loom resource grants the first eligible request. (R162) -/
  | loomGrant (cl : Nat) (r : LoomRes)
  /-- LOOM_REQUEST_AGING: A request waiting 16,384 cycles is treated as priority 3. (R163) -/
  | loomRequestAging (cl : Nat) (rid : Nat)
  /-- LOOM_PASS_FINISH: A streaming pass finishes and its requests' TC falls. (R166) -/
  | loomPassFinish (cl : Nat) (rid : Nat)
  /-- LOOM_REQUEST_FINISH: A non-stream loom request finishes and writes its destination. (R427) -/
  | loomRequestFinish (cl : Nat) (rid : Nat)
  /-- COPY_START: The shuttle starts the next copy of its cluster in issue order. (R189) -/
  | copyStart (cl : Nat)
  /-- COPY_UNIT_WRITE: One unit of a copy is read and written, or holed or faulted. (R188) -/
  | copyUnitWrite (cl : Nat)
  /-- COPY_COMPLETE: Every unit is written and the tile state changes; CC falls. (R189) -/
  | copyComplete (cl : Nat)
  /-- LOAD_RETURN: A load or returning atomic writes its destination and LC retires in order. (R157) -/
  | loadReturn (op : Nat) (lanes : BitVec 32)
  /-- REGISTRATION_COMPLETE: A store's ownership registration completes at the home slice. (R227) -/
  | registrationComplete (op : Nat) (lanes : BitVec 32)
  /-- ATOMIC_PERFORM: An atomic performs at its home slice, scratch, vault or dent. (R400) -/
  | atomicPerform (op : Nat) (lanes : BitVec 32)
  /-- EPOCH_FLUSH: A bolt epoch's held atomics perform in key order. (R245) -/
  | epochFlush (k : Nat)
  /-- SWEEP_COMPLETE: A translation sweep's waits end and it completes. (R209) -/
  | sweepComplete (p : PartN)
  /-- REQUEST_RETURN: A request arriving after its slice's visit is returned for translation again. (R210) -/
  | requestReturn (op : Nat)
  /-- TLBINV_REMOVAL: Each TLB removes the named entries within 2 µs. (R460) -/
  | tlbinvRemoval (op : Nat)
  /-- PGREQ_POST: A page request record is posted or dropped in the queue. (R205) -/
  | pgreqPost (wid : Nat)
  /-- MWAIT_REREAD: The watched word is read again on a write or at least every 50 µs. (R408) -/
  | mwaitReread (wid : Nat)
  /-- POWER_REMOVAL: Power is removed from the package, losing the always-on storage that holds the retained calibration and the vault ECC event flag. (R87) -/
  | powerRemoval
  /-- ILLEGAL_INSTRUCTION: An issue group containing a word that no encoding assigns would issue, raising the precise illegal-instruction trap. (R321) -/
  | illegalInstruction (word : BitVec 32)
  /-- ILLEGAL_PACKET: An issue group that breaks the chaining rules would issue, raising the precise illegal-packet trap. (R309) -/
  | illegalPacket (word : BitVec 32)
  /-- INSTRUCTION_FETCH: The fetch of a packet completes, making its words ready to issue, or raises a fetch fault at the packet. (R308) -/
  | instructionFetch (wid : Nat)
  /-- REGISTER_WRITE: Host write to a register without behaviour of its own, with narrow-write and ignore rules. (R75) -/
  | registerWrite (h : HostWrite)
  /-- PARTITION_WRITE: Write to PARTp creating, resizing or removing a partition, or ignored. (R79) -/
  | partitionWrite (h : HostWrite)
  /-- CTX_TAIL_WRITE: Sets the stream tail, making commands and earlier BAR4 writes visible. (R98) -/
  | ctxTailWrite (h : HostWrite)
  /-- CTX_HEAD_WRITE: Resumes a halted stream at a new offset. (R98) -/
  | ctxHeadWrite (h : HostWrite)
  /-- CTX_BIND_ENABLE: Binds a context to a partition. (R96) -/
  | ctxBindEnable (h : HostWrite)
  /-- CTX_BIND_DISABLE: Halts the context's stream with error 0x0F. (R96) -/
  | ctxBindDisable (h : HostWrite)
  /-- PLY_REQ_RUN: Requests that a ply go to run. (R24) -/
  | plyReqRun (h : HostWrite)
  /-- PLY_REQ_DOZE: Requests that a ply go to doze, pending until its conditions clear. (R24) -/
  | plyReqDoze (h : HostWrite)
  /-- PLY_REQ_SLEEP: Requests that a ply go to sleep, pending until its conditions clear. (R24) -/
  | plyReqSleep (h : HostWrite)
  /-- BOOT_COLD_START: Write of 0b01 to BOOT_CTL.START begins a cold start. (R85) -/
  | bootColdStart (h : HostWrite)
  /-- BOOT_WARM_START: Write of 0b10 to BOOT_CTL.START begins a warm start. (R85) -/
  | bootWarmStart (h : HostWrite)
  /-- FUNDAMENTAL_RESET: PCIe fundamental reset of a port, causing a warm start or nothing. (R85) -/
  | fundamentalReset (q : Port)
  /-- BOOT_READY: The start's steps have run and step 6 sets READY. (R86) -/
  | bootReady (plyFail : BitVec 8)
  /-- FLASH_WINDOW_WRITE: Host write through the flash window programs bytes of the selected page. (R90) -/
  | flashWindowWrite (h : HostWrite)
  /-- ATTEST_REQUEST: A new REQ value captures the nonce and starts a quote. (R91) -/
  | attestRequest (h : HostWrite)
  /-- L2WB_START: Starts a write-back and invalidation of a PA range in the partition's L2. (R215) -/
  | l2wbStart (h : HostWrite)
  /-- PREEMPT_SAVE: Request to save or discard the named bolts once evictable. (R269) -/
  | preemptSave (h : HostWrite)
  /-- PREEMPT_KILL: Request to kill the named bolts at once. (R269) -/
  | preemptKill (h : HostWrite)
  /-- PREEMPT_RELEASE: Request making saved bolts restorable. (R269) -/
  | preemptRelease (h : HostWrite)
  /-- TRACE_ENABLE: Sets TRACE_CTL.EN, zeroing WPTR and LOST of every segment. (R301) -/
  | traceEnable (h : HostWrite)
  /-- TRACE_DISABLE: Clears TRACE_CTL.EN and publishes WPTR. (R300) -/
  | traceDisable (h : HostWrite)
  /-- COUNTER_CLEAR: Write of CNT_CTL.CLEAR zeroes every counter of the die. (R304) -/
  | counterClear (h : HostWrite)
  /-- COUNTER_LATCH_READ: 4-byte read of a counter's low half latches its high half. (R304) -/
  | counterLatchRead (h : HostRead)
  /-- BAR4_ACCESS: Host access to device memory through BAR4, accepted or rejected. (R83) -/
  | bar4Access (a : Bar4Req)
  /-- UAL_DOWN: A UALink port fails retry and the machine check is set. (R84) -/
  | ualDown (ualPort : BitVec 4)
  /-- INBOUND_REMOTE_ACCESS: A remote access arrives and is checked against the exports. (R56) -/
  | inboundRemoteAccess (a : InboundReq)
  /-- REMOTE_TIMEOUT: A remote access gets no response within RWIN_TIMEOUT and faults. (R59) -/
  | remoteTimeout (op : Nat)
  /-- CLOCK_STEP_DOWN: A block at its temperature or current limit lowers its clock. (R17) -/
  | clockStepDown (d : Die)
  /-- HEAT_PUBLISH: Every 10 µs each ply publishes its heat index. (R18) -/
  | heatPublish (t : Vector (Int × List Int) 8)
  /-- CONTRIBUTION_ARRIVAL: A peer's contribution reaches the collective engine, used or discarded as late. (R65) -/
  | contributionArrival (b : Beam) (a : Contribution)
  /-- COLL_TIMEOUT: A chunk's TIMEOUT expires and it completes as partial. (R64) -/
  | collTimeout (b : Beam) (k : Nat) (chunk : Nat)
  /-- SOFT_ERROR: A soft error corrupts a protected word of a register file, accumulator, scratch, vault, mirror, stack log, L1, L2 or HBM4E, making it correctable or uncorrectable. (R194) -/
  | softError (e : SoftErr)
  /-- CP_HALT: A command processor stops on an internal fault and sets MCHK.CP_HALT. (R84) -/
  | cpHalt (b : Beam)
  /-- CLOCK_STEP_UP: A block that is below nominal clock and back within its limits raises its clock towards 3.3 GHz, clearing THROTTLE when all are nominal. (R17) -/
  | clockStepUp (d : Die)
  /-- PORT_LINK_CHANGE: The PCIe link of a host port goes up or down. (R85) -/
  | portLinkChange (q : Port) (up : Bool)
  /-- REMOTE_ACKNOWLEDGE: The acknowledgement that a remote store or non-returning atomic has performed at its peer arrives at the requester. (R58) -/
  | remoteAcknowledge (op : Nat)
  /-- RESIZABLE_BAR_SET: The host sets the size of BAR4 through the Resizable BAR capability. (R83) -/
  | resizableBarSet (q : Port) (gib : BitVec 11)
  deriving DecidableEq, Repr

end Sys2Proof
end

