-- ==== Sys2Proof/WellFormed.lean ====
section
/-! DEFINITION. Which instructions are well formed: the exclusions that the instruction chapters add
to the coded fields of R317 (R319, R341, R342, R350, R374, R388, R418, R441, R468).  A word whose
fields name an ill-formed instruction raises the illegal-instruction trap (R321). -/

namespace Sys2Proof

/-- The types of SCVT (R342). -/
def scvtType : NTy → Bool
  | .f32 | .f16 | .bf16 | .i32 | .u32 | .i64 => true
  | .e4m3 | .e5m2 | .e2m3 | .e3m2 | .e2m1 | .i8 | .i16 | .ts8 => false

/-- The types of VCVT (R374). -/
def vcvtType : NTy → Bool
  | .f32 | .f16 | .bf16 | .i32 | .u32 | .i16 | .i8 => true
  | .e4m3 | .e5m2 | .e2m3 | .e3m2 | .e2m1 | .i64 | .ts8 => false

/-- The pairs of VPACK and where RZ may be set (R374): the destination type, then the source. -/
def vpackPair : NTy → NTy → Bool → Bool
  | .f16, .f32, _ => true
  | .bf16, .f32, _ => true
  | .i16, .i32, rz => !rz
  | .i8, .i32, rz => !rz
  | .e4m3, .f32, rz => !rz
  | .e5m2, .f32, rz => !rz
  | .e2m3, .f32, rz => !rz
  | .e3m2, .f32, rz => !rz
  | .e2m1, .f32, rz => !rz
  | _, _, _ => false

/-- The pairs of VUNPACK (R374): the destination type, then the source. -/
def vunpackPair : NTy → NTy → Bool
  | .f32, .f16 => true
  | .f32, .bf16 => true
  | .i32, .i16 => true
  | .i32, .i8 => true
  | .f32, .e4m3 => true
  | .f32, .e5m2 => true
  | .f32, .e2m3 => true
  | .f32, .e3m2 => true
  | .f32, .ts8 => true
  | .f32, .e2m1 => true
  | _, _ => false

/-- The operators of VRED and VSCAN: and, or and xor take no f32 (R318). -/
def reduceOk : RTy → ROp → Bool
  | .f32, .andB => false
  | .f32, .orB => false
  | .f32, .xorB => false
  | _, _ => true

/-- The spaces of VLDMX and VSTMX (R317). -/
def mxSpace : Sp → Bool
  | .g | .s | .v => true
  | .p | .r => false

/-- The operations of ATOM and VATOM (R318, R418): f32 has no and, or, xor, and a non-returning
atomic is not an acquire. -/
def atomicOk (o : AOp) (r : AOrd) (t : ATy) (nr : Bool) : Bool :=
  !(t == .f32 && (o == .andB || o == .orB || o == .xorB)) && !(nr && (r == .acq || r == .ar))

/-- Whether an instruction is well formed.  Every device step is: whether it happens is a matter of
the state. -/
def Instr.wf : Instr → Bool
  | .sadd _ _ _ _ _ => true
  | .ssub _ _ _ _ _ => true
  | .smul _ _ _ _ _ => true
  | .smulh _ _ _ _ _ => true
  | .sdiv _ _ _ _ _ => true
  | .srem _ _ _ _ _ => true
  | .sand _ _ _ _ _ => true
  | .sor _ _ _ _ _ => true
  | .sxor _ _ _ _ _ => true
  | .sshl _ _ _ _ _ => true
  | .sshr _ _ _ _ _ => true
  | .ssra _ _ _ _ _ => true
  | .smin _ _ _ _ _ => true
  | .smax _ _ _ _ _ => true
  | .smad _ _ _ _ _ _ => true
  | .smov _ _ _ _ => true
  | .smovToIx _ _ _ => true
  | .smovFromIx _ _ _ => true
  | .scmp _ _ _ _ _ _ => true
  | .ssel _ _ _ _ _ => true
  | .spopc _ _ _ => true
  | .sclz _ _ _ => true
  | .scvt _ t s _ _ _ => scvtType t && scvtType s && t != s
  | .saddi _ _ _ _ => true
  | .sli _ _ _ => true
  | .slih _ _ _ => true
  | .sbfx _ _ _ p l _ => decide (p.toNat + l.toNat + 1 ≤ 64)
  | .sbfi _ _ _ p l => decide (p.toNat + l.toNat + 1 ≤ 64)
  | .pand _ _ _ _ => true
  | .por _ _ _ _ => true
  | .pxor _ _ _ _ => true
  | .pnot _ _ _ => true
  | .pmov _ _ _ => true
  | .ppopc _ _ _ => true
  | .part _ _ => true
  | .vadd _ _ _ _ _ => true
  | .vsub _ _ _ _ _ => true
  | .vmul _ _ _ _ _ => true
  | .vmulh _ _ _ _ _ => true
  | .vmad _ _ _ _ _ _ => true
  | .vand _ _ _ _ _ => true
  | .vor _ _ _ _ _ => true
  | .vxor _ _ _ _ _ => true
  | .vshl _ _ _ _ _ => true
  | .vshr _ _ _ _ _ => true
  | .vsra _ _ _ _ _ => true
  | .vmin _ _ _ _ _ => true
  | .vmax _ _ _ _ _ => true
  | .vsel _ _ _ _ _ => true
  | .vmov _ _ _ => true
  | .vabs _ t _ _ => t != .u32
  | .vpopc _ _ _ _ => true
  | .vclz _ _ _ _ => true
  | .viota _ _ => true
  | .vbcast _ _ _ => true
  | .vextr _ _ _ _ => true
  | .vcmp _ _ t _ _ _ => t == .i32 || t == .u32
  | .vfadd _ _ _ _ _ => true
  | .vfsub _ _ _ _ _ => true
  | .vfmul _ _ _ _ _ => true
  | .vfma _ _ _ _ _ _ => true
  | .vfms _ _ _ _ _ _ => true
  | .vfmin _ _ _ _ _ => true
  | .vfmax _ _ _ _ _ => true
  | .vfabs _ _ _ _ => true
  | .vfneg _ _ _ _ => true
  | .vfclass _ _ _ _ => true
  | .vfcmp _ _ _ _ _ => true
  | .vcvt _ t s _ _ _ => vcvtType t && vcvtType s && t != s
  | .vpack _ t s _ _ r => vpackPair t s r
  | .vunpack _ t s _ _ => vunpackPair t s
  | .kmov _ _ _ => true
  | .kset _ _ _ => true
  | .kget _ _ _ => true
  | .kamax _ _ _ _ => true
  | .vshfl _ _ _ _ => true
  | .vshflup _ _ _ _ => true
  | .vshfldn _ _ _ _ => true
  | .vshflx _ _ _ _ => true
  | .vvote _ t d _ => t == .ballot || decide (d.toNat < 16)
  | .vred _ t _ _ o => reduceOk t o
  | .vscan _ t _ _ _ o => reduceOk t o
  | .vrand _ _ _ => true
  | .vbfx _ _ _ p l _ => decide (p.toNat + l.toNat + 1 ≤ 32)
  | .vrcp _ _ _ => true
  | .vrsq _ _ _ => true
  | .vsqrt _ _ _ => true
  | .vexp2 _ _ _ => true
  | .vlog2 _ _ _ => true
  | .vsin _ _ _ => true
  | .vcos _ _ _ => true
  | .vtanh _ _ _ => true
  | .ld _ _ sp _ _ _ _ _ => sp != .p
  | .st _ _ sp _ _ _ _ => sp != .p
  | .vld _ t _ _ _ _ _ _ => t != .i64
  | .vst _ t _ _ _ _ _ => t != .i64
  | .vldg _ t _ _ _ _ _ _ _ => t != .i64
  | .vsts _ t _ _ _ _ _ _ => t != .i64
  | .vldmx _ _ sp _ _ _ _ _ => mxSpace sp
  | .vstmx _ _ sp _ _ _ _ => mxSpace sp
  | .atom _ o r t _ nr _ _ _ e => atomicOk o r t nr && (o == .cas || e == 0)
  | .vatom _ o r t _ nr _ _ _ e => atomicOk o r t nr && (o == .cas || e == ⟨false, 0⟩)
  | .fence _ _ => true
  | .wait _ _ _ _ _ => true
  | .mwatch _ _ sp _ _ => sp != .p
  | .mwait _ => true
  | .pgreq _ _ _ => true
  | .pgpref _ _ _ => true
  | .oflush _ => true
  | .itset _ _ _ => true
  | .tdef _ _ _ _ k m => !(k && m)
  | .tfree _ _ => true
  | .tstat _ _ _ => true
  | .cpy _ _ _ => true
  | .cpyt _ _ _ => true
  | .cpym _ _ _ => true
  | .ldw _ _ _ => true
  | .swpw _ _ => true
  | .mmq _ _ _ _ _ => true
  | .mmqTile _ _ _ _ _ => true
  | .mmqt _ _ _ _ f => f != .e2m1
  | .mmqtTile _ _ _ _ _ => true
  | .mclr _ _ => true
  | .mdrn _ _ _ _ => true
  | .mdrnt _ _ _ _ => true
  | .msav _ _ _ => true
  | .mrst _ _ _ => true
  | .mstat _ _ _ => true
  | .rq _ _ _ _ => true
  | .rqVector _ _ _ _ => true
  | .rqs _ _ _ _ _ => true
  | .rqsVector _ _ _ _ _ => true
  | .barv _ l n => l == .grp || decide (n.toNat < 8)
  | .barw _ l n => l == .grp || decide (n.toNat < 8)
  | .barm _ l n _ => l == .grp || (l == .bolt && decide (n.toNat < 8))
  | .fetchw _ _ => true
  | .reedf _ => true
  | .br _ _ => true
  | .bra _ _ => true
  | .call _ _ _ => true
  | .brv _ _ => true
  | .mif _ _ => true
  | .melse x _ => !x.gn && x.gp == 0
  | .mend x => !x.gn && x.gp == 0
  | .mloop _ _ => true
  | .mbrk _ _ => true
  | .mcont _ _ => true
  | .nop _ => true
  | .ret _ _ => true
  | .jmpi _ _ => true
  | .yield _ => true
  | .exit _ => true
  | .region _ => true
  | .trap _ _ => true
  | .tfence _ _ => true
  | .ofence _ => true
  | .efence _ => true
  | .tlbinv _ _ => true
  | .srd _ _ _ => true
  | .swr _ _ s => s == .hscr0 || s == .hscr1
  | .tret _ => true
  | .clobusoNop _ _ => true
  | .launch _ _ => true
  | .launchi _ _ => true
  | .cIf _ _ => true
  | .cElse _ _ => true
  | .cEndif _ _ => true
  | .cLoop _ _ => true
  | .cEndloop _ _ => true
  | .waitv _ _ => true
  | .waitvRead _ _ => true
  | .signal _ _ => true
  | .clobusoFence _ _ => true
  | .coll _ _ => true
  | .cOpen _ _ => true
  | .commit _ _ => true
  | .abort _ _ => true
  | .page _ _ => true
  | .launchComplete _ => true
  | .registerWrite _ => true
  | .partitionWrite _ => true
  | .ctxTailWrite _ => true
  | .ctxHeadWrite _ => true
  | .ctxBindEnable _ => true
  | .ctxBindDisable _ => true
  | .plyReqRun _ => true
  | .plyReqDoze _ => true
  | .plyReqSleep _ => true
  | .bootColdStart _ => true
  | .bootWarmStart _ => true
  | .powerUp => true
  | .fundamentalReset _ => true
  | .bootReady _ => true
  | .flashWindowWrite _ => true
  | .attestRequest _ => true
  | .quoteDone _ => true
  | .l2wbStart _ => true
  | .l2wbDone _ => true
  | .preemptSave _ => true
  | .preemptKill _ => true
  | .preemptRelease _ => true
  | .traceEnable _ => true
  | .traceDisable _ => true
  | .wptrPublish _ => true
  | .counterClear _ => true
  | .counterLatchRead _ => true
  | .bar4Access _ => true
  | .beamLinkDown => true
  | .flitRetry => true
  | .ualDown _ => true
  | .inboundRemoteAccess _ => true
  | .remoteTimeout _ => true
  | .clockStepDown _ => true
  | .heatPublish _ => true
  | .autoDoze _ => true
  | .plyStateEntry _ => true
  | .dozeWake _ => true
  | .listenerLock _ => true
  | .logReplay _ => true
  | .mirrorCopy _ => true
  | .patrolScrub _ => true
  | .dentPass _ => true
  | .dentApply _ => true
  | .regionClear _ _ => true
  | .slotAllocation _ => true
  | .slotReturn _ => true
  | .contributionArrival _ _ => true
  | .collTimeout _ _ _ => true
  | .collComplete _ _ => true
  | .boltPlacement _ => true
  | .starving _ => true
  | .priorityPreemption _ => true
  | .boltSave _ => true
  | .boltRestore _ => true
  | .savedMwaddrRead _ => true
  | .fetchwAnswer _ => true
  | .boltRetire _ => true
  | .idemRelaunch _ => true
  | .warpSwap _ => true
  | .swapThreshold _ => true
  | .starveSwap _ => true
  | .activeSetFill _ => true
  | .warpSlotFree _ => true
  | .trapTaken _ => true
  | .loomGrant _ _ => true
  | .loomRequestAging _ _ => true
  | .loomPassFinish _ _ => true
  | .loomRequestFinish _ _ => true
  | .copyStart _ => true
  | .copyUnitWrite _ => true
  | .copyComplete _ => true
  | .loadReturn _ _ => true
  | .registrationComplete _ _ => true
  | .atomicPerform _ _ => true
  | .epochFlush _ => true
  | .sweepComplete _ => true
  | .requestReturn _ => true
  | .tlbinvRemoval _ => true
  | .pgreqPost _ => true
  | .mwaitReread _ => true
  | .powerRemoval => true
  | .softError _ => true
  | .cpHalt _ => true
  | .clockStepUp _ => true
  | .portLinkChange _ _ => true
  | .remoteAcknowledge _ => true
  | .resizableBarSet _ _ => true
  | .illegalInstruction _ => true
  | .illegalPacket _ => true
  | .instructionFetch _ => true

end Sys2Proof
end

