-- ==== Sys2Proof/Decode.lean ====
section
/-! DEFINITION. Decoding and encoding of instruction words (R307, R311 to R321).

`parse` reads the fields of a word and of the LIT that extends it; `fields` lays an instruction out
again.  `decodeUnit` accepts a word exactly when its fields name an instruction that is well formed
and whose layout is the word itself, so that a reserved bit or an unused field that is set is
refused (R321). -/

namespace Sys2Proof

/-- The bits [lo + len - 1 : lo] of a number. -/
def fld (w lo len : Nat) : Nat := w / 2 ^ lo % 2 ^ len

/-- A word and the LIT chained to it (R311): the major opcode, the body and the LIT's payload. -/
structure Raw where
  maj  : Nat
  body : Nat
  lit  : Option Nat
  deriving DecidableEq, Repr

namespace Raw

/-- The payload of the LIT; without one every field of it is 0 (R311). -/
def payload (r : Raw) : Nat := r.lit.getD 0

/-- A field of the body. -/
def b (r : Raw) (lo len : Nat) : Nat := fld r.body lo len

/-- A field of the extension X, or of the guard fields above it. -/
def x (r : Raw) (lo len : Nat) : Nat := fld r.payload lo len

/-- A signed field of `t` bits, low `len` bits in the body at `lo` and high bits in X at `xlo`
(R316): without a LIT it is sign-extended from the top bit of the body's part, and with one it is
composed. -/
def signed (r : Raw) (t lo len xlo : Nat) : BitVec t :=
  match r.lit with
  | some p => BitVec.ofNat t (r.b lo len + 2 ^ len * fld p xlo (t - len))
  | none => (BitVec.ofNat len (r.b lo len)).signExtend t

/-- An unsigned field of `t` bits, low `len` bits in the body at `lo` and high bits in X (R316). -/
def unsigned (r : Raw) (t lo len xlo : Nat) : BitVec t :=
  BitVec.ofNat t (r.b lo len + 2 ^ len * r.x xlo (t - len))

/-- The guard fields and the window selector of the LIT (R311). -/
def ext (r : Raw) : Ext :=
  ⟨r.x 24 1 == 1, BitVec.ofNat 4 (r.x 20 4), BitVec.ofNat 2 (r.x 18 2)⟩

/-- A vector or scale register field: REL above BASE (R312). -/
def vop (v : Nat) : VOp := ⟨fld v 5 1 == 1, BitVec.ofNat 5 (fld v 0 5)⟩

end Raw

/-- Words of MAJ 0x01 (R332, R334). -/
def parseMaj1 (r : Raw) : Option Instr :=
  match r.b 21 4 with
  | 0 => do
      let tv ← STy.ofCode? (r.b 18 3)
      return .sadd r.ext tv (BitVec.ofNat 6 (r.b 12 6)) (BitVec.ofNat 6 (r.b 6 6)) (BitVec.ofNat 6 (r.b 0 6))
  | 1 => do
      let tv ← STy.ofCode? (r.b 18 3)
      return .ssub r.ext tv (BitVec.ofNat 6 (r.b 12 6)) (BitVec.ofNat 6 (r.b 6 6)) (BitVec.ofNat 6 (r.b 0 6))
  | 2 => do
      let tv ← STy.ofCode? (r.b 18 3)
      return .smul r.ext tv (BitVec.ofNat 6 (r.b 12 6)) (BitVec.ofNat 6 (r.b 6 6)) (BitVec.ofNat 6 (r.b 0 6))
  | 3 => do
      let tv ← STy.ofCode? (r.b 18 3)
      return .smulh r.ext tv (BitVec.ofNat 6 (r.b 12 6)) (BitVec.ofNat 6 (r.b 6 6)) (BitVec.ofNat 6 (r.b 0 6))
  | 4 => do
      let tv ← STy.ofCode? (r.b 18 3)
      return .sdiv r.ext tv (BitVec.ofNat 6 (r.b 12 6)) (BitVec.ofNat 6 (r.b 6 6)) (BitVec.ofNat 6 (r.b 0 6))
  | 5 => do
      let tv ← STy.ofCode? (r.b 18 3)
      return .srem r.ext tv (BitVec.ofNat 6 (r.b 12 6)) (BitVec.ofNat 6 (r.b 6 6)) (BitVec.ofNat 6 (r.b 0 6))
  | 6 => do
      let tv ← STy.ofCode? (r.b 18 3)
      return .sand r.ext tv (BitVec.ofNat 6 (r.b 12 6)) (BitVec.ofNat 6 (r.b 6 6)) (BitVec.ofNat 6 (r.b 0 6))
  | 7 => do
      let tv ← STy.ofCode? (r.b 18 3)
      return .sor r.ext tv (BitVec.ofNat 6 (r.b 12 6)) (BitVec.ofNat 6 (r.b 6 6)) (BitVec.ofNat 6 (r.b 0 6))
  | 8 => do
      let tv ← STy.ofCode? (r.b 18 3)
      return .sxor r.ext tv (BitVec.ofNat 6 (r.b 12 6)) (BitVec.ofNat 6 (r.b 6 6)) (BitVec.ofNat 6 (r.b 0 6))
  | 9 => do
      let tv ← STy.ofCode? (r.b 18 3)
      return .sshl r.ext tv (BitVec.ofNat 6 (r.b 12 6)) (BitVec.ofNat 6 (r.b 6 6)) (BitVec.ofNat 6 (r.b 0 6))
  | 10 => do
      let tv ← STy.ofCode? (r.b 18 3)
      return .sshr r.ext tv (BitVec.ofNat 6 (r.b 12 6)) (BitVec.ofNat 6 (r.b 6 6)) (BitVec.ofNat 6 (r.b 0 6))
  | 11 => do
      let tv ← STy.ofCode? (r.b 18 3)
      return .ssra r.ext tv (BitVec.ofNat 6 (r.b 12 6)) (BitVec.ofNat 6 (r.b 6 6)) (BitVec.ofNat 6 (r.b 0 6))
  | 12 => do
      let tv ← STy.ofCode? (r.b 18 3)
      return .smin r.ext tv (BitVec.ofNat 6 (r.b 12 6)) (BitVec.ofNat 6 (r.b 6 6)) (BitVec.ofNat 6 (r.b 0 6))
  | 13 => do
      let tv ← STy.ofCode? (r.b 18 3)
      return .smax r.ext tv (BitVec.ofNat 6 (r.b 12 6)) (BitVec.ofNat 6 (r.b 6 6)) (BitVec.ofNat 6 (r.b 0 6))
  | 14 => do
      let tv ← STy.ofCode? (r.b 18 3)
      return .smad r.ext tv (BitVec.ofNat 6 (r.b 12 6)) (BitVec.ofNat 6 (r.b 6 6)) (BitVec.ofNat 6 (r.b 0 6)) (BitVec.ofNat 6 (r.x 12 6))
  | 15 =>
    match r.b 18 3 with
    | 3 => some (.smovToIx r.ext (BitVec.ofNat 2 (r.b 12 2)) (BitVec.ofNat 6 (r.b 6 6)))
    | 4 => some (.smovFromIx r.ext (BitVec.ofNat 6 (r.b 12 6)) (BitVec.ofNat 2 (r.b 6 2)))
    | _ => do
        let tv ← STy.ofCode? (r.b 18 3)
        return .smov r.ext tv (BitVec.ofNat 6 (r.b 12 6)) (BitVec.ofNat 6 (r.b 6 6))
  | _ => none

/-- Words of MAJ 0x02 (R336). -/
def parseMaj2 (r : Raw) : Option Instr :=
  do
    let kv ← Cond.ofCode? (r.b 21 4)
    let tv ← STy.ofCode? (r.b 18 3)
    return .scmp r.ext kv tv (BitVec.ofNat 4 (r.b 12 4)) (BitVec.ofNat 6 (r.b 6 6)) (BitVec.ofNat 6 (r.b 0 6))

/-- Words of MAJ 0x03 (R337). -/
def parseMaj3 (r : Raw) : Option Instr :=
  some (.ssel r.ext (BitVec.ofNat 4 (r.b 21 4)) (BitVec.ofNat 6 (r.b 12 6)) (BitVec.ofNat 6 (r.b 6 6)) (BitVec.ofNat 6 (r.b 0 6)))

/-- Words of MAJ 0x04 (R338). -/
def parseMaj4 (r : Raw) : Option Instr :=
  match r.b 21 4 with
  | 0 => some (.spopc r.ext (BitVec.ofNat 6 (r.b 12 6)) (BitVec.ofNat 6 (r.b 6 6)))
  | 1 => some (.sclz r.ext (BitVec.ofNat 6 (r.b 12 6)) (BitVec.ofNat 6 (r.b 6 6)))
  | _ => none

/-- Words of MAJ 0x05 (R342). -/
def parseMaj5 (r : Raw) : Option Instr :=
  match r.b 21 4 with
  | 0 => do
      let tv ← NTy.ofCode? (r.b 17 4)
      let sv ← NTy.ofCode? (r.b 13 4)
      return .scvt r.ext tv sv (BitVec.ofNat 6 (r.b 7 6)) (BitVec.ofNat 6 (r.b 1 6)) (r.b 0 1 == 1)
  | _ => none

/-- Words of MAJ 0x06 (R339). -/
def parseMaj6 (r : Raw) : Option Instr :=
  some (.saddi r.ext (BitVec.ofNat 6 (r.b 19 6)) (BitVec.ofNat 6 (r.b 13 6)) (r.signed 31 0 13 0))

/-- Words of MAJ 0x07 (R340). -/
def parseMaj7 (r : Raw) : Option Instr :=
  some (.sli r.ext (BitVec.ofNat 6 (r.b 19 6)) (r.signed 37 0 19 0))

/-- Words of MAJ 0x08 (R340). -/
def parseMaj8 (r : Raw) : Option Instr :=
  some (.slih r.ext (BitVec.ofNat 6 (r.b 19 6)) (r.unsigned 32 0 19 0))

/-- Words of MAJ 0x09 (R341). -/
def parseMaj9 (r : Raw) : Option Instr :=
  some (.sbfx r.ext (BitVec.ofNat 6 (r.b 19 6)) (BitVec.ofNat 6 (r.b 13 6)) (BitVec.ofNat 6 (r.b 7 6)) (BitVec.ofNat 6 (r.b 1 6)) (r.b 0 1 == 1))

/-- Words of MAJ 0x0A (R341). -/
def parseMaj10 (r : Raw) : Option Instr :=
  some (.sbfi r.ext (BitVec.ofNat 6 (r.b 19 6)) (BitVec.ofNat 6 (r.b 13 6)) (BitVec.ofNat 6 (r.b 7 6)) (BitVec.ofNat 6 (r.b 1 6)))

/-- Words of MAJ 0x0B (R381, R382). -/
def parseMaj11 (r : Raw) : Option Instr :=
  match r.b 21 4 with
  | 0 => some (.pand r.ext (BitVec.ofNat 4 (r.b 15 4)) (BitVec.ofNat 4 (r.b 11 4)) (BitVec.ofNat 4 (r.b 7 4)))
  | 1 => some (.por r.ext (BitVec.ofNat 4 (r.b 15 4)) (BitVec.ofNat 4 (r.b 11 4)) (BitVec.ofNat 4 (r.b 7 4)))
  | 2 => some (.pxor r.ext (BitVec.ofNat 4 (r.b 15 4)) (BitVec.ofNat 4 (r.b 11 4)) (BitVec.ofNat 4 (r.b 7 4)))
  | 3 => some (.pnot r.ext (BitVec.ofNat 4 (r.b 15 4)) (BitVec.ofNat 4 (r.b 11 4)))
  | 4 => some (.pmov r.ext (BitVec.ofNat 4 (r.b 15 4)) (BitVec.ofNat 4 (r.b 11 4)))
  | 5 => some (.ppopc r.ext (BitVec.ofNat 6 (r.b 15 6)) (BitVec.ofNat 4 (r.b 11 4)))
  | 6 => do
      let zv ← PartSz.ofCode? (r.b 0 3)
      return .part r.ext zv
  | _ => none

/-- Words of MAJ 0x10 (R365). -/
def parseMaj16 (r : Raw) : Option Instr :=
  match r.b 21 4 with
  | 0 => do
      let tv ← VTy.ofCode? (r.b 18 3)
      return .vadd r.ext tv (Raw.vop (r.b 12 6)) (Raw.vop (r.b 6 6)) (Raw.vop (r.b 0 6))
  | 1 => do
      let tv ← VTy.ofCode? (r.b 18 3)
      return .vsub r.ext tv (Raw.vop (r.b 12 6)) (Raw.vop (r.b 6 6)) (Raw.vop (r.b 0 6))
  | 2 => do
      let tv ← VTy.ofCode? (r.b 18 3)
      return .vmul r.ext tv (Raw.vop (r.b 12 6)) (Raw.vop (r.b 6 6)) (Raw.vop (r.b 0 6))
  | 3 => do
      let tv ← VTy.ofCode? (r.b 18 3)
      return .vmulh r.ext tv (Raw.vop (r.b 12 6)) (Raw.vop (r.b 6 6)) (Raw.vop (r.b 0 6))
  | 4 => do
      let tv ← VTy.ofCode? (r.b 18 3)
      return .vmad r.ext tv (Raw.vop (r.b 12 6)) (Raw.vop (r.b 6 6)) (Raw.vop (r.b 0 6)) (Raw.vop (r.x 12 6))
  | 5 => do
      let tv ← VTy.ofCode? (r.b 18 3)
      return .vand r.ext tv (Raw.vop (r.b 12 6)) (Raw.vop (r.b 6 6)) (Raw.vop (r.b 0 6))
  | 6 => do
      let tv ← VTy.ofCode? (r.b 18 3)
      return .vor r.ext tv (Raw.vop (r.b 12 6)) (Raw.vop (r.b 6 6)) (Raw.vop (r.b 0 6))
  | 7 => do
      let tv ← VTy.ofCode? (r.b 18 3)
      return .vxor r.ext tv (Raw.vop (r.b 12 6)) (Raw.vop (r.b 6 6)) (Raw.vop (r.b 0 6))
  | 8 => do
      let tv ← VTy.ofCode? (r.b 18 3)
      return .vshl r.ext tv (Raw.vop (r.b 12 6)) (Raw.vop (r.b 6 6)) (Raw.vop (r.b 0 6))
  | 9 => do
      let tv ← VTy.ofCode? (r.b 18 3)
      return .vshr r.ext tv (Raw.vop (r.b 12 6)) (Raw.vop (r.b 6 6)) (Raw.vop (r.b 0 6))
  | 10 => do
      let tv ← VTy.ofCode? (r.b 18 3)
      return .vsra r.ext tv (Raw.vop (r.b 12 6)) (Raw.vop (r.b 6 6)) (Raw.vop (r.b 0 6))
  | 11 => do
      let tv ← VTy.ofCode? (r.b 18 3)
      return .vmin r.ext tv (Raw.vop (r.b 12 6)) (Raw.vop (r.b 6 6)) (Raw.vop (r.b 0 6))
  | 12 => do
      let tv ← VTy.ofCode? (r.b 18 3)
      return .vmax r.ext tv (Raw.vop (r.b 12 6)) (Raw.vop (r.b 6 6)) (Raw.vop (r.b 0 6))
  | 13 => some (.vsel r.ext (Raw.vop (r.b 12 6)) (Raw.vop (r.b 6 6)) (Raw.vop (r.b 0 6)) (BitVec.ofNat 4 (r.x 12 4)))
  | 14 => some (.vmov r.ext (Raw.vop (r.b 12 6)) (Raw.vop (r.b 6 6)))
  | 15 => do
      let tv ← VTy.ofCode? (r.b 18 3)
      return .vabs r.ext tv (Raw.vop (r.b 12 6)) (Raw.vop (r.b 6 6))
  | _ => none

/-- Words of MAJ 0x11 (R366). -/
def parseMaj17 (r : Raw) : Option Instr :=
  match r.b 21 4 with
  | 0 => do
      let tv ← VTy.ofCode? (r.b 18 3)
      return .vpopc r.ext tv (Raw.vop (r.b 12 6)) (Raw.vop (r.b 6 6))
  | 1 => do
      let tv ← VTy.ofCode? (r.b 18 3)
      return .vclz r.ext tv (Raw.vop (r.b 12 6)) (Raw.vop (r.b 6 6))
  | 2 => some (.viota r.ext (Raw.vop (r.b 12 6)))
  | 3 => some (.vbcast r.ext (Raw.vop (r.b 12 6)) (BitVec.ofNat 6 (r.b 6 6)))
  | 4 => some (.vextr r.ext (BitVec.ofNat 6 (r.b 12 6)) (Raw.vop (r.b 6 6)) (BitVec.ofNat 6 (r.b 0 6)))
  | _ => none

/-- Words of MAJ 0x12 (R367). -/
def parseMaj18 (r : Raw) : Option Instr :=
  do
    let kv ← Cond.ofCode? (r.b 21 4)
    let tv ← VTy.ofCode? (r.b 18 3)
    return .vcmp r.ext kv tv (BitVec.ofNat 4 (r.b 12 4)) (Raw.vop (r.b 6 6)) (Raw.vop (r.b 0 6))

/-- Words of MAJ 0x13 (R369, R370). -/
def parseMaj19 (r : Raw) : Option Instr :=
  match r.b 21 4 with
  | 0 => do
      let tv ← FTy.ofCode? (r.b 18 3)
      return .vfadd r.ext tv (Raw.vop (r.b 12 6)) (Raw.vop (r.b 6 6)) (Raw.vop (r.b 0 6))
  | 1 => do
      let tv ← FTy.ofCode? (r.b 18 3)
      return .vfsub r.ext tv (Raw.vop (r.b 12 6)) (Raw.vop (r.b 6 6)) (Raw.vop (r.b 0 6))
  | 2 => do
      let tv ← FTy.ofCode? (r.b 18 3)
      return .vfmul r.ext tv (Raw.vop (r.b 12 6)) (Raw.vop (r.b 6 6)) (Raw.vop (r.b 0 6))
  | 3 => do
      let tv ← FTy.ofCode? (r.b 18 3)
      return .vfma r.ext tv (Raw.vop (r.b 12 6)) (Raw.vop (r.b 6 6)) (Raw.vop (r.b 0 6)) (Raw.vop (r.x 12 6))
  | 4 => do
      let tv ← FTy.ofCode? (r.b 18 3)
      return .vfms r.ext tv (Raw.vop (r.b 12 6)) (Raw.vop (r.b 6 6)) (Raw.vop (r.b 0 6)) (Raw.vop (r.x 12 6))
  | 5 => do
      let tv ← FTy.ofCode? (r.b 18 3)
      return .vfmin r.ext tv (Raw.vop (r.b 12 6)) (Raw.vop (r.b 6 6)) (Raw.vop (r.b 0 6))
  | 6 => do
      let tv ← FTy.ofCode? (r.b 18 3)
      return .vfmax r.ext tv (Raw.vop (r.b 12 6)) (Raw.vop (r.b 6 6)) (Raw.vop (r.b 0 6))
  | 7 => do
      let tv ← FTy.ofCode? (r.b 18 3)
      return .vfabs r.ext tv (Raw.vop (r.b 12 6)) (Raw.vop (r.b 6 6))
  | 8 => do
      let tv ← FTy.ofCode? (r.b 18 3)
      return .vfneg r.ext tv (Raw.vop (r.b 12 6)) (Raw.vop (r.b 6 6))
  | 9 => do
      let tv ← FTy.ofCode? (r.b 18 3)
      return .vfclass r.ext tv (Raw.vop (r.b 12 6)) (Raw.vop (r.b 6 6))
  | _ => none

/-- Words of MAJ 0x14 (R371). -/
def parseMaj20 (r : Raw) : Option Instr :=
  do
    let kv ← FCond.ofCode? (r.b 21 4)
    return .vfcmp r.ext kv (BitVec.ofNat 4 (r.b 12 4)) (Raw.vop (r.b 6 6)) (Raw.vop (r.b 0 6))

/-- Words of MAJ 0x15 (R375, R376, R377, R376, R378). -/
def parseMaj21 (r : Raw) : Option Instr :=
  match r.b 21 4 with
  | 0 => do
      let tv ← NTy.ofCode? (r.b 17 4)
      let sv ← NTy.ofCode? (r.b 13 4)
      return .vcvt r.ext tv sv (Raw.vop (r.b 7 6)) (Raw.vop (r.b 1 6)) (r.b 0 1 == 1)
  | 1 => do
      let tv ← NTy.ofCode? (r.b 17 4)
      let sv ← NTy.ofCode? (r.b 13 4)
      return .vpack r.ext tv sv (Raw.vop (r.b 7 6)) (Raw.vop (r.b 1 6)) (r.b 0 1 == 1)
  | 2 => do
      let tv ← NTy.ofCode? (r.b 17 4)
      let sv ← NTy.ofCode? (r.b 13 4)
      return .vunpack r.ext tv sv (Raw.vop (r.b 7 6)) (Raw.vop (r.b 1 6))
  | _ => none

/-- Words of MAJ 0x16 (R379, R380). -/
def parseMaj22 (r : Raw) : Option Instr :=
  match r.b 21 4 with
  | 0 => some (.kmov r.ext (Raw.vop (r.b 12 6)) (Raw.vop (r.b 6 6)))
  | 1 => some (.kset r.ext (Raw.vop (r.b 12 6)) (BitVec.ofNat 6 (r.b 6 6)))
  | 2 => some (.kget r.ext (BitVec.ofNat 6 (r.b 12 6)) (Raw.vop (r.b 6 6)))
  | 3 => do
      let tv ← MxF.ofCode? (r.b 18 3)
      return .kamax r.ext tv (Raw.vop (r.b 12 6)) (Raw.vop (r.b 6 6))
  | _ => none

/-- Words of MAJ 0x17 (R384, R385, R386). -/
def parseMaj23 (r : Raw) : Option Instr :=
  match r.b 21 4 with
  | 0 => some (.vshfl r.ext (Raw.vop (r.b 12 6)) (Raw.vop (r.b 6 6)) (Raw.vop (r.b 0 6)))
  | 1 => some (.vshflup r.ext (Raw.vop (r.b 12 6)) (Raw.vop (r.b 6 6)) (BitVec.ofNat 5 (r.b 0 5)))
  | 2 => some (.vshfldn r.ext (Raw.vop (r.b 12 6)) (Raw.vop (r.b 6 6)) (BitVec.ofNat 5 (r.b 0 5)))
  | 3 => some (.vshflx r.ext (Raw.vop (r.b 12 6)) (Raw.vop (r.b 6 6)) (BitVec.ofNat 5 (r.b 0 5)))
  | 4 => do
      let tv ← Vote.ofCode? (r.b 18 3)
      return .vvote r.ext tv (BitVec.ofNat 6 (r.b 12 6)) (BitVec.ofNat 4 (r.b 6 4))
  | 5 => do
      let tv ← RTy.ofCode? (r.b 18 3)
      let ov ← ROp.ofCode? (r.b 0 3)
      return .vred r.ext tv (Raw.vop (r.b 12 6)) (Raw.vop (r.b 6 6)) ov
  | 6 => do
      let tv ← RTy.ofCode? (r.b 18 3)
      let ov ← ROp.ofCode? (r.b 0 3)
      return .vscan r.ext tv (Raw.vop (r.b 12 6)) (Raw.vop (r.b 6 6)) (r.b 3 1 == 1) ov
  | _ => none

/-- Words of MAJ 0x18 (R387). -/
def parseMaj24 (r : Raw) : Option Instr :=
  match r.b 21 4 with
  | 0 => some (.vrand r.ext (Raw.vop (r.b 12 6)) (BitVec.ofNat 6 (r.b 6 6)))
  | _ => none

/-- Words of MAJ 0x19 (R368). -/
def parseMaj25 (r : Raw) : Option Instr :=
  some (.vbfx r.ext (Raw.vop (r.b 19 6)) (Raw.vop (r.b 13 6)) (BitVec.ofNat 5 (r.b 8 5)) (BitVec.ofNat 5 (r.b 3 5)) (r.b 2 1 == 1))

/-- Words of MAJ 0x1C (R372, R373). -/
def parseMaj28 (r : Raw) : Option Instr :=
  match r.b 21 4 with
  | 0 => some (.vrcp r.ext (Raw.vop (r.b 12 6)) (Raw.vop (r.b 6 6)))
  | 1 => some (.vrsq r.ext (Raw.vop (r.b 12 6)) (Raw.vop (r.b 6 6)))
  | 2 => some (.vsqrt r.ext (Raw.vop (r.b 12 6)) (Raw.vop (r.b 6 6)))
  | 3 => some (.vexp2 r.ext (Raw.vop (r.b 12 6)) (Raw.vop (r.b 6 6)))
  | 4 => some (.vlog2 r.ext (Raw.vop (r.b 12 6)) (Raw.vop (r.b 6 6)))
  | 5 => some (.vsin r.ext (Raw.vop (r.b 12 6)) (Raw.vop (r.b 6 6)))
  | 6 => some (.vcos r.ext (Raw.vop (r.b 12 6)) (Raw.vop (r.b 6 6)))
  | 7 => some (.vtanh r.ext (Raw.vop (r.b 12 6)) (Raw.vop (r.b 6 6)))
  | _ => none

/-- Words of MAJ 0x20 (R394). -/
def parseMaj32 (r : Raw) : Option Instr :=
  do
    let tv ← MTy.ofCode? (r.b 22 3)
    let spv ← Sp.ofCode? (r.b 19 3)
    return .ld r.ext tv spv (r.b 18 1 == 1) (BitVec.ofNat 6 (r.b 12 6)) (BitVec.ofNat 6 (r.b 6 6)) (r.signed 20 0 6 0) (BitVec.ofNat 4 (r.x 14 4))

/-- Words of MAJ 0x21 (R394). -/
def parseMaj33 (r : Raw) : Option Instr :=
  do
    let tv ← MTy.ofCode? (r.b 22 3)
    let spv ← Sp.ofCode? (r.b 19 3)
    return .st r.ext tv spv (r.b 18 1 == 1) (BitVec.ofNat 6 (r.b 12 6)) (BitVec.ofNat 6 (r.b 6 6)) (r.signed 20 0 6 0)

/-- Words of MAJ 0x22 (R394). -/
def parseMaj34 (r : Raw) : Option Instr :=
  do
    let tv ← MTy.ofCode? (r.b 22 3)
    let spv ← Sp.ofCode? (r.b 19 3)
    return .vld r.ext tv spv (r.b 18 1 == 1) (Raw.vop (r.b 12 6)) (BitVec.ofNat 6 (r.b 6 6)) (r.signed 20 0 6 0) (BitVec.ofNat 4 (r.x 14 4))

/-- Words of MAJ 0x23 (R394). -/
def parseMaj35 (r : Raw) : Option Instr :=
  do
    let tv ← MTy.ofCode? (r.b 22 3)
    let spv ← Sp.ofCode? (r.b 19 3)
    return .vst r.ext tv spv (r.b 18 1 == 1) (Raw.vop (r.b 12 6)) (BitVec.ofNat 6 (r.b 6 6)) (r.signed 20 0 6 0)

/-- Words of MAJ 0x24 (R394). -/
def parseMaj36 (r : Raw) : Option Instr :=
  do
    let tv ← MTy.ofCode? (r.b 22 3)
    let spv ← Sp.ofCode? (r.b 19 3)
    return .vldg r.ext tv spv (r.b 18 1 == 1) (Raw.vop (r.b 12 6)) (Raw.vop (r.b 6 6)) (BitVec.ofNat 2 (r.b 4 2)) (BitVec.ofNat 6 (r.x 12 6)) (BitVec.ofNat 4 (r.x 8 4))

/-- Words of MAJ 0x25 (R394). -/
def parseMaj37 (r : Raw) : Option Instr :=
  do
    let tv ← MTy.ofCode? (r.b 22 3)
    let spv ← Sp.ofCode? (r.b 19 3)
    return .vsts r.ext tv spv (r.b 18 1 == 1) (Raw.vop (r.b 12 6)) (Raw.vop (r.b 6 6)) (BitVec.ofNat 2 (r.b 4 2)) (BitVec.ofNat 6 (r.x 12 6))

/-- Words of MAJ 0x26 (R396). -/
def parseMaj38 (r : Raw) : Option Instr :=
  do
    let tv ← MxF.ofCode? (r.b 22 3)
    let spv ← Sp.ofCode? (r.b 19 3)
    return .vldmx r.ext tv spv (r.b 18 1 == 1) (Raw.vop (r.b 12 6)) (BitVec.ofNat 6 (r.b 6 6)) (r.signed 20 0 6 0) (BitVec.ofNat 4 (r.x 14 4))

/-- Words of MAJ 0x27 (R397). -/
def parseMaj39 (r : Raw) : Option Instr :=
  do
    let tv ← MxF.ofCode? (r.b 22 3)
    let spv ← Sp.ofCode? (r.b 19 3)
    return .vstmx r.ext tv spv (r.b 18 1 == 1) (Raw.vop (r.b 12 6)) (BitVec.ofNat 6 (r.b 6 6)) (r.signed 20 0 6 0)

/-- Words of MAJ 0x28 (R398, R399). -/
def parseMaj40 (r : Raw) : Option Instr :=
  do
    let ov ← AOp.ofCode? (r.b 21 4)
    let rv ← AOrd.ofCode? (r.b 19 2)
    let tv ← ATy.ofCode? (r.b 17 2)
    let spv ← ASp.ofCode? (r.b 15 2)
    return .atom r.ext ov rv tv spv (r.b 14 1 == 1) (BitVec.ofNat 6 (r.b 8 6)) (BitVec.ofNat 6 (r.b 2 6)) (r.signed 12 0 0 0) (BitVec.ofNat 6 (r.x 12 6))

/-- Words of MAJ 0x29 (R398, R399). -/
def parseMaj41 (r : Raw) : Option Instr :=
  do
    let ov ← AOp.ofCode? (r.b 21 4)
    let rv ← AOrd.ofCode? (r.b 19 2)
    let tv ← ATy.ofCode? (r.b 17 2)
    let spv ← ASp.ofCode? (r.b 15 2)
    return .vatom r.ext ov rv tv spv (r.b 14 1 == 1) (Raw.vop (r.b 8 6)) (Raw.vop (r.b 2 6)) (BitVec.ofNat 6 (r.x 12 6)) (Raw.vop (r.x 6 6))

/-- Words of MAJ 0x2A (R406, R407, R408, R409, R410). -/
def parseMaj42 (r : Raw) : Option Instr :=
  match r.b 21 4 with
  | 0 => do
      let rv ← AOrd.ofCode? (r.b 19 2)
      return .fence r.ext rv
  | 1 => some (.wait r.ext (BitVec.ofNat 6 (r.b 14 6)) (BitVec.ofNat 6 (r.b 8 6)) (BitVec.ofNat 4 (r.b 4 4)) (BitVec.ofNat 4 (r.b 0 4)))
  | 2 => do
      let spv ← Sp.ofCode? (r.b 17 3)
      return .mwatch r.ext (r.b 20 1 == 1) spv (BitVec.ofNat 6 (r.b 11 6)) (r.signed 29 0 11 0)
  | 3 => some (.mwait r.ext)
  | 4 => some (.pgreq r.ext (BitVec.ofNat 6 (r.b 11 6)) (BitVec.ofNat 6 (r.b 5 6)))
  | 5 => some (.pgpref r.ext (BitVec.ofNat 6 (r.b 11 6)) (r.signed 29 0 11 0))
  | 6 => some (.oflush r.ext)
  | _ => none

/-- Words of MAJ 0x2C (R413, R414, R415, R416, R417). -/
def parseMaj44 (r : Raw) : Option Instr :=
  match r.b 21 4 with
  | 0 => some (.itset r.ext (BitVec.ofNat 6 (r.b 15 6)) (BitVec.ofNat 6 (r.b 9 6)))
  | 1 => some (.tdef r.ext (BitVec.ofNat 6 (r.b 15 6)) (BitVec.ofNat 6 (r.b 9 6)) (BitVec.ofNat 6 (r.b 3 6)) (r.b 1 1 == 1) (r.b 0 1 == 1))
  | 2 => some (.tfree r.ext (BitVec.ofNat 6 (r.b 15 6)))
  | 3 => some (.tstat r.ext (BitVec.ofNat 6 (r.b 15 6)) (Raw.vop (r.b 9 6)))
  | 4 => some (.cpy r.ext (BitVec.ofNat 6 (r.b 15 6)) (r.b 0 1 == 1))
  | 5 => some (.cpyt r.ext (BitVec.ofNat 6 (r.b 15 6)) (r.b 0 1 == 1))
  | 6 => some (.cpym r.ext (BitVec.ofNat 6 (r.b 15 6)) (BitVec.ofNat 6 (r.b 9 6)))
  | _ => none

/-- Words of MAJ 0x2D (R426, R427, R429, R430, R432, R433, R434, R435, R436, R437, R439, R439, R440). -/
def parseMaj45 (r : Raw) : Option Instr :=
  match r.b 21 4 with
  | 0 => do
      let fv ← BFmt.ofCode? (r.b 0 4)
      return .ldw r.ext (BitVec.ofNat 6 (r.b 10 6)) fv
  | 1 => some (.swpw r.ext (BitVec.ofNat 6 (r.b 4 6)))
  | 2 =>
    match r.b 0 1 with
    | 0 => do
        let fv ← AFmt.ofCode? (r.b 1 3)
        return .mmq r.ext (BitVec.ofNat 5 (r.b 16 5)) (Raw.vop (r.b 10 6)) (BitVec.ofNat 6 (r.b 4 6)) fv
    | _ => do
        let fv ← AFmt.ofCode? (r.b 1 3)
        return .mmqTile r.ext (BitVec.ofNat 5 (r.b 16 5)) (BitVec.ofNat 6 (r.b 10 6)) (BitVec.ofNat 6 (r.b 4 6)) fv
  | 3 =>
    match r.b 0 1 with
    | 0 => do
        let fv ← AFmt.ofCode? (r.b 1 3)
        return .mmqt r.ext (BitVec.ofNat 5 (r.b 16 5)) (Raw.vop (r.b 10 6)) (BitVec.ofNat 6 (r.b 4 6)) fv
    | _ => do
        let fv ← AFmt.ofCode? (r.b 1 3)
        return .mmqtTile r.ext (BitVec.ofNat 5 (r.b 16 5)) (BitVec.ofNat 6 (r.b 10 6)) (BitVec.ofNat 6 (r.b 4 6)) fv
  | 4 => some (.mclr r.ext (BitVec.ofNat 5 (r.b 16 5)))
  | 5 => some (.mdrn r.ext (BitVec.ofNat 5 (r.b 16 5)) (Raw.vop (r.b 10 6)) (BitVec.ofNat 6 (r.b 4 6)))
  | 6 => some (.mdrnt r.ext (BitVec.ofNat 5 (r.b 16 5)) (BitVec.ofNat 6 (r.b 10 6)) (BitVec.ofNat 6 (r.b 4 6)))
  | 7 => some (.msav r.ext (BitVec.ofNat 5 (r.b 16 5)) (BitVec.ofNat 6 (r.b 10 6)))
  | 8 => some (.mrst r.ext (BitVec.ofNat 5 (r.b 16 5)) (BitVec.ofNat 6 (r.b 10 6)))
  | 9 => some (.mstat r.ext (BitVec.ofNat 5 (r.b 16 5)) (BitVec.ofNat 6 (r.b 4 6)))
  | 10 =>
    match r.b 3 1 with
    | 0 => do
        let fv ← MxF.ofCode? (r.b 0 3)
        return .rq r.ext (BitVec.ofNat 5 (r.b 16 5)) (Raw.vop (r.b 10 6)) fv
    | _ => do
        let fv ← MxF.ofCode? (r.b 0 3)
        return .rqVector r.ext (Raw.vop (r.b 10 6)) (Raw.vop (r.b 4 6)) fv
  | 11 =>
    match r.b 3 1 with
    | 0 => do
        let fv ← MxF.ofCode? (r.b 0 3)
        return .rqs r.ext (BitVec.ofNat 5 (r.b 16 5)) (Raw.vop (r.b 10 6)) fv (BitVec.ofNat 6 (r.x 12 6))
    | _ => do
        let fv ← MxF.ofCode? (r.b 0 3)
        return .rqsVector r.ext (Raw.vop (r.b 10 6)) (Raw.vop (r.b 4 6)) fv (BitVec.ofNat 6 (r.x 12 6))
  | _ => none

/-- Words of MAJ 0x2E (R446, R448, R449, R450, R451, R452). -/
def parseMaj46 (r : Raw) : Option Instr :=
  match r.b 21 4 with
  | 0 => do
      let lv ← Lvl.ofCode? (r.b 19 2)
      return .barv r.ext lv (BitVec.ofNat 4 (r.b 15 4))
  | 1 => do
      let lv ← Lvl.ofCode? (r.b 19 2)
      return .barw r.ext lv (BitVec.ofNat 4 (r.b 15 4))
  | 2 => do
      let lv ← Lvl.ofCode? (r.b 19 2)
      return .barm r.ext lv (BitVec.ofNat 4 (r.b 15 4)) (BitVec.ofNat 6 (r.b 9 6))
  | 3 => some (.fetchw r.ext (BitVec.ofNat 6 (r.b 9 6)))
  | 4 => some (.reedf r.ext)
  | _ => none

/-- Words of MAJ 0x38 (R345). -/
def parseMaj56 (r : Raw) : Option Instr :=
  some (.br r.ext (r.signed 37 0 19 0))

/-- Words of MAJ 0x39 (R345). -/
def parseMaj57 (r : Raw) : Option Instr :=
  some (.bra r.ext (r.signed 37 0 19 0))

/-- Words of MAJ 0x3A (R346). -/
def parseMaj58 (r : Raw) : Option Instr :=
  some (.call r.ext (BitVec.ofNat 6 (r.b 19 6)) (r.signed 37 0 19 0))

/-- Words of MAJ 0x3B (R345). -/
def parseMaj59 (r : Raw) : Option Instr :=
  some (.brv r.ext (r.signed 37 0 19 0))

/-- Words of MAJ 0x3C (R350). -/
def parseMaj60 (r : Raw) : Option Instr :=
  match r.b 21 4 with
  | 0 => some (.mif r.ext (r.signed 39 0 21 0))
  | 1 => some (.melse r.ext (r.signed 39 0 21 0))
  | 2 => some (.mend r.ext)
  | 3 => some (.mloop r.ext (r.signed 39 0 21 0))
  | 4 => some (.mbrk r.ext (r.signed 39 0 21 0))
  | 5 => some (.mcont r.ext (r.signed 39 0 21 0))
  | _ => none

/-- Words of MAJ 0x3D (R347, R355, R356, R357, R358, R359). -/
def parseMaj61 (r : Raw) : Option Instr :=
  match r.b 21 4 with
  | 0 => some (.nop r.ext)
  | 1 => some (.ret r.ext (BitVec.ofNat 6 (r.b 15 6)))
  | 2 => some (.jmpi r.ext (BitVec.ofNat 6 (r.b 15 6)))
  | 3 => some (.yield r.ext)
  | 4 => some (.exit r.ext)
  | 5 => some (.region r.ext)
  | 6 => some (.trap r.ext (r.unsigned 33 0 15 0))
  | _ => none

/-- Words of MAJ 0x3E (R455, R456, R458, R460, R461, R465). -/
def parseMaj62 (r : Raw) : Option Instr :=
  match r.b 21 4 with
  | 0 => some (.tfence r.ext (BitVec.ofNat 6 (r.b 15 6)))
  | 1 => some (.ofence r.ext)
  | 2 => some (.efence r.ext)
  | 3 => some (.tlbinv r.ext (BitVec.ofNat 6 (r.b 9 6)))
  | 4 => do
      let sv ← SpReg.ofCode? (r.b 0 9)
      return .srd r.ext (BitVec.ofNat 6 (r.b 15 6)) sv
  | 5 => do
      let sv ← SpReg.ofCode? (r.b 0 9)
      return .swr r.ext (BitVec.ofNat 6 (r.b 9 6)) sv
  | 6 => some (.tret r.ext)
  | _ => none

/-- The instruction that the fields of a word and its LIT name (R318, R320), before the checks of
R321 on reserved bits and excluded forms. -/
def parse (r : Raw) : Option Instr :=
  match r.maj with
  | 1 => parseMaj1 r
  | 2 => parseMaj2 r
  | 3 => parseMaj3 r
  | 4 => parseMaj4 r
  | 5 => parseMaj5 r
  | 6 => parseMaj6 r
  | 7 => parseMaj7 r
  | 8 => parseMaj8 r
  | 9 => parseMaj9 r
  | 10 => parseMaj10 r
  | 11 => parseMaj11 r
  | 16 => parseMaj16 r
  | 17 => parseMaj17 r
  | 18 => parseMaj18 r
  | 19 => parseMaj19 r
  | 20 => parseMaj20 r
  | 21 => parseMaj21 r
  | 22 => parseMaj22 r
  | 23 => parseMaj23 r
  | 24 => parseMaj24 r
  | 25 => parseMaj25 r
  | 28 => parseMaj28 r
  | 32 => parseMaj32 r
  | 33 => parseMaj33 r
  | 34 => parseMaj34 r
  | 35 => parseMaj35 r
  | 36 => parseMaj36 r
  | 37 => parseMaj37 r
  | 38 => parseMaj38 r
  | 39 => parseMaj39 r
  | 40 => parseMaj40 r
  | 41 => parseMaj41 r
  | 42 => parseMaj42 r
  | 44 => parseMaj44 r
  | 45 => parseMaj45 r
  | 46 => parseMaj46 r
  | 56 => parseMaj56 r
  | 57 => parseMaj57 r
  | 58 => parseMaj58 r
  | 59 => parseMaj59 r
  | 60 => parseMaj60 r
  | 61 => parseMaj61 r
  | 62 => parseMaj62 r
  | _ => none

/-- Lay out fields, each a value and the bit its lowest bit takes. -/
def lay : List (Nat × Nat) → Nat
  | [] => 0
  | f :: fs => f.2 * 2 ^ f.1 + lay fs

/-- REL and BASE of a vector or scale register field (R312). -/
def VOp.toNat (v : VOp) : Nat := v.base.toNat + 32 * v.rel.toNat

/-- GN, GP and W in a LIT's payload (R311). -/
def Ext.toNat (x : Ext) : Nat := x.win.toNat * 2 ^ 18 + x.gp.toNat * 2 ^ 20 + x.gn.toNat * 2 ^ 24

/-- The major opcode, the body and the LIT payload of an instruction word, laid out by the format
tables of R315, R318 and R320; none for a device step. -/
def fields : Instr → Option (Nat × Nat × Nat)
  | .sadd x t d a b => some (1, lay [(18, t.code), (12, d.toNat), (6, a.toNat), (0, b.toNat)], lay [(0, x.toNat)])
  | .ssub x t d a b => some (1, lay [(21, 1), (18, t.code), (12, d.toNat), (6, a.toNat), (0, b.toNat)], lay [(0, x.toNat)])
  | .smul x t d a b => some (1, lay [(21, 2), (18, t.code), (12, d.toNat), (6, a.toNat), (0, b.toNat)], lay [(0, x.toNat)])
  | .smulh x t d a b => some (1, lay [(21, 3), (18, t.code), (12, d.toNat), (6, a.toNat), (0, b.toNat)], lay [(0, x.toNat)])
  | .sdiv x t d a b => some (1, lay [(21, 4), (18, t.code), (12, d.toNat), (6, a.toNat), (0, b.toNat)], lay [(0, x.toNat)])
  | .srem x t d a b => some (1, lay [(21, 5), (18, t.code), (12, d.toNat), (6, a.toNat), (0, b.toNat)], lay [(0, x.toNat)])
  | .sand x t d a b => some (1, lay [(21, 6), (18, t.code), (12, d.toNat), (6, a.toNat), (0, b.toNat)], lay [(0, x.toNat)])
  | .sor x t d a b => some (1, lay [(21, 7), (18, t.code), (12, d.toNat), (6, a.toNat), (0, b.toNat)], lay [(0, x.toNat)])
  | .sxor x t d a b => some (1, lay [(21, 8), (18, t.code), (12, d.toNat), (6, a.toNat), (0, b.toNat)], lay [(0, x.toNat)])
  | .sshl x t d a b => some (1, lay [(21, 9), (18, t.code), (12, d.toNat), (6, a.toNat), (0, b.toNat)], lay [(0, x.toNat)])
  | .sshr x t d a b => some (1, lay [(21, 10), (18, t.code), (12, d.toNat), (6, a.toNat), (0, b.toNat)], lay [(0, x.toNat)])
  | .ssra x t d a b => some (1, lay [(21, 11), (18, t.code), (12, d.toNat), (6, a.toNat), (0, b.toNat)], lay [(0, x.toNat)])
  | .smin x t d a b => some (1, lay [(21, 12), (18, t.code), (12, d.toNat), (6, a.toNat), (0, b.toNat)], lay [(0, x.toNat)])
  | .smax x t d a b => some (1, lay [(21, 13), (18, t.code), (12, d.toNat), (6, a.toNat), (0, b.toNat)], lay [(0, x.toNat)])
  | .smad x t d a b e => some (1, lay [(21, 14), (18, t.code), (12, d.toNat), (6, a.toNat), (0, b.toNat)], lay [(0, x.toNat), (12, e.toNat)])
  | .smov x t d a => some (1, lay [(21, 15), (18, t.code), (12, d.toNat), (6, a.toNat)], lay [(0, x.toNat)])
  | .smovToIx x d a => some (1, lay [(21, 15), (18, 3), (12, d.toNat), (6, a.toNat)], lay [(0, x.toNat)])
  | .smovFromIx x d a => some (1, lay [(21, 15), (18, 4), (12, d.toNat), (6, a.toNat)], lay [(0, x.toNat)])
  | .scmp x k t d a b => some (2, lay [(21, k.code), (18, t.code), (12, d.toNat), (6, a.toNat), (0, b.toNat)], lay [(0, x.toNat)])
  | .ssel x n d a b => some (3, lay [(21, n.toNat), (12, d.toNat), (6, a.toNat), (0, b.toNat)], lay [(0, x.toNat)])
  | .spopc x d a => some (4, lay [(12, d.toNat), (6, a.toNat)], lay [(0, x.toNat)])
  | .sclz x d a => some (4, lay [(21, 1), (12, d.toNat), (6, a.toNat)], lay [(0, x.toNat)])
  | .scvt x t s d a r => some (5, lay [(17, t.code), (13, s.code), (7, d.toNat), (1, a.toNat), (0, r.toNat)], lay [(0, x.toNat)])
  | .saddi x d a i => some (6, lay [(19, d.toNat), (13, a.toNat), (0, i.toNat % 2 ^ 13)], lay [(0, x.toNat), (0, i.toNat / 2 ^ 13)])
  | .sli x d i => some (7, lay [(19, d.toNat), (0, i.toNat % 2 ^ 19)], lay [(0, x.toNat), (0, i.toNat / 2 ^ 19)])
  | .slih x d i => some (8, lay [(19, d.toNat), (0, i.toNat % 2 ^ 19)], lay [(0, x.toNat), (0, i.toNat / 2 ^ 19)])
  | .sbfx x d a p l sx => some (9, lay [(19, d.toNat), (13, a.toNat), (7, p.toNat), (1, l.toNat), (0, sx.toNat)], lay [(0, x.toNat)])
  | .sbfi x d a p l => some (10, lay [(19, d.toNat), (13, a.toNat), (7, p.toNat), (1, l.toNat)], lay [(0, x.toNat)])
  | .pand x d a b => some (11, lay [(15, d.toNat), (11, a.toNat), (7, b.toNat)], lay [(0, x.toNat)])
  | .por x d a b => some (11, lay [(21, 1), (15, d.toNat), (11, a.toNat), (7, b.toNat)], lay [(0, x.toNat)])
  | .pxor x d a b => some (11, lay [(21, 2), (15, d.toNat), (11, a.toNat), (7, b.toNat)], lay [(0, x.toNat)])
  | .pnot x d a => some (11, lay [(21, 3), (15, d.toNat), (11, a.toNat)], lay [(0, x.toNat)])
  | .pmov x d a => some (11, lay [(21, 4), (15, d.toNat), (11, a.toNat)], lay [(0, x.toNat)])
  | .ppopc x d a => some (11, lay [(21, 5), (15, d.toNat), (11, a.toNat)], lay [(0, x.toNat)])
  | .part x z => some (11, lay [(21, 6), (0, z.code)], lay [(0, x.toNat)])
  | .vadd x t d a b => some (16, lay [(18, t.code), (12, d.toNat), (6, a.toNat), (0, b.toNat)], lay [(0, x.toNat)])
  | .vsub x t d a b => some (16, lay [(21, 1), (18, t.code), (12, d.toNat), (6, a.toNat), (0, b.toNat)], lay [(0, x.toNat)])
  | .vmul x t d a b => some (16, lay [(21, 2), (18, t.code), (12, d.toNat), (6, a.toNat), (0, b.toNat)], lay [(0, x.toNat)])
  | .vmulh x t d a b => some (16, lay [(21, 3), (18, t.code), (12, d.toNat), (6, a.toNat), (0, b.toNat)], lay [(0, x.toNat)])
  | .vmad x t d a b e => some (16, lay [(21, 4), (18, t.code), (12, d.toNat), (6, a.toNat), (0, b.toNat)], lay [(0, x.toNat), (12, e.toNat)])
  | .vand x t d a b => some (16, lay [(21, 5), (18, t.code), (12, d.toNat), (6, a.toNat), (0, b.toNat)], lay [(0, x.toNat)])
  | .vor x t d a b => some (16, lay [(21, 6), (18, t.code), (12, d.toNat), (6, a.toNat), (0, b.toNat)], lay [(0, x.toNat)])
  | .vxor x t d a b => some (16, lay [(21, 7), (18, t.code), (12, d.toNat), (6, a.toNat), (0, b.toNat)], lay [(0, x.toNat)])
  | .vshl x t d a b => some (16, lay [(21, 8), (18, t.code), (12, d.toNat), (6, a.toNat), (0, b.toNat)], lay [(0, x.toNat)])
  | .vshr x t d a b => some (16, lay [(21, 9), (18, t.code), (12, d.toNat), (6, a.toNat), (0, b.toNat)], lay [(0, x.toNat)])
  | .vsra x t d a b => some (16, lay [(21, 10), (18, t.code), (12, d.toNat), (6, a.toNat), (0, b.toNat)], lay [(0, x.toNat)])
  | .vmin x t d a b => some (16, lay [(21, 11), (18, t.code), (12, d.toNat), (6, a.toNat), (0, b.toNat)], lay [(0, x.toNat)])
  | .vmax x t d a b => some (16, lay [(21, 12), (18, t.code), (12, d.toNat), (6, a.toNat), (0, b.toNat)], lay [(0, x.toNat)])
  | .vsel x d a b n => some (16, lay [(21, 13), (12, d.toNat), (6, a.toNat), (0, b.toNat)], lay [(0, x.toNat), (12, n.toNat)])
  | .vmov x d a => some (16, lay [(21, 14), (12, d.toNat), (6, a.toNat)], lay [(0, x.toNat)])
  | .vabs x t d a => some (16, lay [(21, 15), (18, t.code), (12, d.toNat), (6, a.toNat)], lay [(0, x.toNat)])
  | .vpopc x t d a => some (17, lay [(18, t.code), (12, d.toNat), (6, a.toNat)], lay [(0, x.toNat)])
  | .vclz x t d a => some (17, lay [(21, 1), (18, t.code), (12, d.toNat), (6, a.toNat)], lay [(0, x.toNat)])
  | .viota x d => some (17, lay [(21, 2), (12, d.toNat)], lay [(0, x.toNat)])
  | .vbcast x d a => some (17, lay [(21, 3), (12, d.toNat), (6, a.toNat)], lay [(0, x.toNat)])
  | .vextr x d a b => some (17, lay [(21, 4), (12, d.toNat), (6, a.toNat), (0, b.toNat)], lay [(0, x.toNat)])
  | .vcmp x k t d a b => some (18, lay [(21, k.code), (18, t.code), (12, d.toNat), (6, a.toNat), (0, b.toNat)], lay [(0, x.toNat)])
  | .vfadd x t d a b => some (19, lay [(18, t.code), (12, d.toNat), (6, a.toNat), (0, b.toNat)], lay [(0, x.toNat)])
  | .vfsub x t d a b => some (19, lay [(21, 1), (18, t.code), (12, d.toNat), (6, a.toNat), (0, b.toNat)], lay [(0, x.toNat)])
  | .vfmul x t d a b => some (19, lay [(21, 2), (18, t.code), (12, d.toNat), (6, a.toNat), (0, b.toNat)], lay [(0, x.toNat)])
  | .vfma x t d a b e => some (19, lay [(21, 3), (18, t.code), (12, d.toNat), (6, a.toNat), (0, b.toNat)], lay [(0, x.toNat), (12, e.toNat)])
  | .vfms x t d a b e => some (19, lay [(21, 4), (18, t.code), (12, d.toNat), (6, a.toNat), (0, b.toNat)], lay [(0, x.toNat), (12, e.toNat)])
  | .vfmin x t d a b => some (19, lay [(21, 5), (18, t.code), (12, d.toNat), (6, a.toNat), (0, b.toNat)], lay [(0, x.toNat)])
  | .vfmax x t d a b => some (19, lay [(21, 6), (18, t.code), (12, d.toNat), (6, a.toNat), (0, b.toNat)], lay [(0, x.toNat)])
  | .vfabs x t d a => some (19, lay [(21, 7), (18, t.code), (12, d.toNat), (6, a.toNat)], lay [(0, x.toNat)])
  | .vfneg x t d a => some (19, lay [(21, 8), (18, t.code), (12, d.toNat), (6, a.toNat)], lay [(0, x.toNat)])
  | .vfclass x t d a => some (19, lay [(21, 9), (18, t.code), (12, d.toNat), (6, a.toNat)], lay [(0, x.toNat)])
  | .vfcmp x k d a b => some (20, lay [(21, k.code), (12, d.toNat), (6, a.toNat), (0, b.toNat)], lay [(0, x.toNat)])
  | .vcvt x t s d a r => some (21, lay [(17, t.code), (13, s.code), (7, d.toNat), (1, a.toNat), (0, r.toNat)], lay [(0, x.toNat)])
  | .vpack x t s d a r => some (21, lay [(21, 1), (17, t.code), (13, s.code), (7, d.toNat), (1, a.toNat), (0, r.toNat)], lay [(0, x.toNat)])
  | .vunpack x t s d a => some (21, lay [(21, 2), (17, t.code), (13, s.code), (7, d.toNat), (1, a.toNat)], lay [(0, x.toNat)])
  | .kmov x d a => some (22, lay [(12, d.toNat), (6, a.toNat)], lay [(0, x.toNat)])
  | .kset x d a => some (22, lay [(21, 1), (12, d.toNat), (6, a.toNat)], lay [(0, x.toNat)])
  | .kget x d a => some (22, lay [(21, 2), (12, d.toNat), (6, a.toNat)], lay [(0, x.toNat)])
  | .kamax x t d a => some (22, lay [(21, 3), (18, t.code), (12, d.toNat), (6, a.toNat)], lay [(0, x.toNat)])
  | .vshfl x d a b => some (23, lay [(12, d.toNat), (6, a.toNat), (0, b.toNat)], lay [(0, x.toNat)])
  | .vshflup x d a n => some (23, lay [(21, 1), (12, d.toNat), (6, a.toNat), (0, n.toNat)], lay [(0, x.toNat)])
  | .vshfldn x d a n => some (23, lay [(21, 2), (12, d.toNat), (6, a.toNat), (0, n.toNat)], lay [(0, x.toNat)])
  | .vshflx x d a n => some (23, lay [(21, 3), (12, d.toNat), (6, a.toNat), (0, n.toNat)], lay [(0, x.toNat)])
  | .vvote x t d a => some (23, lay [(21, 4), (18, t.code), (12, d.toNat), (6, a.toNat)], lay [(0, x.toNat)])
  | .vred x t d a o => some (23, lay [(21, 5), (18, t.code), (12, d.toNat), (6, a.toNat), (0, o.code)], lay [(0, x.toNat)])
  | .vscan x t d a ex o => some (23, lay [(21, 6), (18, t.code), (12, d.toNat), (6, a.toNat), (3, ex.toNat), (0, o.code)], lay [(0, x.toNat)])
  | .vrand x d a => some (24, lay [(12, d.toNat), (6, a.toNat)], lay [(0, x.toNat)])
  | .vbfx x d a p l sx => some (25, lay [(19, d.toNat), (13, a.toNat), (8, p.toNat), (3, l.toNat), (2, sx.toNat)], lay [(0, x.toNat)])
  | .vrcp x d a => some (28, lay [(12, d.toNat), (6, a.toNat)], lay [(0, x.toNat)])
  | .vrsq x d a => some (28, lay [(21, 1), (12, d.toNat), (6, a.toNat)], lay [(0, x.toNat)])
  | .vsqrt x d a => some (28, lay [(21, 2), (12, d.toNat), (6, a.toNat)], lay [(0, x.toNat)])
  | .vexp2 x d a => some (28, lay [(21, 3), (12, d.toNat), (6, a.toNat)], lay [(0, x.toNat)])
  | .vlog2 x d a => some (28, lay [(21, 4), (12, d.toNat), (6, a.toNat)], lay [(0, x.toNat)])
  | .vsin x d a => some (28, lay [(21, 5), (12, d.toNat), (6, a.toNat)], lay [(0, x.toNat)])
  | .vcos x d a => some (28, lay [(21, 6), (12, d.toNat), (6, a.toNat)], lay [(0, x.toNat)])
  | .vtanh x d a => some (28, lay [(21, 7), (12, d.toNat), (6, a.toNat)], lay [(0, x.toNat)])
  | .ld x t sp o d a f rp => some (32, lay [(22, t.code), (19, sp.code), (18, o.toNat), (12, d.toNat), (6, a.toNat), (0, f.toNat % 2 ^ 6)], lay [(0, x.toNat), (0, f.toNat / 2 ^ 6), (14, rp.toNat)])
  | .st x t sp o d a f => some (33, lay [(22, t.code), (19, sp.code), (18, o.toNat), (12, d.toNat), (6, a.toNat), (0, f.toNat % 2 ^ 6)], lay [(0, x.toNat), (0, f.toNat / 2 ^ 6)])
  | .vld x t sp o d a f rp => some (34, lay [(22, t.code), (19, sp.code), (18, o.toNat), (12, d.toNat), (6, a.toNat), (0, f.toNat % 2 ^ 6)], lay [(0, x.toNat), (0, f.toNat / 2 ^ 6), (14, rp.toNat)])
  | .vst x t sp o d a f => some (35, lay [(22, t.code), (19, sp.code), (18, o.toNat), (12, d.toNat), (6, a.toNat), (0, f.toNat % 2 ^ 6)], lay [(0, x.toNat), (0, f.toNat / 2 ^ 6)])
  | .vldg x t sp o d i k s rp => some (36, lay [(22, t.code), (19, sp.code), (18, o.toNat), (12, d.toNat), (6, i.toNat), (4, k.toNat)], lay [(0, x.toNat), (12, s.toNat), (8, rp.toNat)])
  | .vsts x t sp o d i k s => some (37, lay [(22, t.code), (19, sp.code), (18, o.toNat), (12, d.toNat), (6, i.toNat), (4, k.toNat)], lay [(0, x.toNat), (12, s.toNat)])
  | .vldmx x t sp o d a f rp => some (38, lay [(22, t.code), (19, sp.code), (18, o.toNat), (12, d.toNat), (6, a.toNat), (0, f.toNat % 2 ^ 6)], lay [(0, x.toNat), (0, f.toNat / 2 ^ 6), (14, rp.toNat)])
  | .vstmx x t sp o d a f => some (39, lay [(22, t.code), (19, sp.code), (18, o.toNat), (12, d.toNat), (6, a.toNat), (0, f.toNat % 2 ^ 6)], lay [(0, x.toNat), (0, f.toNat / 2 ^ 6)])
  | .atom x o r t sp nr d a f e => some (40, lay [(21, o.code), (19, r.code), (17, t.code), (15, sp.code), (14, nr.toNat), (8, d.toNat), (2, a.toNat)], lay [(0, x.toNat), (0, f.toNat), (12, e.toNat)])
  | .vatom x o r t sp nr d i s e => some (41, lay [(21, o.code), (19, r.code), (17, t.code), (15, sp.code), (14, nr.toNat), (8, d.toNat), (2, i.toNat)], lay [(0, x.toNat), (12, s.toNat), (6, e.toNat)])
  | .fence x r => some (42, lay [(19, r.code)], lay [(0, x.toNat)])
  | .wait x l s k t => some (42, lay [(21, 1), (14, l.toNat), (8, s.toNat), (4, k.toNat), (0, t.toNat)], lay [(0, x.toNat)])
  | .mwatch x w sp a f => some (42, lay [(21, 2), (20, w.toNat), (17, sp.code), (11, a.toNat), (0, f.toNat % 2 ^ 11)], lay [(0, x.toNat), (0, f.toNat / 2 ^ 11)])
  | .mwait x => some (42, lay [(21, 3)], lay [(0, x.toNat)])
  | .pgreq x a b => some (42, lay [(21, 4), (11, a.toNat), (5, b.toNat)], lay [(0, x.toNat)])
  | .pgpref x a f => some (42, lay [(21, 5), (11, a.toNat), (0, f.toNat % 2 ^ 11)], lay [(0, x.toNat), (0, f.toNat / 2 ^ 11)])
  | .oflush x => some (42, lay [(21, 6)], lay [(0, x.toNat)])
  | .itset x n a => some (44, lay [(15, n.toNat), (9, a.toNat)], lay [(0, x.toNat)])
  | .tdef x n a b k m => some (44, lay [(21, 1), (15, n.toNat), (9, a.toNat), (3, b.toNat), (1, k.toNat), (0, m.toNat)], lay [(0, x.toNat)])
  | .tfree x n => some (44, lay [(21, 2), (15, n.toNat)], lay [(0, x.toNat)])
  | .tstat x n a => some (44, lay [(21, 3), (15, n.toNat), (9, a.toNat)], lay [(0, x.toNat)])
  | .cpy x n out => some (44, lay [(21, 4), (15, n.toNat), (0, out.toNat)], lay [(0, x.toNat)])
  | .cpyt x n out => some (44, lay [(21, 5), (15, n.toNat), (0, out.toNat)], lay [(0, x.toNat)])
  | .cpym x n a => some (44, lay [(21, 6), (15, n.toNat), (9, a.toNat)], lay [(0, x.toNat)])
  | .ldw x a f => some (45, lay [(10, a.toNat), (0, f.code)], lay [(0, x.toNat)])
  | .swpw x b => some (45, lay [(21, 1), (4, b.toNat)], lay [(0, x.toNat)])
  | .mmq x n a b f => some (45, lay [(21, 2), (16, n.toNat), (10, a.toNat), (4, b.toNat), (1, f.code)], lay [(0, x.toNat)])
  | .mmqTile x n a b f => some (45, lay [(21, 2), (0, 1), (16, n.toNat), (10, a.toNat), (4, b.toNat), (1, f.code)], lay [(0, x.toNat)])
  | .mmqt x n a b f => some (45, lay [(21, 3), (16, n.toNat), (10, a.toNat), (4, b.toNat), (1, f.code)], lay [(0, x.toNat)])
  | .mmqtTile x n a b f => some (45, lay [(21, 3), (0, 1), (16, n.toNat), (10, a.toNat), (4, b.toNat), (1, f.code)], lay [(0, x.toNat)])
  | .mclr x n => some (45, lay [(21, 4), (16, n.toNat)], lay [(0, x.toNat)])
  | .mdrn x n a b => some (45, lay [(21, 5), (16, n.toNat), (10, a.toNat), (4, b.toNat)], lay [(0, x.toNat)])
  | .mdrnt x n a b => some (45, lay [(21, 6), (16, n.toNat), (10, a.toNat), (4, b.toNat)], lay [(0, x.toNat)])
  | .msav x n a => some (45, lay [(21, 7), (16, n.toNat), (10, a.toNat)], lay [(0, x.toNat)])
  | .mrst x n a => some (45, lay [(21, 8), (16, n.toNat), (10, a.toNat)], lay [(0, x.toNat)])
  | .mstat x n b => some (45, lay [(21, 9), (16, n.toNat), (4, b.toNat)], lay [(0, x.toNat)])
  | .rq x n a f => some (45, lay [(21, 10), (16, n.toNat), (10, a.toNat), (0, f.code)], lay [(0, x.toNat)])
  | .rqVector x a b f => some (45, lay [(21, 10), (3, 1), (10, a.toNat), (4, b.toNat), (0, f.code)], lay [(0, x.toNat)])
  | .rqs x n a f e => some (45, lay [(21, 11), (16, n.toNat), (10, a.toNat), (0, f.code)], lay [(0, x.toNat), (12, e.toNat)])
  | .rqsVector x a b f e => some (45, lay [(21, 11), (3, 1), (10, a.toNat), (4, b.toNat), (0, f.code)], lay [(0, x.toNat), (12, e.toNat)])
  | .barv x l n => some (46, lay [(19, l.code), (15, n.toNat)], lay [(0, x.toNat)])
  | .barw x l n => some (46, lay [(21, 1), (19, l.code), (15, n.toNat)], lay [(0, x.toNat)])
  | .barm x l n a => some (46, lay [(21, 2), (19, l.code), (15, n.toNat), (9, a.toNat)], lay [(0, x.toNat)])
  | .fetchw x a => some (46, lay [(21, 3), (9, a.toNat)], lay [(0, x.toNat)])
  | .reedf x => some (46, lay [(21, 4)], lay [(0, x.toNat)])
  | .br x f => some (56, lay [(0, f.toNat % 2 ^ 19)], lay [(0, x.toNat), (0, f.toNat / 2 ^ 19)])
  | .bra x f => some (57, lay [(0, f.toNat % 2 ^ 19)], lay [(0, x.toNat), (0, f.toNat / 2 ^ 19)])
  | .call x d f => some (58, lay [(19, d.toNat), (0, f.toNat % 2 ^ 19)], lay [(0, x.toNat), (0, f.toNat / 2 ^ 19)])
  | .brv x f => some (59, lay [(0, f.toNat % 2 ^ 19)], lay [(0, x.toNat), (0, f.toNat / 2 ^ 19)])
  | .mif x f => some (60, lay [(0, f.toNat % 2 ^ 21)], lay [(0, x.toNat), (0, f.toNat / 2 ^ 21)])
  | .melse x f => some (60, lay [(21, 1), (0, f.toNat % 2 ^ 21)], lay [(0, x.toNat), (0, f.toNat / 2 ^ 21)])
  | .mend x => some (60, lay [(21, 2)], lay [(0, x.toNat)])
  | .mloop x f => some (60, lay [(21, 3), (0, f.toNat % 2 ^ 21)], lay [(0, x.toNat), (0, f.toNat / 2 ^ 21)])
  | .mbrk x f => some (60, lay [(21, 4), (0, f.toNat % 2 ^ 21)], lay [(0, x.toNat), (0, f.toNat / 2 ^ 21)])
  | .mcont x f => some (60, lay [(21, 5), (0, f.toNat % 2 ^ 21)], lay [(0, x.toNat), (0, f.toNat / 2 ^ 21)])
  | .nop x => some (61, lay [], lay [(0, x.toNat)])
  | .ret x a => some (61, lay [(21, 1), (15, a.toNat)], lay [(0, x.toNat)])
  | .jmpi x a => some (61, lay [(21, 2), (15, a.toNat)], lay [(0, x.toNat)])
  | .yield x => some (61, lay [(21, 3)], lay [(0, x.toNat)])
  | .exit x => some (61, lay [(21, 4)], lay [(0, x.toNat)])
  | .region x => some (61, lay [(21, 5)], lay [(0, x.toNat)])
  | .trap x i => some (61, lay [(21, 6), (0, i.toNat % 2 ^ 15)], lay [(0, x.toNat), (0, i.toNat / 2 ^ 15)])
  | .tfence x d => some (62, lay [(15, d.toNat)], lay [(0, x.toNat)])
  | .ofence x => some (62, lay [(21, 1)], lay [(0, x.toNat)])
  | .efence x => some (62, lay [(21, 2)], lay [(0, x.toNat)])
  | .tlbinv x a => some (62, lay [(21, 3), (9, a.toNat)], lay [(0, x.toNat)])
  | .srd x d s => some (62, lay [(21, 4), (15, d.toNat), (0, s.code)], lay [(0, x.toNat)])
  | .swr x a s => some (62, lay [(21, 5), (9, a.toNat), (0, s.code)], lay [(0, x.toNat)])
  | .tret x => some (62, lay [(21, 6)], lay [(0, x.toNat)])
  | .clobusoNop _ _ => none
  | .launch _ _ => none
  | .launchi _ _ => none
  | .cIf _ _ => none
  | .cElse _ _ => none
  | .cEndif _ _ => none
  | .cLoop _ _ => none
  | .cEndloop _ _ => none
  | .waitv _ _ => none
  | .waitvRead _ _ => none
  | .signal _ _ => none
  | .clobusoFence _ _ => none
  | .coll _ _ => none
  | .cOpen _ _ => none
  | .commit _ _ => none
  | .abort _ _ => none
  | .page _ _ => none
  | .launchComplete _ => none
  | .registerWrite _ => none
  | .partitionWrite _ => none
  | .ctxTailWrite _ => none
  | .ctxHeadWrite _ => none
  | .ctxBindEnable _ => none
  | .ctxBindDisable _ => none
  | .plyReqRun _ => none
  | .plyReqDoze _ => none
  | .plyReqSleep _ => none
  | .bootColdStart _ => none
  | .bootWarmStart _ => none
  | .powerUp => none
  | .fundamentalReset _ => none
  | .bootReady _ => none
  | .flashWindowWrite _ => none
  | .attestRequest _ => none
  | .quoteDone _ => none
  | .l2wbStart _ => none
  | .l2wbDone _ => none
  | .preemptSave _ => none
  | .preemptKill _ => none
  | .preemptRelease _ => none
  | .traceEnable _ => none
  | .traceDisable _ => none
  | .wptrPublish _ => none
  | .counterClear _ => none
  | .counterLatchRead _ => none
  | .bar4Access _ => none
  | .beamLinkDown => none
  | .flitRetry => none
  | .ualDown _ => none
  | .inboundRemoteAccess _ => none
  | .remoteTimeout _ => none
  | .clockStepDown _ => none
  | .heatPublish _ => none
  | .autoDoze _ => none
  | .plyStateEntry _ => none
  | .dozeWake _ => none
  | .listenerLock _ => none
  | .logReplay _ => none
  | .mirrorCopy _ => none
  | .patrolScrub _ => none
  | .dentPass _ => none
  | .dentApply _ => none
  | .regionClear _ _ => none
  | .slotAllocation _ => none
  | .slotReturn _ => none
  | .contributionArrival _ _ => none
  | .collTimeout _ _ _ => none
  | .collComplete _ _ => none
  | .boltPlacement _ => none
  | .starving _ => none
  | .priorityPreemption _ => none
  | .boltSave _ => none
  | .boltRestore _ => none
  | .savedMwaddrRead _ => none
  | .fetchwAnswer _ => none
  | .boltRetire _ => none
  | .idemRelaunch _ => none
  | .warpSwap _ => none
  | .swapThreshold _ => none
  | .starveSwap _ => none
  | .activeSetFill _ => none
  | .warpSlotFree _ => none
  | .trapTaken _ => none
  | .loomGrant _ _ => none
  | .loomRequestAging _ _ => none
  | .loomPassFinish _ _ => none
  | .loomRequestFinish _ _ => none
  | .copyStart _ => none
  | .copyUnitWrite _ => none
  | .copyComplete _ => none
  | .loadReturn _ _ => none
  | .registrationComplete _ _ => none
  | .atomicPerform _ _ => none
  | .epochFlush _ => none
  | .sweepComplete _ => none
  | .requestReturn _ => none
  | .tlbinvRemoval _ => none
  | .pgreqPost _ => none
  | .mwaitReread _ => none
  | .powerRemoval => none
  | .softError _ => none
  | .cpHalt _ => none
  | .clockStepUp _ => none
  | .portLinkChange _ _ => none
  | .remoteAcknowledge _ => none
  | .resizableBarSet _ _ => none
  | .illegalInstruction _ => none
  | .illegalPacket _ => none
  | .instructionFetch _ => none

/-- Why the decoder refuses bits (R309, R321). -/
inductive Reject where
  /-- MAJ, OP or a coded field is not assigned, or the form is not an instruction (R317 to R320). -/
  | unassigned
  /-- The fields name an instruction whose form the instruction chapters exclude. -/
  | excluded
  /-- A reserved bit or the field of an operand that the instruction does not use is set (R321). -/
  | reserved
  /-- A LIT stands where no word precedes it (R309). -/
  | loneLit
  /-- Fewer bytes than a word, or than a word and the LIT it is chained to. -/
  | truncated
  deriving DecidableEq, Repr

/-- What the decoder answers: an instruction, or the reason why there is none. -/
inductive Decoded where
  | ok (i : Instr)
  | no (r : Reject)
  deriving DecidableEq, Repr

/-- The instruction that was decoded, if there is one. -/
def Decoded.toOption : Decoded → Option Instr
  | .ok i => some i
  | .no _ => none

/-- Decode the fields of a word and its LIT (R321): every check but those of R314 and R322, which
depend on the warp. -/
def decodeRaw (r : Raw) : Decoded :=
  match parse r with
  | none => .no .unassigned
  | some i =>
    if i.wf = false then .no .excluded
    else
      match fields i with
      | none => .no .unassigned
      | some (maj, body, pay) =>
        if maj = r.maj ∧ body = r.body ∧ (r.lit = none ∨ r.lit = some pay) then .ok i
        else .no .reserved

/-- The major opcode of LIT (R307). -/
def litMajor : Nat := 63

/-- The chain bit C of a word (R307). -/
def wordC (w : BitVec 32) : Bool := w.getLsbD 31

/-- The major opcode of a word (R307). -/
def wordMaj (w : BitVec 32) : Nat := fld w.toNat 25 6

/-- Whether a word is a LIT (R311). -/
def isLit (w : BitVec 32) : Bool := wordMaj w == litMajor

/-- The fields of a word and of the LIT chained to it. -/
def rawOf (w : BitVec 32) (lit : Option (BitVec 32)) : Raw :=
  ⟨wordMaj w, fld w.toNat 0 25, lit.map fun l => fld l.toNat 0 25⟩

/-- Decode a word and the LIT that extends it, if there is one. [DESIGN CHOICE, log 56] -/
def decodeUnit (w : BitVec 32) (lit : Option (BitVec 32)) : Decoded :=
  if isLit w then .no .loneLit else decodeRaw (rawOf w lit)

/-- Decode the first instruction of a list of words and answer the words that follow it: a LIT is
folded into the word before it when that word's C is 1 (R309, R311). -/
def decodeWords : List (BitVec 32) → Decoded × List (BitVec 32)
  | [] => (.no .truncated, [])
  | w :: ws =>
    match ws with
    | l :: rest =>
      if wordC w && isLit l then (decodeUnit w (some l), rest) else (decodeUnit w none, ws)
    | [] => (decodeUnit w none, [])

/-- The words of a list of bytes, little-endian (R3, R308); bytes short of a word are left out. -/
def wordsOfBytes : List (BitVec 8) → List (BitVec 32)
  | b0 :: b1 :: b2 :: b3 :: rest => (b3 ++ b2 ++ b1 ++ b0) :: wordsOfBytes rest
  | _ => []

/-- Decode the first instruction of any list of bytes. -/
def decodeBytes (bs : List (BitVec 8)) : Decoded :=
  (decodeWords (wordsOfBytes bs)).1

/-- A word of a chain bit, a major opcode and a body (R307). -/
def mkWord (c : Bool) (maj body : Nat) : BitVec 32 :=
  BitVec.ofNat 32 (c.toNat * 2 ^ 31 + maj * 2 ^ 25 + body)

/-- The words of an instruction, its last word chained by `c`: the word alone where that says it
all, and the word and a LIT otherwise (R311, R325).  A device step has no words. -/
def encode (c : Bool) (i : Instr) : List (BitVec 32) :=
  match fields i with
  | none => []
  | some (maj, body, pay) =>
    if parse ⟨maj, body, none⟩ = some i then [mkWord c maj body]
    else [mkWord true maj body, mkWord c litMajor pay]

/-- The instruction that the decoder reads from the bits that the opcode table numbers: one word
without a LIT. [DESIGN CHOICE, log 55] -/
def decodeTableWord (nbits w : Nat) : Option Instr :=
  if nbits = 32 then (decodeUnit (BitVec.ofNat 32 w) none).toOption else none

end Sys2Proof
end

