-- ==== Sys2Proof/Machine/State.lean ====
section
/-! DEFINITION. The state of the AX8 as plain data: the warp at issue and the other warps, groups,
bolts and launches, the operations in flight, memories, translation, looms and shuttles, the reed,
links, host ports and every register block, and the state right after reset. -/

namespace Sys2Proof.Machine

/-- What names an entry of a TLB (R207): its partition, ASID and level, and the address bits that it covers. -/
structure TlbKey where
  part  : PartN
  asid  : BitVec 12
  level : Nat
  vpn   : Nat
  deriving DecidableEq, Repr

/-! ## Warps -/

/-- The architectural registers of a warp (R312). -/
structure Regs where
  s  : Vector Word64 64
  v  : Vector (Vector Word32 32) 256
  k  : Vector Word64 256
  p  : Vector Lanes 16
  ix : Vector (BitVec 16) 4
  deriving DecidableEq, Repr

/-- The vector and scale registers of a warp as they stood at some moment (R239, R240). -/
structure RegFile where
  v : Vector (Vector Word32 32) 256
  k : Vector Word64 256
  deriving DecidableEq, Repr

/-- An entry of the mask stack (R349). -/
structure MaskEntry where
  outer : Lanes
  rest  : Lanes
  deriving DecidableEq, Repr

/-- The control state that a region entry records (R253): the active mask, the mask stack with its
top first, the partition register and the draw index. -/
structure Control where
  am    : Lanes
  stack : List MaskEntry
  part  : PartSz
  draw  : Word64
  deriving DecidableEq, Repr

/-- The region entry of a warp (R253): packet, word index, sequence number and control state. -/
structure Region where
  pc   : Word64
  widx : BitVec 2
  seq  : BitVec 32
  ctl  : Control
  deriving DecidableEq, Repr

/-- An operation that an outstanding counter counts: its identifier and whether it has finished
(R157, R158). -/
structure Token where
  op   : Nat
  done : Bool
  deriving DecidableEq, Repr

/-- The outstanding counters of a warp, each with its oldest operation first (R157). -/
structure Counters where
  lc : List Token
  sc : List Token
  cc : List Token
  tc : List Token
  deriving DecidableEq, Repr

/-- A fault that an instruction raised and no trap has reported (R248, R250).  `seq` is the issue
number of the instruction, `order` the place of the failed check in R250, and `excl` whether R254
excludes the instruction from regions. -/
structure FaultRec where
  seq      : Nat
  order    : Nat
  cause    : BitVec 8
  addr     : Word64
  lane     : BitVec 5
  flanes   : Lanes
  struct   : BitVec 4
  space    : BitVec 3
  remoteTo : Bool
  excl     : Bool
  deriving DecidableEq, Repr

/-- What a trap reports (R250, R251, R257). -/
structure TrapRec where
  cause    : BitVec 8
  addr     : Word64
  lane     : BitVec 5
  flanes   : Lanes
  struct   : BitVec 4
  space    : BitVec 3
  remoteTo : Bool
  fetch    : Bool
  precise  : Bool
  more     : Bool
  rmode    : Bool
  word     : BitVec 32
  pc       : Word64
  widx     : BitVec 2
  deriving DecidableEq, Repr

/-- The states of a warp slot (R139). -/
inductive SlotState where
  | free | pending | active | exiting | saved
  deriving DecidableEq, Repr

/-- The outstanding counters (R157). -/
inductive Counter where
  | lc | sc | cc | tc
  deriving DecidableEq, Repr

/-- What an instruction needs of the tile-table entry that it names (R185, R186, R413 to R417): an
entry that a copy in may fill, an EMPTY one, a READY one, one that TDEF may map again, one that
TFREE may free, one that ITSET may write, a counted slot to consume, or a free slot. -/
inductive TileNeed where
  | fill | empty | ready | mappable | freeable | idle | count | slot
  deriving DecidableEq, Repr

/-- Why a warp's next issue group is held (R141, R259). -/
inductive Hold where
  | counter (k : Counter)
  | wait (lc sc : BitVec 6) (cc tc : BitVec 4)
  | barw (l : Lvl) (n : BitVec 4) (gen : BitVec 32)
  | secondArrival (l : Lvl) (n : BitVec 4) (gen : BitVec 32)
  | mwait
  | tile (n : TileName) (need : TileNeed)
  | tdef
  | fifthFetchw
  | fence (r : AOrd)
  | firstAcquire
  | acquire
  | behind
  | flush
  | reedf (ids : List Nat)
  | loomTable (n : Nat)
  | reedQueue (n : Nat)
  | holdingRoom (n : Nat)
  | requests
  | fetchMiss
  | ofence
  | drain
  | tfence
  | tret
  deriving DecidableEq, Repr

/-- What a warp waits for after an instruction that has begun (R205, R456), and whether a read of
the word that its MWAIT watches has returned a new value (R408). -/
inductive Busy where
  | none
  | sweep (id : Nat) (d : SReg)
  | pgreq (va notify : Word64)
  | woken
  deriving DecidableEq, Repr

/-- The latest arrival of a warp at a barrier (R169). -/
structure ArriveRec where
  lvl : Lvl
  n   : BitVec 4
  gen : BitVec 32
  deriving DecidableEq, Repr

/-- A fetched packet: its address and its three words (R308). -/
structure Packet where
  pc    : Word64
  words : List (BitVec 32)
  deriving DecidableEq, Repr

/-- What a launch fixes for its warps (R105), copied when a warp is placed. -/
structure LaunchEnv where
  beam      : Beam
  ctx       : CtxN
  part      : PartN
  code      : Word64
  vregs     : Nat
  sregs     : Nat
  pregs     : Nat
  accs      : Nat
  scratch   : Nat
  priv      : Nat
  privBase  : Word64
  ordered   : Bool
  idem      : Bool
  persist   : Bool
  versioned : Bool
  vdom      : BitVec 4
  prio      : BitVec 2
  vwr       : Bool
  vlo       : BitVec 6
  vhi       : BitVec 6
  vply      : BitVec 8
  dents     : Nat
  tag       : BitVec 8
  trace     : Bool
  deriving DecidableEq, Repr

/-- Where a warp stands: its group, bolt and launch, its core, slot, index in the group, private
number, and the index of its group and bolt (R12, R123, R125). -/
structure Place where
  wid   : Nat
  gid   : Nat
  bid   : Nat
  lid   : Nat
  core  : Nat
  slot  : BitVec 5
  widx  : BitVec 5
  gidx  : BitVec 4
  bolt  : BitVec 96
  num   : BitVec 16
  deriving DecidableEq, Repr

/-- The scheduling state of a warp slot (R139 to R144): its state, its age, its active position,
whether it has been marked blocked, and the hold of its next group. [DESIGN CHOICE, log 8] -/
structure Sched where
  state   : SlotState
  age     : Nat
  pos     : BitVec 3
  blocked : Bool
  hold    : Option Hold
  deriving DecidableEq, Repr

/-- A warp: every field of R125 and R257, its counters, faults and pending steps, whether its next group is a flush
point that it has passed and whether that covers a held atomic (R244), its registers and its group's scratch as they stood
at its latest OFENCE, and the issue number of that (R239), and the entries for which its MWAIT has counted a hit
(R213). -/
structure Warp where
  place    : Place
  env      : LaunchEnv
  sched    : Sched
  regs     : Regs
  ctl      : Control
  region   : Region
  pc       : Word64
  widx     : BitVec 2
  handler  : Bool
  rmask    : Lanes
  mwAddr   : Word64
  mwOld    : Word64
  hscr0    : Word64
  hscr1    : Word64
  cnt      : Counters
  aside    : Counters
  faults   : List FaultRec
  trap     : Option TrapRec
  busy     : Busy
  packet   : Option Packet
  issued   : Nat
  lclock   : Word64
  atomSeq  : BitVec 32
  storeSeq : BitVec 32
  epoch    : Nat
  flushing : Bool
  covering : Bool
  arrivals : List ArriveRec
  waitRec  : BitVec 20
  exited   : Bool
  fenced   : RegFile
  fencedMem : List Host.Cell
  fenceSeq : Nat
  watched  : List TlbKey
  deriving DecidableEq, Repr

/-- The latch of the issue group that is issuing (R151): its packet, the word index of its first
word, the word at issue, its place in the group, the group's words, the warp as it stood before the
group issued, and the hold that the group met as it issued. -/
structure Issue where
  pc    : Word64
  widx  : BitVec 2
  word  : BitVec 32
  pos   : Nat
  words : List (BitVec 32)
  snap  : Option Warp
  mark  : Nat
  retry : Option Hold
  deriving DecidableEq, Repr

/-! ## Operations in flight -/

/-- A location (R224): a byte of physical memory (bit 51 set names the remote aperture), of a
group's scratch, of a vault, or of the reed window of a beam. -/
inductive Loc where
  | phys (pa : Nat)
  | scratch (gid off : Nat)
  | vault (a : Nat)
  | reed (b : Beam) (off : Nat)
  deriving DecidableEq, Repr

/-- Where an element of a load or atomic is written (R390, R396, R399). -/
inductive Target where
  | none
  | sreg (d : SReg) (t : MTy)
  | lane (r : BitVec 8) (t : MTy)
  | lanePair (r : BitVec 8)
  | scale (r : BitVec 8) (slot : BitVec 3)
  deriving DecidableEq, Repr

/-- How far an element has come. -/
inductive EState where
  | waiting | performed
  deriving DecidableEq, Repr

/-- One element of an operation: its lane, location, size in bytes, the address as formed, where its
result goes, the operand (store data, atomic operand or compare value), the new value of a cas, the
value an atomic has read, and the die of its home slice (R179). -/
structure Elem where
  lane  : BitVec 5
  loc   : Loc
  size  : Nat
  addr  : Word64
  va    : Word64
  tgt   : Target
  data  : Word64
  new   : Word64
  old   : Word64
  home  : Option Die
  state : EState
  deriving DecidableEq, Repr

/-- An entry of a core's holding buffer (R402), with the warp it belongs to and its order of entry
into the bolt's buffers and the issue number of its instruction; `spilled` is the save slot that an entry has been
written to, and its place there (R403). -/
structure HEntry where
  core    : Nat
  wid     : Nat
  gid     : Nat
  lid     : Nat
  bid     : Nat
  op      : Nat
  atomic  : Bool
  ord     : AOrd
  aop     : AOp
  aty     : ATy
  nr      : Bool
  stale   : Bool
  dvec    : Bool
  pa      : Nat
  bolt    : BitVec 96
  epoch   : Nat
  group   : BitVec 4
  warp    : BitVec 5
  lane    : BitVec 5
  seq     : BitVec 32
  mask    : BitVec 8
  dreg    : BitVec 8
  data    : Word64
  new     : Word64
  va      : Word64
  order   : Nat
  issue   : Nat
  spilled : Option (Nat × Nat)
  deriving DecidableEq, Repr

/-- The kinds of operation. -/
inductive OpKind where
  | load
  | store
  | atomic (o : AOp) (t : ATy) (ret : Bool)
  | arrive (l : Lvl) (n : BitVec 4)
  | fence
  deriving DecidableEq, Repr

/-- An operation in flight: who issued it and for which launch (R102), its issue number, its ordering,
its elements, the residency predicate that it names and the active mask at its issue (R203), the space
for faults, the sweep count of its translations (R210), the moment at which it left for its home or, for
a store, was written into its core's L1, where it has been (R227), the holding-buffer entries of a store
of an ordered launch that waits to enter the buffer (R228, R243), the other warps of the core that have
read it before it performed (R227), and the lines that it has asked its homes for (R181). -/
structure Op where
  id    : Nat
  wid   : Nat
  gid   : Nat
  bid   : Nat
  lid   : Nat
  core  : Nat
  part  : PartN
  seq   : Nat
  kind  : OpKind
  acq   : Bool
  rel   : Bool
  rp    : PReg
  am    : Lanes
  space : BitVec 3
  excl  : Bool
  elems : List Elem
  sweep : Nat
  l1    : Option Nat
  chunks : List HEntry
  seen  : List Nat
  asked : List Nat
  deriving DecidableEq, Repr

/-- A valid 4-byte word of a core's L1 (R178, R227, R229, R230): its bytes, its dirty and owned bits, the
warp whose private word it is, and when it was written there or read from its home. -/
structure L1Word where
  core  : Nat
  pa    : Nat
  data  : Word32
  dirty : Bool
  owned : Bool
  priv  : Option Nat
  stamp : Nat
  deriving DecidableEq, Repr

/-! ## Translation -/

/-- A TLB or walk-cache entry (R207, R213): the partition, the ASID, the level it was read at, the
virtual address bits it covers, the two words of the entry, the base of the frame it was last used
for, and its hit count. -/
structure TlbEntry where
  part  : PartN
  asid  : BitVec 12
  level : Nat
  vpn   : Nat
  w0    : Word64
  w1    : Word64
  frame : Nat
  hits  : BitVec 8
  deriving DecidableEq, Repr

/-- Who asked for a sweep (R209, R457). -/
inductive SweepFor where
  | tfence (wid : Nat)
  | stream (b : Beam) (c : CtxN) (cmd : Nat)
  deriving DecidableEq, Repr

/-- A sweep of a partition (R209): its identifier, who asked, whether it runs, its report (R211), and the slices that it
is known to have visited, since a request has been returned there (R210). -/
structure Sweep where
  id      : Nat
  part    : PartN
  who     : SweepFor
  running : Bool
  cutCpy  : BitVec 32
  cutAcc  : BitVec 32
  cut     : List Nat
  visited : List Nat
  deriving DecidableEq, Repr

/-- A TLBINV that has not removed its entries yet (R460). -/
structure TlbInv where
  id   : Nat
  part : PartN
  asid : BitVec 12
  arg  : Word64
  deriving DecidableEq, Repr

/-! ## Tiles, accumulators, looms and shuttles -/

/-- A dimension of an iterator record (R187). -/
structure IterDim where
  bc     : Bool
  ext    : BitVec 23
  stride : BitVec 40
  cnt    : BitVec 32
  deriving DecidableEq, Repr

/-- An iterator record (R187). -/
structure Iter where
  base  : Word64
  dims  : Vector IterDim 4
  vault : Bool
  tr    : Bool
  fmt   : BitVec 4
  deriving DecidableEq, Repr

/-- The states of a plain tile-table entry (R184, R185). -/
inductive TileState where
  | empty | filling | ready | draining
  deriving DecidableEq, Repr

/-- A reserved slot of a counted entry, in reservation order (R186). -/
structure Reserve where
  id   : Nat
  done : Bool
  deriving DecidableEq, Repr

/-- A tile-table entry (R184): the image's fields, the reserved slots in order, and the number of
loom reads and copies out that are in flight. -/
structure Tile where
  mapped   : Bool
  counted  : Bool
  arm      : Bool
  state    : TileState
  hmc      : Bool
  fmt      : BitVec 4
  head     : BitVec 8
  count    : BitVec 9
  rsv      : List Reserve
  drops    : BitVec 8
  rows     : BitVec 8
  cols     : BitVec 16
  pitch    : BitVec 12
  base     : BitVec 15
  holes    : BitVec 256
  iter     : Iter
  loomRead : Nat
  outRead  : Nat
  deriving DecidableEq, Repr

/-- An accumulator tile (R266, R289, R435): 8 rows of 128 FP32 elements, row and column flags, and
the ERR and STALE bits. -/
structure AccTile where
  els     : Vector (Vector Word32 128) 8
  rowFlag : Vector (BitVec 2) 8
  colFlag : Vector (BitVec 2) 128
  err     : Bool
  stale   : Bool
  deriving DecidableEq, Repr

/-- A weight plane (R423): its B format, K, the packed elements and the scale codes of each of the
128 columns, and the group that owns it (R267). -/
structure Plane where
  fmt    : BFmt
  k      : Nat
  cols   : Vector (BitVec 2048) 128
  scales : Vector (BitVec 64) 128
  owner  : Option Nat
  deriving DecidableEq, Repr

/-- A loom request (R161, R419): its instruction and the operation that counts it, the quarter of a
partition-8 request, the operands read at issue (a vector register, the generation, a scalar, the slot
of a counted entry, random draws), the registers and the scratch of its group as they stood at the OFENCE before it and
at its issue (R239, R240), its place in the grant order, the pass that took it and whether that has streamed its rows
(R431), the elements whose peer has not answered (R58), and the values that it writes when it finishes. -/
structure LoomReq where
  id      : Nat
  op      : Nat
  wid     : Nat
  gid     : Nat
  core    : Nat
  wslot   : BitVec 5
  seq     : Nat
  instr   : Instr
  quarter : Option (BitVec 2)
  vreg    : Nat
  vsrc    : Nat
  gen     : BitVec 32
  scalar  : Word64
  slot    : Option (BitVec 8)
  scratch : List Host.Cell
  fencedMem : List Host.Cell
  draws   : List (Vector Word32 32)
  fenced  : RegFile
  issued  : RegFile
  prio    : BitVec 2
  age     : Nat
  aged    : Bool
  granted : Bool
  pass    : Nat
  streamed : Bool
  remote  : List Elem
  vout    : List (Vector Word32 32)
  kout    : List Word64
  result  : Word64
  deriving DecidableEq, Repr

/-- The loom of a cluster (R161, R423). -/
structure Loom where
  active : Plane
  shadow : Plane
  gen    : BitVec 32
  reqs   : List LoomReq
  deriving DecidableEq, Repr

/-- The kinds of copy (R417). -/
inductive CopyKind where
  | inn | out | mcast (mask : BitVec 48)
  deriving DecidableEq, Repr

/-- The translation that the next unit of a running copy holds (R210): where the unit lies, or the
outcome of its checks. -/
inductive UnitXlat where
  | none
  | at (sweep : Nat) (locs : List Loc)
  | hole (sweep : Nat)
  | bad (sweep : Nat) (cause : BitVec 8)
  deriving DecidableEq, Repr

/-- A copy of a cluster's shuttle (R188 to R192): `src` is its entry as it stood at issue, `origin` the cluster that
issued it, `kept` says that a save has put its position into the entry's resume counters (R191), `used` names the entries
that it has counted a hit for (R213), `sent` is a unit that a peer has not answered, with the sweep count of its
translation (R210), and `before` holds bytes of scratch that it has written, by group and offset, with their value before
that (R185). -/
structure Copy where
  id      : Nat
  wid     : Nat
  gid     : Nat
  bid     : Nat
  cluster : Nat
  origin  : Nat
  seq     : Nat
  name    : TileName
  kind    : CopyKind
  src     : Tile
  tr      : Bool
  filling : Bool
  slot    : Option (BitVec 8)
  running : Bool
  paused  : Bool
  next    : Nat
  total   : Nat
  resume  : Option Nat
  oldHoles : BitVec 256
  holes   : BitVec 256
  stopped : Bool
  sent    : Option (Nat × Nat)
  lines   : List Nat
  xlat    : UnitXlat
  used    : List TlbKey
  kept    : Bool
  before  : List (Nat × Nat × BitVec 8)
  deriving DecidableEq, Repr

/-! ## Groups, bolts and launches -/

/-- A named barrier of a group (R167, R170): which warps' arrivals have reached its counter, and whether a warp has
arrived at the current generation, as it does when it issues BARV (R168). -/
structure NamedBar where
  gen     : BitVec 32
  mask    : Lanes
  next    : Option Lanes
  arrived : Lanes
  begun   : Bool
  deriving DecidableEq, Repr

/-- A group's own copy of named barrier n's mask for the bolt or beam level, which of its warps' arrivals have reached
that level, and whether one of its warps has arrived at the current generation (R444). -/
structure LevelBar where
  mask    : Lanes
  next    : Option Lanes
  arrived : Lanes
  begun   : Bool
  deriving DecidableEq, Repr

/-- A bolt barrier (R167, R170): the groups that have arrived, and whether a warp has arrived at the current generation. -/
structure BoltBar where
  gen     : BitVec 32
  mask    : BitVec 16
  next    : Option (BitVec 16)
  arrived : BitVec 16
  begun   : Bool
  deriving DecidableEq, Repr

/-- A FETCHW that the distributor has not answered (R133, R134). -/
structure Fetch where
  id   : Nat
  name : TileName
  slot : BitVec 8
  deriving DecidableEq, Repr

/-- A grid coordinate (R116). -/
structure Coord where
  x : BitVec 32
  y : BitVec 32
  z : BitVec 32
  deriving DecidableEq, Repr

/-- A resident or saved group, or one that was killed and waits for its relaunch (R135): `nums` are
the private numbers of its warps, and `relaunch` counts its relaunches (R136). -/
structure Group where
  gid      : Nat
  bid      : Nat
  lid      : Nat
  idx      : BitVec 4
  core     : Nat
  warps    : Nat
  scratch  : List Host.Cell
  tiles    : Vector Tile 64
  accs     : List AccTile
  named    : Vector NamedBar 16
  boltLvl  : Vector LevelBar 8
  beamLvl  : Vector LevelBar 8
  fetches  : List Fetch
  answered : List Coord
  replay   : List Coord
  arrivedBolt : Bool
  killed   : Bool
  nums     : List (BitVec 16)
  relaunch : Nat
  deriving DecidableEq, Repr

/-- How far the pre-emption of a bolt has come (R261 to R263, R269): it is resident; a save request names
it; it is in step 2 of its save; or it is saved, in the slots of its groups.  `byHost` says that a
request of system software saves it, and the last part that the bolt may be restored again.
[DEDUCED, log 48] -/
inductive SaveState where
  | resident
  | named
  | draining (byHost : Bool)
  | saved (slots : List (Nat × Nat)) (byHost released : Bool)
  deriving DecidableEq, Repr

/-- A bolt that has been placed and has not retired; `again` says that it waits to be placed again
as a whole, and `gone` holds the groups of an idem launch that have exited, for that case (R135). -/
structure Bolt where
  bid      : Nat
  lid      : Nat
  index    : BitVec 96
  coord    : Coord
  die      : Die
  groups   : Nat
  bars     : Vector BoltBar 8
  flushed  : Nat
  acquired : Bool
  finished : Bool
  save     : SaveState
  relaunch : Nat
  again    : Bool
  gone     : List Group
  order    : Nat
  deriving DecidableEq, Repr

/-- The launch descriptor, as the command processor keeps it (R105). -/
structure Desc where
  code     : Word64
  entry    : BitVec 32
  trace    : Bool
  vdom     : BitVec 4
  attr     : BitVec 4
  grid     : Coord
  warps    : BitVec 5
  groups   : BitVec 4
  acc      : BitVec 6
  preg     : BitVec 5
  sreg     : BitVec 7
  vreg     : BitVec 6
  scratch  : BitVec 12
  priv     : BitVec 32
  privBase : Word64
  vwr      : Bool
  vhi      : BitVec 6
  vlo      : BitVec 6
  vply     : BitVec 8
  affinity : BitVec 8
  heat     : BitVec 8
  prio     : BitVec 2
  dents    : BitVec 7
  args     : Word64
  deriving DecidableEq, Repr

/-- A launch that is queued or running (R104, R107, R117). -/
structure Launch where
  lid      : Nat
  beam     : Beam
  ctx      : CtxN
  part     : PartN
  desc     : Desc
  ext      : Nat × Nat × Nat
  tag      : Option (BitVec 8)
  slots    : Bool
  next     : Nat
  retired  : Nat
  ripe     : Bool
  starving : Bool
  woke     : Option Die
  chosen   : List Nat
  faulted  : Bool
  stopped  : Bool
  age      : Nat
  deriving DecidableEq, Repr

/-! ## Register blocks -/

/-- The states of a version domain (R220), with the flag word of an open one. -/
inductive DomState where
  | closed
  | open (flag : Word64)
  | closing (flag : Word64)
  deriving DecidableEq, Repr

/-- The registers of a partition: PARTp, PMEMp, HEATBp, VGENp, L2WBp, TRAPVp, TFBASEp, PREEMPTp,
PSAVEp and GKILLp, its version domains, its sweep count, and which save slots are in use
(R79, R80, R214, R217, R215, R258, R269, R270, R272, R220). -/
structure PartRegs where
  en        : Bool
  size      : BitVec 2
  port      : BitVec 1
  pmBase    : BitVec 10
  pmSize    : BitVec 11
  heatEn    : Bool
  heatBase  : BitVec 36
  vgen      : BitVec 16
  l2Busy    : Bool
  l2Size    : BitVec 24
  l2Base    : BitVec 36
  trapEn    : Bool
  trapVa    : BitVec 49
  tfBase    : BitVec 41
  preBusy   : Bool
  preScope  : BitVec 2
  preOp     : BitVec 2
  preCore   : BitVec 11
  preSlot   : BitVec 5
  preCtx    : BitVec 4
  preDone   : BitVec 16
  saveCount : BitVec 12
  saveBase  : BitVec 30
  killCount : BitVec 16
  killCause : BitVec 8
  killCtx   : BitVec 4
  killCore  : BitVec 11
  killSlot  : BitVec 5
  doms      : Vector DomState 16
  sweeps    : Nat
  used      : List Nat
  pending   : List Nat
  deriving DecidableEq, Repr

/-- The contents of a dent or of a send-queue entry (R25, R33, R35, R41). -/
inductive DentKind where
  | write (block : Nat) (mask : BitVec 256) (data : BitVec 2048)
  | atomic (block : Nat) (off : Nat) (o : AOp) (t : ATy) (b c : Word64) (op : Nat) (elem : Nat)
  | clear (p : PartN) (base size : Nat)
  | join (lid : Nat) (die : Die)
  | leave (lid : Nat) (die : Die)
  | arrive (lid : Nat) (n : BitVec 3) (die : Die) (gen : BitVec 32) (wids : List Nat)
  deriving DecidableEq, Repr

/-- A send-queue entry: its launch, the warp that sent it, its content, and whether its dent has
passed and is not applied yet (R32, R33). -/
structure QEntry where
  id   : Nat
  lid  : Nat
  wid  : Nat
  kind : DentKind
  sent : Bool
  deriving DecidableEq, Repr

/-- A dent that has passed (R25, R32): its number, its slot tag, the ply it came from and its content. -/
structure Dent where
  dsn  : Nat
  tag  : BitVec 8
  die  : Die
  kind : DentKind
  id   : Nat
  bad  : Bool
  deriving DecidableEq, Repr

/-- The states of a ply (R16, R23). -/
inductive PlyState where
  | run | doze | sleep | trans (nxt : BitVec 2)
  deriving DecidableEq, Repr

/-- How far the reed listener of a waking ply has come (R45). -/
inductive Wake where
  | none
  | locking
  | replay
  | copying
  deriving DecidableEq, Repr

/-- Counters of a die (R304), and the high halves that reads have latched. -/
structure Perf where
  freeze : Bool
  vals   : Vector Word64 9
  latch  : Vector (Option (BitVec 32)) 9
  deriving DecidableEq, Repr

/-- A core's trace segment (R299, R300): its queue of unwritten records, the bytes written since
tracing was enabled, the records lost, and those lost since the last LOSS record. -/
structure TraceCore where
  core  : Nat
  queue : List (List (BitVec 8))
  wptr  : Nat
  lost  : Nat
  since : Nat
  deriving DecidableEq, Repr

/-- The trace registers of a die (R301) and its cores' segments. -/
structure Trace where
  en     : Bool
  stop   : Bool
  swaps  : Bool
  waits  : Bool
  issues : Bool
  seg    : BitVec 8
  base   : BitVec 36
  lost   : BitVec 32
  cores  : List TraceCore
  deriving DecidableEq, Repr

/-- The registers of a ply and what it holds (R23, R24, R145, R51, R32, R33). -/
structure Ply where
  throttle : Bool
  pend     : BitVec 2
  state    : PlyState
  heat     : BitVec 8
  autoDoze : BitVec 8
  req      : BitVec 2
  starve   : BitVec 8
  swapThr  : BitVec 8
  applied  : Nat
  listen   : Bool
  wake     : Wake
  queue    : List QEntry
  mirror   : List Host.Cell
  mirrorBad : List Nat
  perf     : Perf
  trace    : Trace
  slowed   : Nat
  deriving DecidableEq, Repr

/-- A dent slot register (R49). -/
structure ReedSlot where
  assigned : Bool
  part     : BitVec 3
  owned    : Bool
  ply      : BitVec 2
  ltag     : BitVec 8
  lid      : Nat
  deriving DecidableEq, Repr

/-- A reed region register (R50), and whether its partition has been cleared (R39). -/
structure ReedRegion where
  size    : BitVec 11
  base    : BitVec 10
  cleared : Bool
  deriving DecidableEq, Repr

/-- The counts of one beam barrier of a launch (R41). -/
structure BeamBar where
  lid     : Nat
  n       : BitVec 3
  joined  : BitVec 8
  arrived : BitVec 8
  gen     : BitVec 32
  deriving DecidableEq, Repr

/-- The reed of a beam (R25 to R51). -/
structure Reed where
  calOk   : Bool
  head    : Nat
  slots   : Vector ReedSlot 64
  regions : Vector ReedRegion 8
  passed  : List Dent
  log     : List Dent
  slotCtr : BitVec 6
  bars    : List BeamBar
  deriving DecidableEq, Repr

/-- A window or export register (R70, R71). -/
structure LinkWin where
  en    : Bool
  peer  : BitVec 10
  ports : BitVec 16
  size  : BitVec 11
  base  : BitVec 22
  deriving DecidableEq, Repr

/-- A collective that has begun (R60 to R67): its descriptor, whether the engine has started it, the
contributions that it holds, the chunks that it has completed with their contributor masks, how many of
those are partial, and its result and code where it was rejected or has faulted. -/
structure Coll where
  id       : Nat
  ctx      : CtxN
  part     : PartN
  off      : BitVec 20
  desc     : List (BitVec 8)
  started  : Bool
  peers    : List (BitVec 10)
  got      : List Contribution
  done     : List (Nat × BitVec 256)
  partials : Nat
  fate     : Option (BitVec 2 × BitVec 32)
  deriving DecidableEq, Repr

/-- The links of a base die (R52 to R72); `ended` keeps the collectives that are over, whose late contributions are
counted (R65). -/
structure Links where
  rwin    : Vector LinkWin 32
  reexp   : Vector LinkWin 32
  linkId  : BitVec 10
  late    : BitVec 16
  timeout : BitVec 32
  colls   : List Coll
  ended   : List Coll
  deriving DecidableEq, Repr

/-- The states of a stream (R98). -/
inductive StreamState where
  | idle | running | waiting | halted
  deriving DecidableEq, Repr

/-- An open IF or LOOP of a stream (R108): a LOOP keeps the offset of its body and the rounds that
remain. -/
inductive Nest where
  | cond (elseSeen : Bool)
  | loop (body : BitVec 20) (left : BitVec 32)
  deriving DecidableEq, Repr

/-- How far a COMMIT or ABORT has come (R221): it waits for the domain's launches, for the sweep of the
flip, for the refresh, or for the last sweep, with the result that it will write. -/
inductive DomPhase where
  | launches
  | flip (sweep : Nat)
  | refresh (result : BitVec 2)
  | last (sweep : Nat) (result : BitVec 2)
  deriving DecidableEq, Repr

/-- What a command that has begun and not completed waits for (R102); a COMMIT that may flip its domain keeps the
address of the flag word (R221). -/
inductive CmdWait where
  | launch (lid : Nat)
  | coll (id : Nat)
  | sweep (id : Nat)
  | waitv (va operand : Word64) (w64 : Bool) (cond : BitVec 3)
  | domain (v : BitVec 4) (out : Option Word64) (commit : Bool) (flag : Option Word64) (phase : DomPhase)
  deriving DecidableEq, Repr

/-- A command in progress: its identifier, its ring offset, the partition in which it began (R96, R111), and what it
waits for. -/
structure Cmd where
  id   : Nat
  off  : BitVec 20
  part : PartN
  wait : CmdWait
  deriving DecidableEq, Repr

/-- A context of a command processor (R94 to R98, R101, R108): `skip` is the depth of the commands that
the stream skips over. -/
structure Context where
  en      : Bool
  part    : BitVec 3
  ringBase : BitVec 45
  ringSize : BitVec 4
  vec     : BitVec 6
  asid    : BitVec 12
  root    : BitVec 40
  pgqBase : BitVec 45
  pgqSize : BitVec 4
  tail    : BitVec 20
  head    : BitVec 20
  halted  : Bool
  pgqf    : Bool
  err     : BitVec 8
  errOff  : BitVec 20
  nest    : List Nest
  skip    : Option Nat
  cmds    : List Cmd
  faulted : Bool
  deriving DecidableEq, Repr

/-- A beam: its command processor, reed and links. -/
structure BeamRegs where
  ctxs   : Vector Context 16
  halted : Bool
  reed   : Reed
  links  : Links
  deriving DecidableEq, Repr

/-- The registers of a host port (R73, R84, R90 to R92). -/
structure PortRegs where
  linkUp  : Bool
  mchk    : BitVec 5
  hostErr : BitVec 32
  fwPage  : BitVec 11
  attBusy : Bool
  attDone : BitVec 8
  attReq  : BitVec 8
  nonce   : BitVec 256
  capture : List (BitVec 8)
  quote   : List (BitVec 8)
  bar4    : Nat
  deriving DecidableEq, Repr

/-- The firmware image as step 1 of the last start read it from flash (R86, R89): whether both dies accept it, its
digest and its security version. -/
structure Image where
  ok     : Bool
  digest : BitVec 512
  svn    : BitVec 16
  deriving DecidableEq, Repr

/-- The device registers of a start, and what survives it (R85 to R90). -/
structure Device where
  ready     : Bool
  authFail  : Bool
  calReused : Bool
  vtestRan  : Bool
  kind      : BitVec 2
  svn       : BitVec 16
  plyFail   : BitVec 8
  forceCal  : Bool
  start     : BitVec 2
  starting  : Bool
  linkDown  : Bool
  power     : Bool
  retCal    : Bool
  retDigest : BitVec 512
  vaultEcc  : Bool
  vaultFix  : List (Nat × Nat)
  fwDigest  : BitVec 512
  fuseSvn   : BitVec 16
  img       : Image
  deriving DecidableEq, Repr

/-- What an access asks of a peer (R57): to load bytes, to store them, or an integer atomic with its operands,
whose old value it wants or not. -/
inductive RemoteReq where
  | load (n : Nat)
  | store (data : List (BitVec 8))
  | atomic (o : AOp) (t : ATy) (ret : Bool) (b c : Word64)
  deriving DecidableEq, Repr

/-- What the device sends out (R55, R56, R62, R83, R110, R304); a remote access leaves through a port, for a peer
and an address of its. -/
inductive Output where
  | msix (q : Port) (vec : BitVec 6)
  | readData (q : Port) (data : Word64)
  | bar4Data (q : Port) (data : List (BitVec 8))
  | remote (port : Nat) (peer : BitVec 10) (addr : Nat) (req : RemoteReq)
  | contribution (b : Beam) (dest : BitVec 10) (c : Contribution)
  | response (b : Beam) (accepted : Bool) (data : List (BitVec 8))
  deriving DecidableEq, Repr

/-- A word with an uncorrectable error or poison (R194): its location and the structure code of
R257, and the bytes of it that the operation `by_` has written. -/
structure Poison where
  loc    : Loc
  struct : BitVec 4
  by_    : Nat
  got    : BitVec 8
  deriving DecidableEq, Repr

/-- A register-file or accumulator word with an uncorrectable error (R194, R271): the warp or group,
what it is, and its index. -/
inductive RegPoison where
  | lane (wid : Nat) (r : BitVec 8) (l : BitVec 5)
  | scale (wid : Nat) (r : BitVec 8)
  | acc (gid : Nat) (t : Nat) (row : Nat) (col : Nat)
  deriving DecidableEq, Repr

/-- Whose turn it is in the model's own order of steps. [DESIGN CHOICE, log 6] -/
inductive Turn where
  | issue | events
  deriving DecidableEq, Repr

/-- A versioned page of a closed domain, by its partition and domain: its current frame and the other one, which are
kept identical (R220), their size, and the sweep count of the translation that named it. -/
structure Twin where
  part  : PartN
  dom   : BitVec 4
  base  : Nat
  other : Nat
  size  : Nat
  sweep : Nat
  deriving DecidableEq, Repr

/-- The homes of a 4 KiB granule that mappings have named (R179, R212): the first, whose copy stands in memory at the
physical address, the others, each with a copy of its own, and the granule as it stood when its first home was named. -/
structure Homes where
  page   : Nat
  first  : Die
  others : List Die
  was    : List Host.Cell
  deriving DecidableEq, Repr

/-- What a die counts of its lines (R304): requests to home slices on the die and on others, walks, and lines of
HBM4E. -/
structure Traffic where
  near  : Word64
  far   : Word64
  walks : Word64
  hbm   : Word64
  deriving DecidableEq, Repr

/-- What stands at the home slices beside the words themselves: frames that are kept identical, granules with more than
one home, and the counters of each die's lines. -/
structure Slices where
  twins   : List Twin
  homes   : List Homes
  traffic : Vector Traffic 8
  deriving DecidableEq, Repr

/-- Everything of the machine. -/
structure State where
  w        : Warp
  rest     : List Warp
  issue    : Issue
  groups   : List Group
  bolts    : List Bolt
  launches : List Launch
  ops      : List Op
  l1       : List L1Word
  slices   : Slices
  held     : List HEntry
  tlb      : List TlbEntry
  sweeps   : List Sweep
  tlbinvs  : List TlbInv
  looms    : List (Nat × Loom)
  copies   : List Copy
  mem      : List Host.Cell
  vault    : List Host.Cell
  flash    : List Host.Cell
  poison   : List Poison
  regPoison : List RegPoison
  parts    : Vector PartRegs 8
  plies    : Vector Ply 8
  beams    : Vector BeamRegs 2
  ports    : Vector PortRegs 2
  dev      : Device
  clocks   : List (Nat × Nat × Word64)
  lastPos  : List (Nat × BitVec 3)
  time     : Nat
  out      : List Output
  turn     : Turn
  agenda   : List Instr
  round    : List Instr
  draws    : Nat
  serial   : Nat
  deriving DecidableEq, Repr

/-- Why a step stops the machine. [DESIGN CHOICE, log 6] -/
inductive Fault where
  /-- Raised by `step` alone: the agenda names an instruction word, which only a warp can issue
  (R151).  Safe: no hardware schedule is one. -/
  | agendaWord
  deriving DecidableEq, Repr

/-- Why an instruction has no meaning. -/
inductive Refusal where
  /-- Answered by an arm of `exec` whose instruction has no meaning yet.  Safe: nothing is claimed of
  it. -/
  | notModelled (mnemonic : String)
  deriving DecidableEq, Repr

/-! ## Reset

The state right after a completed cold start (R85, R86, R88): no partition exists, no warp is
resident, and memory lists nothing. -/

/-- The registers of a warp slot after a start: all zero, p0 true (R86, R125). -/
def Regs.zero : Regs where
  s  := Vector.replicate 64 0
  v  := Vector.replicate 256 (Vector.replicate 32 0)
  k  := Vector.replicate 256 0
  p  := (Vector.replicate 16 0).set 0 (BitVec.allOnes 32)
  ix := Vector.replicate 4 0

/-- The vector and scale registers. -/
def Regs.file (r : Regs) : RegFile := ⟨r.v, r.k⟩

/-- The control state of a warp at its start (R125). -/
def Control.start : Control := ⟨BitVec.allOnes 32, [], .t32, 0⟩

/-- Counters at zero (R125). -/
def Counters.zero : Counters := ⟨[], [], [], []⟩

/-- What a slot that holds no warp has in place of a launch's constants. -/
def LaunchEnv.none : LaunchEnv where
  beam := 0
  ctx := 0
  part := 0
  code := 0
  vregs := 0
  sregs := 0
  pregs := 0
  accs := 0
  scratch := 0
  priv := 0
  privBase := 0
  ordered := false
  idem := false
  persist := false
  versioned := false
  vdom := 0
  prio := 0
  vwr := false
  vlo := 0
  vhi := 0
  vply := 0
  dents := 0
  tag := 0
  trace := false

/-- A warp slot that holds no warp (R139); its registers are zero (R86). [DESIGN CHOICE, log 5] -/
def Warp.free : Warp where
  place := ⟨0, 0, 0, 0, 0, 0, 0, 0, 0, 0⟩
  env := LaunchEnv.none
  sched := ⟨.free, 0, 0, false, none⟩
  regs := Regs.zero
  ctl := Control.start
  region := ⟨0, 0, 0, Control.start⟩
  pc := 0
  widx := 0
  handler := false
  rmask := 0
  mwAddr := 0
  mwOld := 0
  hscr0 := 0
  hscr1 := 0
  cnt := Counters.zero
  aside := Counters.zero
  faults := []
  trap := none
  busy := .none
  packet := none
  issued := 0
  lclock := 0
  atomSeq := 0
  storeSeq := 0
  epoch := 0
  flushing := false
  covering := false
  arrivals := []
  waitRec := 0
  exited := false
  fenced := Regs.zero.file
  fencedMem := []
  fenceSeq := 0
  watched := []

/-- No issue group. -/
def Issue.none : Issue := ⟨0, 0, 0, 0, [], Option.none, 0, Option.none⟩

/-- The registers of a partition after a start (R88): zero, every domain closed. -/
def PartRegs.reset : PartRegs where
  en := false
  size := 0
  port := 0
  pmBase := 0
  pmSize := 0
  heatEn := false
  heatBase := 0
  vgen := 0
  l2Busy := false
  l2Size := 0
  l2Base := 0
  trapEn := false
  trapVa := 0
  tfBase := 0
  preBusy := false
  preScope := 0
  preOp := 0
  preCore := 0
  preSlot := 0
  preCtx := 0
  preDone := 0
  saveCount := 0
  saveBase := 0
  killCount := 0
  killCause := 0
  killCtx := 0
  killCore := 0
  killSlot := 0
  doms := Vector.replicate 16 .closed
  sweeps := 0
  used := []
  pending := []

/-- Counters of a die after a start (R304). -/
def Perf.reset : Perf := ⟨false, Vector.replicate 9 0, Vector.replicate 9 none⟩

/-- The trace registers of a die after a start (R301). -/
def Trace.reset : Trace := ⟨false, false, false, false, false, 0, 0, 0, []⟩

/-- A ply after a start: in run, its listener on, mirror zero, queue empty (R23, R24, R39, R51,
R86, R145). [DESIGN CHOICE, log 4] -/
def Ply.reset : Ply where
  throttle := false
  pend := 0
  state := .run
  heat := 0
  autoDoze := 0
  req := 0
  starve := 4
  swapThr := 4
  applied := 0
  listen := true
  wake := .none
  queue := []
  mirror := []
  mirrorBad := []
  perf := Perf.reset
  trace := Trace.reset
  slowed := 0

/-- The reed of a beam after a start that has run its calibration (R39, R47 to R50, R86).
[DESIGN CHOICE, log 2] -/
def Reed.reset : Reed where
  calOk := true
  head := 0
  slots := Vector.replicate 64 ⟨false, 0, false, 0, 0, 0⟩
  regions := Vector.replicate 8 ⟨0, 0, false⟩
  passed := []
  log := []
  slotCtr := 0
  bars := []

/-- The links of a base die after a start (R70 to R72). -/
def Links.reset : Links where
  rwin := Vector.replicate 32 ⟨false, 0, 0, 0, 0⟩
  reexp := Vector.replicate 32 ⟨false, 0, 0, 0, 0⟩
  linkId := 0
  late := 0
  timeout := 0x64
  colls := []
  ended := []

/-- A context after a start (R95 to R98). -/
def Context.reset : Context where
  en := false
  part := 0
  ringBase := 0
  ringSize := 0
  vec := 0
  asid := 0
  root := 0
  pgqBase := 0
  pgqSize := 0
  tail := 0
  head := 0
  halted := false
  pgqf := false
  err := 0
  errOff := 0
  nest := []
  skip := none
  cmds := []
  faulted := false

/-- A beam after a start. -/
def BeamRegs.reset : BeamRegs := ⟨Vector.replicate 16 Context.reset, false, Reed.reset, Links.reset⟩

/-- A host port after a start (R84, R90 to R92, R83). [DESIGN CHOICE, log 3] -/
def PortRegs.reset : PortRegs where
  linkUp := true
  mchk := 0
  hostErr := 0
  fwPage := 0
  attBusy := false
  attDone := 0
  attReq := 0
  nonce := 0
  capture := []
  quote := []
  bar4 := 1

/-- The device after a completed cold start (R86, R88). [DESIGN CHOICE, log 2] -/
def Device.reset : Device where
  ready := true
  authFail := false
  calReused := false
  vtestRan := true
  kind := 1
  svn := 0
  plyFail := 0
  forceCal := false
  start := 0
  starting := false
  linkDown := false
  power := true
  retCal := true
  retDigest := 0
  vaultEcc := false
  vaultFix := []
  fwDigest := 0
  fuseSvn := 0
  img := ⟨true, 0, 0⟩

/-- The machine right after a completed cold start. [DESIGN CHOICE, log 5] -/
def State.reset : State where
  w := Warp.free
  rest := []
  issue := Issue.none
  groups := []
  bolts := []
  launches := []
  ops := []
  l1 := []
  slices := ⟨[], [], Vector.replicate 8 ⟨0, 0, 0, 0⟩⟩
  held := []
  tlb := []
  sweeps := []
  tlbinvs := []
  looms := []
  copies := []
  mem := []
  vault := []
  flash := []
  poison := []
  regPoison := []
  parts := Vector.replicate 8 PartRegs.reset
  plies := Vector.replicate 8 Ply.reset
  beams := Vector.replicate 2 BeamRegs.reset
  ports := Vector.replicate 2 PortRegs.reset
  dev := Device.reset
  clocks := []
  lastPos := []
  time := 0
  out := []
  turn := .issue
  agenda := []
  round := []
  draws := 0
  serial := 1

end Sys2Proof.Machine
end

