-- ==== Sys2Proof/Machine/Memory.lean ====
section
/-! DEFINITION. Byte memories in one canonical form, wider accesses in little-endian order (R3), and
the bytes and poison of a location (R194, R224). -/

namespace Sys2Proof.Machine

/-- What a byte that nothing has written reads as: zero (a DESIGN CHOICE, unsafe for memory that a
cold start leaves unpredictable, log 1). [DESIGN CHOICE, log 1] -/
def Memory.absent : Byte := 0

/-- The byte at an address. -/
def cellGet : List Host.Cell → Nat → Byte
  | [], _ => Memory.absent
  | c :: cs, a => if c.1 = a then c.2 else cellGet cs a

/-- Memory with one byte written; the canonical form is kept. -/
def cellSet : List Host.Cell → Nat → Byte → List Host.Cell
  | [], a, b => if b = Memory.absent then [] else [(a, b)]
  | c :: cs, a, b =>
    if c.1 < a then c :: cellSet cs a b
    else if c.1 = a then (if b = Memory.absent then cs else (a, b) :: cs)
    else if b = Memory.absent then c :: cs
    else (a, b) :: c :: cs

/-- Whether a memory's first address is above a bound. -/
def Memory.above (a : Nat) : List Host.Cell → Bool
  | [] => true
  | c :: _ => decide (a < c.1)

/-- The canonical form: addresses strictly rising, and no entry equal to what an unlisted address
reads as. -/
def Memory.wf : List Host.Cell → Bool
  | [] => true
  | c :: cs => c.2 != Memory.absent && Memory.above c.1 cs && Memory.wf cs

/-- `n` bytes from an address. -/
def cellBytes (m : List Host.Cell) (a : Nat) : Nat → List Byte
  | 0 => []
  | n + 1 => cellGet m a :: cellBytes m (a + 1) n

/-- Memory with bytes written from an address. -/
def cellPut (m : List Host.Cell) (a : Nat) : List Byte → List Host.Cell
  | [] => m
  | b :: bs => cellPut (cellSet m a b) (a + 1) bs

/-- The value of bytes in little-endian order (R3). -/
def leVal : List Byte → Nat
  | [] => 0
  | b :: bs => b.toNat + 256 * leVal bs

/-- The `n` low bytes of a value in little-endian order (R3). -/
def leBytes : Nat → Nat → List Byte
  | 0, _ => []
  | n + 1, v => BitVec.ofNat 8 v :: leBytes n (v / 256)

/-- A word of `n` bytes in little-endian order (R3). -/
def cellWord (m : List Host.Cell) (a n : Nat) : Nat := leVal (cellBytes m a n)

/-- Memory with a word of `n` bytes written (R3). -/
def cellPutWord (m : List Host.Cell) (a n v : Nat) : List Host.Cell := cellPut m a (leBytes n v)

/-- Memory with the bytes of a range as nothing has written them. -/
def cellClear (m : List Host.Cell) (a n : Nat) : List Host.Cell :=
  m.filter fun c => decide (c.1 < a) || decide (a + n ≤ c.1)

/-- Memory with a range copied over another of the same length. -/
def cellCopy (m : List Host.Cell) (src dst n : Nat) : List Host.Cell :=
  (m.filter fun c => decide (src ≤ c.1) && decide (c.1 < src + n)).foldl
    (fun m' c => cellSet m' (c.1 - src + dst) c.2) (cellClear m dst n)

/-- The bytes of a range that a memory lists, moved to another address. -/
def cellSlice (m : List Host.Cell) (src n dst : Nat) : List Host.Cell :=
  (m.filter fun c => decide (src ≤ c.1) && decide (c.1 < src + n)).map fun c =>
    (c.1 - src + dst, c.2)

/-- Memory with listed bytes written over a cleared range. -/
def cellLoad (m : List Host.Cell) (dst n : Nat) (cs : List Host.Cell) : List Host.Cell :=
  cs.foldl (fun m' c => cellSet m' c.1 c.2) (cellClear m dst n)

end Sys2Proof.Machine
end

