-- ==== Sys2Proof/Machine/Access.lean ====
section
/-! DEFINITION. The one place of each piece of state: finding and changing warps, groups, bolts,
launches and the register blocks of partitions, plies, beams and contexts (R12). -/

namespace Sys2Proof.Machine

/-! ## Indices (R12) -/

/-- The die of a device core. -/
def coreDie (core : Nat) : Die := Fin.ofNat 8 (core / 192)
/-- The cluster of a device core, counted over the device. -/
def coreCluster (core : Nat) : Nat := core / 4
/-- The die of a cluster. -/
def clusterDie (cl : Nat) : Die := Fin.ofNat 8 (cl / 48)
/-- The beam of a die. -/
def dieBeam (d : Die) : Beam := if d.val < 4 then 0 else 1

/-! ## Sorting -/

/-- Insert an element into a sorted list, after those that are not above it. -/
def insertBy {α : Type} (le : α → α → Bool) (x : α) : List α → List α
  | [] => [x]
  | y :: ys => if le y x then y :: insertBy le x ys else x :: y :: ys

/-- A list in the order of a relation; equal elements keep their order. -/
def sortBy {α : Type} (le : α → α → Bool) (xs : List α) : List α :=
  xs.foldl (fun ys x => insertBy le x ys) []

namespace State

/-! ## The warp at issue -/

/-- The warp whose registers the words of the issue group read: the warp as it stood before the
group issued (R151). [DEDUCED, log 11] -/
def rd (s : State) : Warp := s.issue.snap.getD s.w

/-- Change the warp at issue. -/
def modW (s : State) (f : Warp → Warp) : State := { s with w := f s.w }

/-! ## Warps, groups, bolts, launches -/

/-- Every warp that holds a slot. -/
def warps (s : State) : List Warp := (s.w :: s.rest).filter fun w => w.place.wid != 0

/-- A warp by its identifier. -/
def warp? (s : State) (wid : Nat) : Option Warp := s.warps.find? fun w => w.place.wid == wid

/-- Change a warp. -/
def modWarp (s : State) (wid : Nat) (f : Warp → Warp) : State :=
  { s with
    w := if s.w.place.wid = wid ∧ wid ≠ 0 then f s.w else s.w
    rest := s.rest.map fun w => if w.place.wid = wid then f w else w }

/-- Change every warp that holds a slot. -/
def modWarps (s : State) (f : Warp → Warp) : State :=
  { s with w := if s.w.place.wid = 0 then s.w else f s.w, rest := s.rest.map f }

/-- Make a warp the warp at issue. -/
def focus (s : State) (wid : Nat) : State :=
  if s.w.place.wid = wid then s
  else
    match s.rest.find? fun w => w.place.wid == wid with
    | none => s
    | some w =>
      { s with
        w := w
        rest := (if s.w.place.wid = 0 then [] else [s.w]) ++
          s.rest.filter fun w' => w'.place.wid != wid }

/-- A group by its identifier. -/
def group? (s : State) (gid : Nat) : Option Group := s.groups.find? fun g => g.gid == gid

/-- Change a group. -/
def modGroup (s : State) (gid : Nat) (f : Group → Group) : State :=
  { s with groups := s.groups.map fun g => if g.gid = gid then f g else g }

/-- A bolt by its identifier. -/
def bolt? (s : State) (bid : Nat) : Option Bolt := s.bolts.find? fun b => b.bid == bid

/-- Change a bolt. -/
def modBolt (s : State) (bid : Nat) (f : Bolt → Bolt) : State :=
  { s with bolts := s.bolts.map fun b => if b.bid = bid then f b else b }

/-- A launch by its identifier. -/
def launch? (s : State) (lid : Nat) : Option Launch := s.launches.find? fun l => l.lid == lid

/-- Change a launch. -/
def modLaunch (s : State) (lid : Nat) (f : Launch → Launch) : State :=
  { s with launches := s.launches.map fun l => if l.lid = lid then f l else l }

/-- The warps of a group. -/
def groupWarps (s : State) (gid : Nat) : List Warp := s.warps.filter fun w => w.place.gid == gid

/-- The warps of a bolt. -/
def boltWarps (s : State) (bid : Nat) : List Warp := s.warps.filter fun w => w.place.bid == bid

/-- The groups of a bolt. -/
def boltGroups (s : State) (bid : Nat) : List Group := s.groups.filter fun g => g.bid == bid

/-! ## Register blocks -/

/-- The registers of a partition. -/
def part (s : State) (p : PartN) : PartRegs := s.parts[p]

/-- Change the registers of a partition. -/
def modPart (s : State) (p : PartN) (f : PartRegs → PartRegs) : State :=
  { s with parts := s.parts.set p (f s.parts[p]) }

/-- A ply. -/
def ply (s : State) (d : Die) : Ply := s.plies[d]

/-- Change a ply. -/
def modPly (s : State) (d : Die) (f : Ply → Ply) : State :=
  { s with plies := s.plies.set d (f s.plies[d]) }

/-- A beam. -/
def beam (s : State) (b : Beam) : BeamRegs := s.beams[b]

/-- Change a beam. -/
def modBeam (s : State) (b : Beam) (f : BeamRegs → BeamRegs) : State :=
  { s with beams := s.beams.set b (f s.beams[b]) }

/-- Change the reed of a beam. -/
def modReed (s : State) (b : Beam) (f : Reed → Reed) : State :=
  s.modBeam b fun r => { r with reed := f r.reed }

/-- Change the links of a beam. -/
def modLinks (s : State) (b : Beam) (f : Links → Links) : State :=
  s.modBeam b fun r => { r with links := f r.links }

/-- A context. -/
def ctx (s : State) (b : Beam) (c : CtxN) : Context := (s.beam b).ctxs[c]

/-- Change a context. -/
def modCtx (s : State) (b : Beam) (c : CtxN) (f : Context → Context) : State :=
  s.modBeam b fun r => { r with ctxs := r.ctxs.set c (f r.ctxs[c]) }

/-- A host port. -/
def port (s : State) (q : Port) : PortRegs := s.ports[q]

/-- Change a host port. -/
def modPort (s : State) (q : Port) (f : PortRegs → PortRegs) : State :=
  { s with ports := s.ports.set q (f s.ports[q]) }

/-! ## The model's own counters -/

/-- A fresh identifier. [DESIGN CHOICE, log 7] -/
def fresh (s : State) : Nat × State := (s.serial, { s with serial := s.serial + 1 })

/-- The index of the next free value. [DESIGN CHOICE, log 7] -/
def draw (s : State) : Nat × State := (s.draws, { s with draws := s.draws + 1 })

/-- Record an output of the device. -/
def emit (s : State) (o : Output) : State := { s with out := s.out ++ [o] }

end State

/-! ## Partitions (R78 to R80) -/

/-- The number of plies of a partition. -/
def PartRegs.plies (r : PartRegs) : Nat := 2 ^ r.size.toNat

/-- Whether a die lies in partition `p`. -/
def State.dieIn (s : State) (p : PartN) (d : Die) : Bool :=
  (s.part p).en && decide (p.val ≤ d.val) && decide (d.val < p.val + (s.part p).plies)

/-- The first byte of a partition's physical memory. -/
def PartRegs.pmLo (r : PartRegs) : Nat := r.pmBase.toNat * 2 ^ 30
/-- The first byte past a partition's physical memory. -/
def PartRegs.pmHi (r : PartRegs) : Nat := (r.pmBase.toNat + r.pmSize.toNat) * 2 ^ 30

/-- Whether `n` bytes from a physical address lie in a partition's memory (R80). -/
def State.inPmem (s : State) (p : PartN) (pa n : Nat) : Bool :=
  decide ((s.part p).pmLo ≤ pa) && decide (pa + n ≤ (s.part p).pmHi) && decide (pa + n ≤ 2 ^ 40)

end Sys2Proof.Machine
end

