-- ==== Sys2Proof/Machine/Translate.lean ====
section
/-! DEFINITION. Translation of virtual addresses: page-table entries, the walk, cached entries and
their hit counts, the accessed, dirty and shadow-dirty updates, versioned frames and homes
(R197 to R204, R207, R208, R213, R217 to R219, R54, R55, R179). -/

namespace Sys2Proof.Machine

/-- Bits [hi:lo] of a 64-bit word, as a number. -/
def bitsOf (w : Word64) (hi lo : Nat) : Nat := w.toNat / 2 ^ lo % 2 ^ (hi - lo + 1)

/-- One bit of a 64-bit word. -/
def bitOf (w : Word64) (i : Nat) : Bool := w.getLsbD i

/-! ## Page-table entries (R199, R200) -/

/-- The two words of a page-table entry. -/
structure Pte where
  w0 : Word64
  w1 : Word64
  deriving DecidableEq, Repr

namespace Pte

/-- The entry is valid. -/
def v (e : Pte) : Bool := bitOf e.w0 63
/-- The entry maps a page. -/
def leaf (e : Pte) : Bool := bitOf e.w0 62
/-- The page is resident. -/
def res (e : Pte) : Bool := bitOf e.w0 61
/-- Stores and atomics are permitted. -/
def wr (e : Pte) : Bool := bitOf e.w0 60
/-- Instruction fetch is permitted. -/
def ex (e : Pte) : Bool := bitOf e.w0 59
/-- Accessed. -/
def a (e : Pte) : Bool := bitOf e.w0 58
/-- Dirty. -/
def d (e : Pte) : Bool := bitOf e.w0 57
/-- Die-local. -/
def plc (e : Pte) : Bool := bitOf e.w0 56
/-- Home die of a die-local page. -/
def pld (e : Pte) : Die := Fin.ofNat 8 (bitsOf e.w0 55 53)
/-- Versioned. -/
def ver (e : Pte) : Bool := bitOf e.w0 52
/-- Base of the page, or of frame 0. -/
def frame0 (e : Pte) : Nat := bitsOf e.w0 51 16 * 2 ^ 16
/-- Base of frame 1 of a versioned page. -/
def frame1 (e : Pte) : Nat := bitsOf e.w1 51 16 * 2 ^ 16
/-- Base of the next table. -/
def next (e : Pte) : Nat := bitsOf e.w0 51 9 * 2 ^ 9
/-- Version domain. -/
def vdom (e : Pte) : BitVec 4 := BitVec.ofNat 4 (bitsOf e.w1 63 60)
/-- Shadow dirty. -/
def sd (e : Pte) : Bool := bitOf e.w1 59

/-- The entry with A set, and D and SD as asked (R208, R219). -/
def mark (e : Pte) (d sd : Bool) : Pte :=
  ⟨e.w0 ||| (1 <<< 58) ||| (if d then 1 <<< 57 else 0), e.w1 ||| (if sd then 1 <<< 59 else 0)⟩

end Pte

/-- The lowest address bit that a level of the walk indexes: the page size of its leaf (R198). -/
def levelShift : Nat → Nat
  | 0 => 16
  | 1 => 21
  | 2 => 30
  | 3 => 39
  | _ => 48

/-- The number of entries of a table of a level (R198). -/
def levelSize : Nat → Nat
  | 0 => 32
  | _ => 512

/-- The entry in memory at an address (R198). -/
def State.pteAt (s : State) (addr : Nat) : Pte :=
  ⟨BitVec.ofNat 64 (cellWord s.mem addr 8), BitVec.ofNat 64 (cellWord s.mem (addr + 8) 8)⟩

/-- What an access is for (R202). -/
inductive Access where
  | load | store | fetch
  deriving DecidableEq, Repr

/-- The fate of a translation (R202): a physical address and its home, a page-protection fault, or
a non-resident page. -/
inductive XOut where
  | ok (pa : Nat) (home : Option Die)
  | protect
  | nonres
  deriving DecidableEq, Repr

/-- Whose tables translate an access: the context, its partition, the beam whose windows a remote
access uses, the die whose walkers walk, which an engine's access has none of, and the domain of a versioned launch
(R219).  The RWIN block that governs an access is that of the
beam of the requesting core's die, or the engine's own beam: R55 does not say which of the two does.
[DESIGN CHOICE, log 60] -/
structure XCtx where
  beam   : Beam
  ctx    : CtxN
  part   : PartN
  link   : Beam
  die    : Option Die
  shadow : Option (BitVec 4)
  deriving DecidableEq, Repr

/-- Whether a domain of a partition is open or closing (R220). -/
def State.domOpen (s : State) (p : PartN) (v : BitVec 4) : Bool :=
  (s.part p).doms[v.toNat]'(by have := v.isLt; omega) != .closed

/-- The home die of a physical address of a partition (R179). -/
def State.homeDie (s : State) (p : PartN) (pa : Nat) (plc : Bool) (pld : Die) : Die :=
  if plc then pld
  else
    let h := (List.range 13).foldl (fun h i => h ^^^ (pa / 2 ^ (12 + 3 * i) % 8)) 0
    Fin.ofNat 8 (p.val + h % (s.part p).plies)

/-- The home slice of a physical address on its home die (R179). -/
def homeSlice (pa : Nat) : Nat := Nat.xor (pa / 2 ^ 7 % 64) (pa / 2 ^ 13 % 64)

/-- The device index of a slice of a die (R12). -/
def sliceIndex (d : Die) (slice : Nat) : Nat := 64 * d.val + slice

/-- Where a local physical address is stored (R182): the device indices of its stack and pseudo-channel (R12), and the
location in the pseudo-channel, from PA[38:18] and PA[6:0]. -/
structure HbmPlace where
  stack   : Nat
  channel : Nat
  row     : Nat
  byte    : Nat
  deriving DecidableEq, Repr

/-- The place of a local physical address in HBM4E (R182). -/
def hbmPlace (pa : Nat) : HbmPlace :=
  let stack := 8 * (pa / 2 ^ 39) + Nat.xor (pa / 2 ^ 7 % 8) (pa / 2 ^ 18 % 8)
  { stack := stack
    channel := 256 * stack + Nat.xor (pa / 2 ^ 10 % 256) (pa / 2 ^ 21 % 256)
    row := pa / 2 ^ 18 % 2 ^ 21
    byte := pa % 2 ^ 7 }

/-! ## Line requests and walks (R181, R304, R305) -/

/-- Whether a word of an L1 shares a byte with a range. -/
def L1Word.meets (w : L1Word) (pa n : Nat) : Bool := n != 0 && decide (w.pa < pa + n) && decide (pa < w.pa + 4)

/-- Whether a word of an L1 is a private word that memory does not have yet: it stays dirty until it is written back
(R178). -/
def L1Word.ahead (w : L1Word) : Bool := w.dirty && w.priv.isSome

/-- No core owns the words that share a byte with a range any more (R227); a private word that memory does not have
stays dirty (R178). -/
def State.l1Revoke (s : State) (pa n : Nat) : State :=
  { s with
    l1 := s.l1.map fun w => if w.meets pa n && !w.ahead then { w with dirty := false, owned := false } else w }

/-- Change what a die counts of its lines, unless its counters are frozen (R304). -/
def State.traffic (s : State) (d : Die) (f : Traffic → Traffic) : State :=
  if (s.ply d).perf.freeze then s
  else { s with slices := { s.slices with traffic := s.slices.traffic.set d (f s.slices.traffic[d]) } }

/-- The slices of a die move lines of HBM4E, freely many (R304). -/
def State.hbmLines (s : State) (home : Die) : State :=
  s.traffic home fun t =>
    { t with hbm := t.hbm + (Config.countAdvance (s.time + 2 ^ 64 * t.hbm.toNat)).zeroExtend 64 }

/-- Requests for `n` lines go to home slices of a die (R181, R305): the requesting die counts them, where one does, and
the home die counts the lines of HBM4E that it moves for them, freely (R304). [DEDUCED, log 43] -/
def State.lineRequests (s : State) (d : Option Die) (home : Die) (n : Nat) : State :=
  let k : Word64 := BitVec.ofNat 64 n
  let s := d.elim s fun d => s.traffic d fun t =>
    if d = home then { t with near := t.near + k } else { t with far := t.far + k }
  s.hbmLines home

/-- A request for a line goes to a home slice of a die. -/
def State.lineRequest (s : State) (d : Option Die) (home : Die) : State := s.lineRequests d home 1

/-- A request that is made only where `asks` says so (R181). -/
def State.lineRequestIf (s : State) (asks : Bool) (d : Option Die) (home : Die) : State :=
  { s with slices := { s.slices with
      traffic := if asks then (s.lineRequest d home).slices.traffic else s.slices.traffic } }

/-! ## Homes of a granule (R212, R215, R216) -/

/-- Where the copy of another home of a physical address lies in the model's memory: out of the reach of every physical
address. [DESIGN CHOICE, log 62] -/
def homeCopy (d : Die) : Nat := 2 ^ 53 * (d.val + 1)

/-- Where a granule's bytes are kept as they stood when its mappings diverged. -/
def homeOrigin : Nat := 2 ^ 53 * 9

/-- The copy of a granule at a home begins (R212): a byte that has not changed since the first home was named is what it
was when the mappings diverged, and any other is free. [DEDUCED, log 62] -/
def State.openHome (s : State) (x : Homes) (d : Die) : State :=
  let at_ := x.page * 4096
  let (i, s) := s.draw
  let now := cellSlice s.mem at_ 4096 0
  let changed := ((x.was ++ now).map Prod.fst).filter fun o => cellGet x.was o != cellGet now o
  let m := if x.others.isEmpty then cellCopy s.mem at_ (at_ + homeOrigin) 4096 else s.mem
  { s with
    mem := changed.foldl (fun m o => cellSet m (at_ + homeCopy d + o) (Config.homeByte i o))
      (cellCopy m at_ (at_ + homeCopy d) 4096) }

/-- The location of a physical address at the home that a mapping names (R212): the first home that a mapping of its
granule has named has it at its own address; another home has a copy. [DEDUCED, log 62] -/
def State.atHome (s : State) (pa : Nat) (home : Option Die) : Nat × State :=
  match home with
  | none => (pa, s)
  | some d =>
    let page := pa / 4096
    let set := fun (s : State) (x : Homes) =>
      { s with slices := { s.slices with homes := x :: s.slices.homes.filter fun y => y.page != page } }
    match s.slices.homes.find? fun x => x.page == page with
    | none => (pa, set s ⟨page, d, [], cellSlice s.mem (page * 4096) 4096 0⟩)
    | some x =>
      if x.first = d then (pa, s)
      else if x.others.contains d then (pa + homeCopy d, s)
      else (pa + homeCopy d, set (s.openHome x d) { x with others := x.others ++ [d] })

/-- Whether an access, a held entry or a copy in flight has its location in a copy of a granule at another home. -/
def State.homeUsed (s : State) (x : Homes) : Bool :=
  let there := fun a : Nat => decide (2 ^ 53 ≤ a) && a % 2 ^ 53 / 4096 == x.page
  let at_ := fun l : Loc =>
    match l with
    | .phys a => there a
    | .scratch _ _ | .vault _ | .reed _ _ => false
  s.ops.any (fun o => o.elems.any fun e => e.state == .waiting && at_ e.loc) || s.held.any (fun e => there e.pa) ||
    s.copies.any fun c =>
      match c.xlat with
      | .at _ ls => ls.any at_
      | .none | .hole _ | .bad _ _ => false

/-- One line of a granule is written back from its homes (R215): a home that has changed it writes it, and of two that
have, either is last. -/
def State.mergeLine (s : State) (x : Homes) (i : Nat) : State :=
  let at_ := x.page * 4096 + 128 * i
  let old := cellBytes s.mem (at_ + homeOrigin) 128
  let new := ((0 :: x.others.map homeCopy).map fun o => cellBytes s.mem (at_ + o) 128).filter fun bs => bs != old
  let (k, s) := s.draw
  { s with mem := cellPut s.mem at_ ((new[Config.homePick k % new.length]?).getD old) }

/-- Every home of a granule has written back its lines and holds none of them (R215); while something in flight is on
its way to another home than the first, that home begins again from memory. -/
def State.mergeHomes (s : State) (x : Homes) : State :=
  let s := if x.others.isEmpty then s else (List.range 32).foldl (fun s i => s.mergeLine x i) s
  let at_ := x.page * 4096
  let copies := homeOrigin :: x.others.map homeCopy
  if s.homeUsed x then { s with mem := copies.foldl (fun m o => cellCopy m at_ (at_ + o) 4096) s.mem }
  else
    { s with
      mem := copies.foldl (fun m o => cellClear m (at_ + o) 4096) s.mem
      slices := { s.slices with homes := s.slices.homes.filter fun y => y.page != x.page } }

/-! ## Versioned pages of a closed domain (R220) -/

/-- A store has been translated through a versioned page of a closed domain: its frames are kept identical. -/
def State.noteTwin (s : State) (x : Twin) : State :=
  if s.slices.twins.contains x then s else { s with slices := { s.slices with twins := x :: s.slices.twins } }

/-- Frames that a test names are no longer kept identical. -/
def State.dropTwins (s : State) (p : Twin → Bool) : State :=
  { s with slices := { s.slices with twins := s.slices.twins.filter fun x => !p x } }

/-- Bytes written to a frame of a versioned page of a closed domain are written to its other frame too (R220). -/
def State.mirror (s : State) (pa : Nat) (bs : List Byte) : State :=
  (s.slices.twins.filter fun x => decide (x.base ≤ pa) && decide (pa < x.base + x.size)).foldl
    (fun s x => { s with mem := cellPut s.mem (x.other + (pa - x.base)) bs }) s

/-- The register of the window that holds a remote address (R54); the windows of a beam's base die govern the
accesses of its cores and engines. -/
def State.window (s : State) (b : Beam) (pa : Nat) : LinkWin :=
  (s.beam b).links.rwin[pa / 2 ^ 46 % 32]'(Nat.mod_lt _ (by omega))

/-- Whether an access to the remote aperture finds its window (R54, R55): the window of the beam is
enabled, names a port, and holds the offset. -/
def State.windowOk (s : State) (b : Beam) (pa : Nat) : Bool :=
  let r := s.window b pa
  let len : Nat := r.size.toNat * 2 ^ 30
  r.en && r.ports != 0 && decide (pa % 2 ^ 46 < len)

/-- Whether a physical address lies in the remote aperture (R54). -/
def isRemote (pa : Nat) : Bool := pa / 2 ^ 51 % 2 == 1

/-- The port of a remote access (R55): one of the set bits of PORTS, by the address of its 4 KiB granule. -/
def remotePort (ports : BitVec 16) (pa : Nat) : Nat :=
  let set := (List.range 16).filter ports.getLsbD
  set.getD (Nat.xor (pa / 2 ^ 12 % 256) (pa / 2 ^ 20 % 256) % set.length) 0

/-- Send an access to the peer that its window names (R55), through the window as it stands; where that has been
closed since the translation, nothing is sent. -/
def State.sendRemote (s : State) (b : Beam) (pa : Nat) (req : RemoteReq) : State :=
  let r := s.window b pa
  if s.windowOk b pa then
    s.emit (.remote (remotePort r.ports pa) r.peer (r.base.toNat * 2 ^ 30 + pa % 2 ^ 46) req)
  else s

/-- The pieces of a range, none across a 4 KiB granule: its first byte, its place in the range and its length. -/
def granules (pa n : Nat) : List (Nat × Nat × Nat) :=
  (List.range ((pa % 4096 + n + 4095) / 4096)).map fun i =>
    let lo := if i = 0 then pa else (pa / 4096 + i) * 4096
    (lo, lo - pa, min ((pa / 4096 + i + 1) * 4096) (pa + n) - lo)

/-- Send bytes to a peer. -/
def State.sendStore (s : State) (b : Beam) (pa : Nat) (bs : List Byte) : State :=
  (granules pa bs.length).foldl (fun s g => s.sendRemote b g.1 (.store ((bs.drop g.2.1).take g.2.2))) s

/-- Whether a peer accepts an access (R56): that is the peer's. -/
def State.accepted (s : State) : Bool × State :=
  let (i, s) := s.draw
  (!Config.remoteRejected i, s)

/-- Ask a peer for bytes, and get them unless it rejects the access (R56, R57): they are the peer's. -/
def State.askRemote (s : State) (b : Beam) (pa n : Nat) : Option (List Byte) × State :=
  let s := (granules pa n).foldl (fun s g => s.sendRemote b g.1 (.load g.2.2)) s
  match s.accepted with
  | (false, s) => (none, s)
  | (true, s) =>
    let r := (List.range n).foldl (fun (r : List Byte × State) _ =>
      let (i, s) := r.2.draw
      ((Config.remoteData i).setWidth 8 :: r.1, s)) ([], s)
    (some r.1.reverse, r.2)

/-- Ask a peer for bytes that an access takes at once: where it does not get them, whether the peer has given no answer
(R59) or has rejected the access (R56). [DEDUCED, log 60] -/
def State.askPeer (s : State) (b : Beam) (pa n : Nat) : Except Bool (List Byte) × State :=
  match s.askRemote b pa n with
  | (some bs, s) => (.ok bs, s)
  | (none, s) =>
    let (i, s) := s.draw
    (.error (Config.remoteSilent i), s)

/-- Whether a frame may be named by a leaf of a level: aligned to the page, and in the partition's
memory or the remote aperture (R80, R180, R201). -/
def State.frameOk (s : State) (p : PartN) (level frame : Nat) : Bool :=
  frame % 2 ^ levelShift level == 0 &&
    (isRemote frame || s.inPmem p frame (2 ^ 16))

/-- The checks of R201 on a valid leaf of levels 0 to 2. -/
def State.leafOk (s : State) (p : PartN) (level : Nat) (e : Pte) : Bool :=
  bitsOf e.w0 15 0 == 0 && s.frameOk p level e.frame0 &&
    (if e.ver then
      bitsOf e.w1 58 52 == 0 && bitsOf e.w1 15 0 == 0 && s.frameOk p level e.frame1 &&
        !isRemote e.frame0 && !isRemote e.frame1
    else e.w1 == 0) &&
    (!e.plc || isRemote e.frame0 || s.dieIn p e.pld)

/-- The checks of R201 on a valid entry that points to a table of the next level. -/
def tableOk (level : Nat) (e : Pte) : Bool :=
  bitsOf e.w0 61 52 == 0 && bitsOf e.w0 8 0 == 0 && e.w1 == 0 &&
    (level == 1 || e.next % 2 ^ 13 == 0)

/-! ## Heat (R213) -/

/-- Add the hit count of an entry that leaves a TLB to the heat table (R213). -/
def State.heatAdd (s : State) (e : TlbEntry) : State :=
  let r := s.part e.part
  let a := r.heatBase.toNat * 2 ^ 16 + 4 * ((e.frame - r.pmLo) / 2 ^ 16)
  if e.hits == 0 || !r.heatEn || isRemote e.frame || !s.inPmem e.part a 4 then s
  else
    { s with
      mem := cellPutWord s.mem a 4 (min (cellWord s.mem a 4 + e.hits.toNat) 0xFFFFFFFF) }

/-- What names a cached entry. -/
def TlbEntry.key (e : TlbEntry) : TlbKey := ⟨e.part, e.asid, e.level, e.vpn⟩

/-- Remove the cached entries that a test names, adding their hit counts to the heat table; what uses their successors
counts a hit again (R213). -/
def State.tlbDrop (s : State) (p : TlbEntry → Bool) : State :=
  let out := s.tlb.filter p
  let left := fun ks : List TlbKey => ks.filter fun k => !out.any fun e => e.key == k
  let s' := (out.foldl State.heatAdd s).modWarps fun w => { w with watched := left w.watched }
  { s' with
    tlb := s.tlb.filter fun e => !p e
    copies := s'.copies.map fun c => { c with used := left c.used } }

/-! ## The walk (R198, R201, R207) -/

/-- Whether a cached entry covers an address at a level. -/
def TlbEntry.covers (e : TlbEntry) (p : PartN) (asid : BitVec 12) (level va : Nat) : Bool :=
  e.part == p && e.asid == asid && e.level == level && e.vpn == va / 2 ^ levelShift level

/-- Whether two cached entries are one entry, before and after its A, D and SD bits were set. -/
def TlbEntry.same (x y : TlbEntry) : Bool :=
  x.part == y.part && x.asid == y.asid && x.level == y.level && x.vpn == y.vpn &&
    (x.w0 ||| (3 <<< 57)) == (y.w0 ||| (3 <<< 57)) && (x.w1 ||| (1 <<< 59)) == (y.w1 ||| (1 <<< 59))

/-- Count one hit for each entry that an instruction used, however many of its elements used it
(R213). -/
def State.oneHit (s : State) (before : List TlbEntry) : State :=
  { s with
    tlb := s.tlb.map fun e =>
      let old := ((before.find? (TlbEntry.same e)).elim 0 TlbEntry.hits).toNat
      { e with hits := BitVec.ofNat 8 (min e.hits.toNat (min 255 (old + 1))) } }

/-- Count one hit for the leaf that covers an address of a warp, unless it is among those that have been counted; the entry
that is counted (R213). -/
def State.hitOnce (s : State) (w : Warp) (used : List TlbKey) (va : Nat) : Option TlbKey × State :=
  let asid := (s.ctx w.env.beam w.env.ctx).asid
  match s.tlb.find? fun e => bitOf e.w0 62 && e.covers w.env.part asid e.level va with
  | none => (none, s)
  | some e =>
    if used.contains e.key then (none, s)
    else
      (some e.key, { s with
        tlb := s.tlb.map fun f =>
          if f = e then { f with hits := if f.hits = 255 then 255 else f.hits + 1 } else f })

/-- The entry that a translation uses at a level: the entry in memory, or one of the cached entries
that differ from it, chosen freely (R207). [DEDUCED, log 36] -/
def State.pickPte (s : State) (p : PartN) (asid : BitVec 12) (level va addr : Nat) (cache : Bool) :
    Pte × State :=
  let m := s.pteAt addr
  let old := (s.tlb.filter fun e =>
    cache && e.covers p asid level va && !(e.w0 == m.w0 && e.w1 == m.w1)).map fun e =>
      (⟨e.w0, e.w1⟩ : Pte)
  match old with
  | [] => (m, s)
  | _ =>
    let (i, s) := s.draw
    ((m :: old).getD (Config.tlbPick i % (old.length + 1)) m, s)

/-- Cache an entry that a translation has used; a leaf counts a hit where `hit` says so (R207,
R213). -/
def State.tlbUse (s : State) (p : PartN) (asid : BitVec 12) (level va : Nat) (old new : Pte)
    (frame : Nat) (hit : Bool) : State :=
  let same := fun e : TlbEntry =>
    e.covers p asid level va && e.w0 == old.w0 && e.w1 == old.w1
  let bump := fun h : BitVec 8 => if hit && h != 255 then h + 1 else h
  if s.tlb.any same then
    { s with
      tlb := s.tlb.map fun e =>
        if same e then { e with w0 := new.w0, w1 := new.w1, frame := frame, hits := bump e.hits }
        else e }
  else
    { s with
      tlb := ⟨p, asid, level, va / 2 ^ levelShift level, new.w0, new.w1, frame, bump 0⟩ :: s.tlb }

/-- Where a walk ends. -/
inductive WalkEnd where
  | fault
  | leaf (level addr : Nat) (e : Pte)
  deriving DecidableEq, Repr

/-- Whether a TLB holds an entry as a translation finds it. -/
def State.cached (s : State) (p : PartN) (asid : BitVec 12) (level va : Nat) (e : Pte) : Bool :=
  s.tlb.any fun x => x.covers p asid level va && x.w0 == e.w0 && x.w1 == e.w1

/-- Walk the tables from a table of the first of the levels (R198, R201); an entry that no TLB holds is a request for
its line (R181), which a walk of memory makes for every entry (R208), and the walker's read revokes its ownership
(R227). -/
def State.walk (s : State) (die : Option Die) (p : PartN) (asid : BitVec 12) (va : Nat) (cache : Bool) :
    List Nat → Nat → WalkEnd × State
  | [], _ => (.fault, s)
  | l :: ls, base =>
    let addr := base + 16 * (va / 2 ^ levelShift l % levelSize l)
    if !s.inPmem p addr 16 then (.fault, s)
    else
      let (e, s) := s.pickPte p asid l va addr cache
      let s := if cache && s.cached p asid l va e then s
        else (s.lineRequest die (s.homeDie p addr false 0)).l1Revoke addr 16
      if !e.v then (.fault, s)
      else if e.leaf then
        if l ≤ 2 && s.leafOk p l e then (.leaf l addr e, s) else (.fault, s)
      else if l == 0 || !tableOk l e then (.fault, s)
      else (s.tlbUse p asid l va e e 0 false).walk die p asid va cache ls e.next

/-- The walk of a context from its root (R198). -/
def State.walkFrom (s : State) (c : XCtx) (va : Nat) (cache : Bool) : WalkEnd × State :=
  let k := s.ctx c.beam c.ctx
  if k.root.getLsbD 0 then (.fault, s)
  else s.walk c.die c.part k.asid va cache [4, 3, 2, 1, 0] (k.root.toNat * 2 ^ 12)

/-- The die of an access counts a walk, unless a TLB holds the leaf that it ends at and may be used (R304). -/
def State.countWalk (s : State) (c : XCtx) (va : Nat) (x : WalkEnd) (cache : Bool) : State :=
  let asid := (s.ctx c.beam c.ctx).asid
  let known := match x with
    | .fault => false
    | .leaf l _ e => cache && s.cached c.part asid l va e
  match c.die with
  | none => s
  | some d => if known then s else s.traffic d fun t => { t with walks := t.walks + 1 }

/-- Whether an access uses the shadow frame of a versioned page (R219). -/
def State.shadowUse (s : State) (c : XCtx) (e : Pte) : Bool :=
  e.ver && c.shadow == some e.vdom && s.domOpen c.part e.vdom

/-- The frame that an access reaches (R218, R219). -/
def State.frameOf (s : State) (c : XCtx) (e : Pte) : Nat :=
  if !e.ver then e.frame0
  else
    let g := (s.part c.part).vgen.getLsbD e.vdom.toNat
    if xor g (s.shadowUse c e) then e.frame1 else e.frame0

/-- An entry is written at its home slice with bits set, for a walker (R181, R208, R227). -/
def State.markPte (s : State) (c : XCtx) (addr : Nat) (m : Pte) : State :=
  let mem := cellPutWord (cellPutWord s.mem addr 8 m.w0.toNat) (addr + 8) 8 m.w1.toNat
  ({ s with mem := mem }.lineRequest c.die (s.homeDie c.part addr false 0)).l1Revoke addr 16

/-- The location of an address of a frame at the home that a leaf names for it (R179, R212); the remote aperture has
none. -/
def State.leafAt (s : State) (p : PartN) (e : Pte) (pa : Nat) : Nat × State :=
  s.atHome pa (if isRemote pa then none else some (s.homeDie p pa e.plc e.pld))

/-- Use a leaf that a walk has found (R202, R208, R213, R219), whose A, D and SD bits are set at their home slice; the
window of a remote access is checked after that (R55, R201).  No answer asks for a walk of memory
again, because the entry in memory is not the one that was used (R208). -/
def State.useLeaf (s : State) (c : XCtx) (acc : Access) (va level addr : Nat) (e : Pte)
    (hit : Bool) : Option (XOut × State) :=
  let sh := s.shadowUse c e
  let f := s.frameOf c e
  if acc == .store && !e.wr then some (.protect, s)
  else if acc == .fetch && !e.ex then some (.protect, s)
  else if acc == .store && e.ver && s.domOpen c.part e.vdom && !sh then some (.protect, s)
  else if !e.res then some (.nonres, s)
  else
    let s := if acc == .store && e.ver && !s.domOpen c.part e.vdom then
        s.noteTwin ⟨c.part, e.vdom, f, if f == e.frame0 then e.frame1 else e.frame0, 2 ^ levelShift level,
          (s.part c.part).sweeps⟩
      else s
    let needD := acc == .store && !e.d
    let needSd := acc == .store && sh && !e.sd
    let m := s.pteAt addr
    let pa := f + va % 2 ^ levelShift level
    let out := if isRemote f then (if s.windowOk c.link pa then XOut.ok pa none else .protect)
      else .ok pa (some (s.homeDie c.part pa e.plc e.pld))
    let asid := (s.ctx c.beam c.ctx).asid
    if e.a && !needD && !needSd then
      some (out, s.tlbUse c.part asid level va e e f hit)
    else if m.v && m.res && m.frame0 == e.frame0 && (!(acc == .store) || m.wr) then
      let s := s.markPte c addr (m.mark (acc == .store) (needSd || m.sd))
      some (out, s.tlbUse c.part asid level va e (e.mark (acc == .store) (needSd || e.sd)) f hit)
    else none

/-- Translate a virtual address for an access (R202): `hit` counts a hit of the entry, which an
instruction counts once for each entry that it uses (R213). -/
def State.translate (s : State) (c : XCtx) (acc : Access) (va : Word64) (hit : Bool) :
    XOut × State :=
  if bitsOf va 63 57 != 0 then (.protect, s)
  else
    match s.walkFrom c va.toNat true with
    | (.fault, s) => (.protect, s.countWalk c va.toNat .fault true)
    | (.leaf l addr e, s) =>
      let s := s.countWalk c va.toNat (.leaf l addr e) true
      match s.useLeaf c acc va.toNat l addr e hit with
      | some r => r
      | none =>
        match s.walkFrom c va.toNat false with
        | (.fault, s) => (.protect, s.countWalk c va.toNat .fault false)
        | (.leaf l addr e, s) =>
          let s := s.countWalk c va.toNat (.leaf l addr e) false
          (s.useLeaf c acc va.toNat l addr e hit).getD (.protect, s)

end Sys2Proof.Machine
end

