-- ==== Sys2Proof/Machine/Operands.lean ====
section
/-! DEFINITION. The operand forms: registers and register-indirect operands (R312), guards (R313),
the operands that the register-bounds checks name (R314), element addresses (R389), the checks of
R173, and register images of memory types (R390). -/

namespace Sys2Proof.Machine

/-! ## Registers (R312) -/

namespace Warp

/-- A scalar register: s0 reads zero. -/
def sget (w : Warp) (r : SReg) : Word64 := if r = 0 then 0 else w.regs.s[r.toNat]

/-- Write a scalar register: a write to s0 is discarded. -/
def sset (w : Warp) (r : SReg) (v : Word64) : Warp :=
  if r = 0 then w else { w with regs := { w.regs with s := w.regs.s.set r.toNat v } }

/-- A predicate: p0 reads true in every lane. -/
def pget (w : Warp) (r : PReg) : Lanes := if r = 0 then BitVec.allOnes 32 else w.regs.p[r.toNat]

/-- Write lanes of a predicate: a write to p0 is discarded, and other lanes keep their values. -/
def pset (w : Warp) (r : PReg) (lanes v : Lanes) : Warp :=
  if r = 0 then w
  else
    { w with
      regs := { w.regs with
        p := w.regs.p.set r.toNat ((w.regs.p[r.toNat] &&& ~~~lanes) ||| (v &&& lanes)) } }

/-- The effective index of a vector or scale operand: BASE, or ixW + BASE without wrapping. -/
def vidx (w : Warp) (x : Ext) (o : VOp) : Nat :=
  if o.rel then w.regs.ix[x.win.toNat].toNat + o.base.toNat else o.base.toNat

/-- A vector register by its index. -/
def vget (w : Warp) (i : Nat) : Vector Word32 32 := w.regs.v[i]?.getD (Vector.replicate 32 0)

/-- One lane of a vector register. -/
def lane (w : Warp) (i : Nat) (l : Nat) : Word32 := (w.vget i)[l]?.getD 0

/-- Write lanes of a vector register: lanes outside the set keep all their bits (R361). -/
def vset (w : Warp) (i : Nat) (lanes : Lanes) (f : Nat → Word32) : Warp :=
  { w with
    regs := { w.regs with
      v := w.regs.v.setIfInBounds i
        (Vector.ofFn fun l => if lanes.getLsbD l.val then f l.val else w.lane i l.val) } }

/-- Write one lane of a vector register. -/
def vset1 (w : Warp) (i l : Nat) (v : Word32) : Warp :=
  { w with
    regs := { w.regs with v := w.regs.v.setIfInBounds i ((w.vget i).setIfInBounds l v) } }

/-- A scale register by its index. -/
def kget (w : Warp) (i : Nat) : Word64 := w.regs.k[i]?.getD 0

/-- Write a scale register. -/
def kset (w : Warp) (i : Nat) (v : Word64) : Warp :=
  { w with regs := { w.regs with k := w.regs.k.setIfInBounds i v } }

/-- An index register. -/
def ixget (w : Warp) (r : IxReg) : BitVec 16 := w.regs.ix[r.toNat]

/-- Write an index register. -/
def ixset (w : Warp) (r : IxReg) (v : BitVec 16) : Warp :=
  { w with regs := { w.regs with ix := w.regs.ix.set r.toNat v } }

/-- The lane set that a guard names among the lanes of a mask (R313). -/
def guardIn (w : Warp) (x : Ext) (am : Lanes) : Lanes :=
  (if x.gn then ~~~(w.pget x.gp) else w.pget x.gp) &&& am

/-- The guard of a word: its lane set within the active mask (R313). -/
def guard (w : Warp) (x : Ext) : Lanes := w.guardIn x w.ctl.am

/-- Whether a predicate holds as a condition: in some lane of the active mask (R331). -/
def holds (w : Warp) (r : PReg) : Bool := w.pget r &&& w.ctl.am != 0

end Warp

/-- Replace byte `i` of a word. -/
def setByte (w : Word64) (i : Nat) (b : Byte) : Word64 :=
  (w &&& ~~~((0xFF : Word64) <<< (8 * i))) ||| ((b.zeroExtend 64) <<< (8 * i))

/-! ## Counts of multi-register operands -/

/-- The source registers of VPACK (R374, R377). -/
def packRegs : NTy → Nat
  | .f16 | .bf16 | .i16 => 2
  | .e2m1 => 8
  | .f32 | .e4m3 | .e5m2 | .e2m3 | .e3m2 | .i8 | .i32 | .u32 | .i64 | .ts8 => 4

/-- The destination registers of VUNPACK (R374, R378). -/
def unpackRegs : NTy → Nat
  | .f16 | .bf16 | .i16 => 2
  | .e2m1 => 8
  | .f32 | .e4m3 | .e5m2 | .e2m3 | .e3m2 | .i8 | .i32 | .u32 | .i64 | .ts8 => 4

/-- The blocks of an MX register image (R363). -/
def mxBlocks : MxF → Nat
  | .e2m1 => 8
  | .e4m3 | .e5m2 | .e2m3 | .e3m2 => 4

/-- The registers per A row of a stream request (R422). -/
def rowRegs : AFmt → Nat
  | .bf16 | .f16 => 2
  | .e4m3 | .e5m2 | .e2m3 | .e3m2 | .e2m1 => 1

/-- The destination registers of RQ and RQS in the accumulator form (R439). -/
def rqRegs : MxF → Nat
  | .e2m1 => 4
  | .e4m3 | .e5m2 | .e2m3 | .e3m2 => 8

/-- A register operand that R314 checks: a scalar or predicate register, or consecutive vector or
scale registers or accumulator tiles from an index. -/
inductive RegUse where
  | s (r : Nat)
  | p (r : Nat)
  | v (i n : Nat)
  | acc (i n : Nat)
  deriving DecidableEq, Repr

/-- The index that breaks R314, if one does: the lowest index of the operand at or beyond its
limit. -/
def RegUse.bad (e : LaunchEnv) : RegUse → Option Nat
  | .s r => if e.sregs ≤ r then some r else none
  | .p r => if e.pregs ≤ r then some r else none
  | .v i n =>
    let m := min e.vregs 256
    if n = 0 ∨ i + n ≤ m then none else some (max i m)
  | .acc i n => if n = 0 ∨ i + n ≤ e.accs then none else some (max i e.accs)

/-- The register operands of an instruction word, in the order D, A, B, C of its format and then
its guard (R314); the multi-register operands are those that the instruction chapters state. -/
def usesOf (w : Warp) : Instr → List RegUse
  | .sadd x _ d a b => [.s d.toNat, .s a.toNat, .s b.toNat, .p x.gp.toNat]
  | .ssub x _ d a b => [.s d.toNat, .s a.toNat, .s b.toNat, .p x.gp.toNat]
  | .smul x _ d a b => [.s d.toNat, .s a.toNat, .s b.toNat, .p x.gp.toNat]
  | .smulh x _ d a b => [.s d.toNat, .s a.toNat, .s b.toNat, .p x.gp.toNat]
  | .sdiv x _ d a b => [.s d.toNat, .s a.toNat, .s b.toNat, .p x.gp.toNat]
  | .srem x _ d a b => [.s d.toNat, .s a.toNat, .s b.toNat, .p x.gp.toNat]
  | .sand x _ d a b => [.s d.toNat, .s a.toNat, .s b.toNat, .p x.gp.toNat]
  | .sor x _ d a b => [.s d.toNat, .s a.toNat, .s b.toNat, .p x.gp.toNat]
  | .sxor x _ d a b => [.s d.toNat, .s a.toNat, .s b.toNat, .p x.gp.toNat]
  | .sshl x _ d a b => [.s d.toNat, .s a.toNat, .s b.toNat, .p x.gp.toNat]
  | .sshr x _ d a b => [.s d.toNat, .s a.toNat, .s b.toNat, .p x.gp.toNat]
  | .ssra x _ d a b => [.s d.toNat, .s a.toNat, .s b.toNat, .p x.gp.toNat]
  | .smin x _ d a b => [.s d.toNat, .s a.toNat, .s b.toNat, .p x.gp.toNat]
  | .smax x _ d a b => [.s d.toNat, .s a.toNat, .s b.toNat, .p x.gp.toNat]
  | .smad x _ d a b e => [.s d.toNat, .s a.toNat, .s b.toNat, .s e.toNat, .p x.gp.toNat]
  | .smov x _ d a => [.s d.toNat, .s a.toNat, .p x.gp.toNat]
  | .smovToIx x _ a => [.s a.toNat, .p x.gp.toNat]
  | .smovFromIx x d _ => [.s d.toNat, .p x.gp.toNat]
  | .scmp x _ _ d a b => [.p d.toNat, .s a.toNat, .s b.toNat, .p x.gp.toNat]
  | .ssel x n d a b => [.p n.toNat, .s d.toNat, .s a.toNat, .s b.toNat, .p x.gp.toNat]
  | .spopc x d a => [.s d.toNat, .s a.toNat, .p x.gp.toNat]
  | .sclz x d a => [.s d.toNat, .s a.toNat, .p x.gp.toNat]
  | .scvt x _ _ d a _ => [.s d.toNat, .s a.toNat, .p x.gp.toNat]
  | .saddi x d a _ => [.s d.toNat, .s a.toNat, .p x.gp.toNat]
  | .sli x d _ => [.s d.toNat, .p x.gp.toNat]
  | .slih x d _ => [.s d.toNat, .p x.gp.toNat]
  | .sbfx x d a _ _ _ => [.s d.toNat, .s a.toNat, .p x.gp.toNat]
  | .sbfi x d a _ _ => [.s d.toNat, .s a.toNat, .p x.gp.toNat]
  | .pand x d a b => [.p d.toNat, .p a.toNat, .p b.toNat, .p x.gp.toNat]
  | .por x d a b => [.p d.toNat, .p a.toNat, .p b.toNat, .p x.gp.toNat]
  | .pxor x d a b => [.p d.toNat, .p a.toNat, .p b.toNat, .p x.gp.toNat]
  | .pnot x d a => [.p d.toNat, .p a.toNat, .p x.gp.toNat]
  | .pmov x d a => [.p d.toNat, .p a.toNat, .p x.gp.toNat]
  | .ppopc x d a => [.s d.toNat, .p a.toNat, .p x.gp.toNat]
  | .part x _ => [.p x.gp.toNat]
  | .vadd x _ d a b => [.v (w.vidx x d) 1, .v (w.vidx x a) 1, .v (w.vidx x b) 1, .p x.gp.toNat]
  | .vsub x _ d a b => [.v (w.vidx x d) 1, .v (w.vidx x a) 1, .v (w.vidx x b) 1, .p x.gp.toNat]
  | .vmul x _ d a b => [.v (w.vidx x d) 1, .v (w.vidx x a) 1, .v (w.vidx x b) 1, .p x.gp.toNat]
  | .vmulh x _ d a b => [.v (w.vidx x d) 1, .v (w.vidx x a) 1, .v (w.vidx x b) 1, .p x.gp.toNat]
  | .vmad x _ d a b e => [.v (w.vidx x d) 1, .v (w.vidx x a) 1, .v (w.vidx x b) 1, .v (w.vidx x e) 1, .p x.gp.toNat]
  | .vand x _ d a b => [.v (w.vidx x d) 1, .v (w.vidx x a) 1, .v (w.vidx x b) 1, .p x.gp.toNat]
  | .vor x _ d a b => [.v (w.vidx x d) 1, .v (w.vidx x a) 1, .v (w.vidx x b) 1, .p x.gp.toNat]
  | .vxor x _ d a b => [.v (w.vidx x d) 1, .v (w.vidx x a) 1, .v (w.vidx x b) 1, .p x.gp.toNat]
  | .vshl x _ d a b => [.v (w.vidx x d) 1, .v (w.vidx x a) 1, .v (w.vidx x b) 1, .p x.gp.toNat]
  | .vshr x _ d a b => [.v (w.vidx x d) 1, .v (w.vidx x a) 1, .v (w.vidx x b) 1, .p x.gp.toNat]
  | .vsra x _ d a b => [.v (w.vidx x d) 1, .v (w.vidx x a) 1, .v (w.vidx x b) 1, .p x.gp.toNat]
  | .vmin x _ d a b => [.v (w.vidx x d) 1, .v (w.vidx x a) 1, .v (w.vidx x b) 1, .p x.gp.toNat]
  | .vmax x _ d a b => [.v (w.vidx x d) 1, .v (w.vidx x a) 1, .v (w.vidx x b) 1, .p x.gp.toNat]
  | .vsel x d a b n => [.v (w.vidx x d) 1, .v (w.vidx x a) 1, .v (w.vidx x b) 1, .p n.toNat, .p x.gp.toNat]
  | .vmov x d a => [.v (w.vidx x d) 1, .v (w.vidx x a) 1, .p x.gp.toNat]
  | .vabs x _ d a => [.v (w.vidx x d) 1, .v (w.vidx x a) 1, .p x.gp.toNat]
  | .vpopc x _ d a => [.v (w.vidx x d) 1, .v (w.vidx x a) 1, .p x.gp.toNat]
  | .vclz x _ d a => [.v (w.vidx x d) 1, .v (w.vidx x a) 1, .p x.gp.toNat]
  | .viota x d => [.v (w.vidx x d) 1, .p x.gp.toNat]
  | .vbcast x d a => [.v (w.vidx x d) 1, .s a.toNat, .p x.gp.toNat]
  | .vextr x d a b => [.s d.toNat, .v (w.vidx x a) 1, .s b.toNat, .p x.gp.toNat]
  | .vcmp x _ _ d a b => [.p d.toNat, .v (w.vidx x a) 1, .v (w.vidx x b) 1, .p x.gp.toNat]
  | .vfadd x _ d a b => [.v (w.vidx x d) 1, .v (w.vidx x a) 1, .v (w.vidx x b) 1, .p x.gp.toNat]
  | .vfsub x _ d a b => [.v (w.vidx x d) 1, .v (w.vidx x a) 1, .v (w.vidx x b) 1, .p x.gp.toNat]
  | .vfmul x _ d a b => [.v (w.vidx x d) 1, .v (w.vidx x a) 1, .v (w.vidx x b) 1, .p x.gp.toNat]
  | .vfma x _ d a b e => [.v (w.vidx x d) 1, .v (w.vidx x a) 1, .v (w.vidx x b) 1, .v (w.vidx x e) 1, .p x.gp.toNat]
  | .vfms x _ d a b e => [.v (w.vidx x d) 1, .v (w.vidx x a) 1, .v (w.vidx x b) 1, .v (w.vidx x e) 1, .p x.gp.toNat]
  | .vfmin x _ d a b => [.v (w.vidx x d) 1, .v (w.vidx x a) 1, .v (w.vidx x b) 1, .p x.gp.toNat]
  | .vfmax x _ d a b => [.v (w.vidx x d) 1, .v (w.vidx x a) 1, .v (w.vidx x b) 1, .p x.gp.toNat]
  | .vfabs x _ d a => [.v (w.vidx x d) 1, .v (w.vidx x a) 1, .p x.gp.toNat]
  | .vfneg x _ d a => [.v (w.vidx x d) 1, .v (w.vidx x a) 1, .p x.gp.toNat]
  | .vfclass x _ d a => [.v (w.vidx x d) 1, .v (w.vidx x a) 1, .p x.gp.toNat]
  | .vfcmp x _ d a b => [.p d.toNat, .v (w.vidx x a) 1, .v (w.vidx x b) 1, .p x.gp.toNat]
  | .vcvt x _ _ d a _ => [.v (w.vidx x d) 1, .v (w.vidx x a) 1, .p x.gp.toNat]
  | .vpack x t _ d a _ => [.v (w.vidx x d) 1, .v (w.vidx x a) (packRegs t), .p x.gp.toNat]
  | .vunpack x _ s d a => [.v (w.vidx x d) (unpackRegs s), .v (w.vidx x a) 1, .p x.gp.toNat]
  | .kmov x d a => [.v (w.vidx x d) 1, .v (w.vidx x a) 1, .p x.gp.toNat]
  | .kset x d a => [.v (w.vidx x d) 1, .s a.toNat, .p x.gp.toNat]
  | .kget x d a => [.s d.toNat, .v (w.vidx x a) 1, .p x.gp.toNat]
  | .kamax x t d a => [.v (w.vidx x d) 1, .v (w.vidx x a) (mxBlocks t), .p x.gp.toNat]
  | .vshfl x d a b => [.v (w.vidx x d) 1, .v (w.vidx x a) 1, .v (w.vidx x b) 1, .p x.gp.toNat]
  | .vshflup x d a _ => [.v (w.vidx x d) 1, .v (w.vidx x a) 1, .p x.gp.toNat]
  | .vshfldn x d a _ => [.v (w.vidx x d) 1, .v (w.vidx x a) 1, .p x.gp.toNat]
  | .vshflx x d a _ => [.v (w.vidx x d) 1, .v (w.vidx x a) 1, .p x.gp.toNat]
  | .vvote x t d a => [if t == .ballot then .s d.toNat else .p d.toNat, .p a.toNat, .p x.gp.toNat]
  | .vred x _ d a _ => [.v (w.vidx x d) 1, .v (w.vidx x a) 1, .p x.gp.toNat]
  | .vscan x _ d a _ _ => [.v (w.vidx x d) 1, .v (w.vidx x a) 1, .p x.gp.toNat]
  | .vrand x d a => [.v (w.vidx x d) 4, .s a.toNat, .p x.gp.toNat]
  | .vbfx x d a _ _ _ => [.v (w.vidx x d) 1, .v (w.vidx x a) 1, .p x.gp.toNat]
  | .vrcp x d a => [.v (w.vidx x d) 1, .v (w.vidx x a) 1, .p x.gp.toNat]
  | .vrsq x d a => [.v (w.vidx x d) 1, .v (w.vidx x a) 1, .p x.gp.toNat]
  | .vsqrt x d a => [.v (w.vidx x d) 1, .v (w.vidx x a) 1, .p x.gp.toNat]
  | .vexp2 x d a => [.v (w.vidx x d) 1, .v (w.vidx x a) 1, .p x.gp.toNat]
  | .vlog2 x d a => [.v (w.vidx x d) 1, .v (w.vidx x a) 1, .p x.gp.toNat]
  | .vsin x d a => [.v (w.vidx x d) 1, .v (w.vidx x a) 1, .p x.gp.toNat]
  | .vcos x d a => [.v (w.vidx x d) 1, .v (w.vidx x a) 1, .p x.gp.toNat]
  | .vtanh x d a => [.v (w.vidx x d) 1, .v (w.vidx x a) 1, .p x.gp.toNat]
  | .ld x _ _ _ d a _ rp => [.s d.toNat, .s a.toNat, .p rp.toNat, .p x.gp.toNat]
  | .st x _ _ _ d a _ => [.s d.toNat, .s a.toNat, .p x.gp.toNat]
  | .vld x _ _ _ d a _ rp => [.v (w.vidx x d) 1, .s a.toNat, .p rp.toNat, .p x.gp.toNat]
  | .vst x _ _ _ d a _ => [.v (w.vidx x d) 1, .s a.toNat, .p x.gp.toNat]
  | .vldg x _ _ _ d i _ s rp => [.v (w.vidx x d) 1, .v (w.vidx x i) 1, .s s.toNat, .p rp.toNat, .p x.gp.toNat]
  | .vsts x _ _ _ d i _ s => [.v (w.vidx x d) 1, .v (w.vidx x i) 1, .s s.toNat, .p x.gp.toNat]
  | .vldmx x _ _ _ d a _ rp => [.v (w.vidx x d) 1, .s a.toNat, .p rp.toNat, .p x.gp.toNat]
  | .vstmx x _ _ _ d a _ => [.v (w.vidx x d) 1, .s a.toNat, .p x.gp.toNat]
  | .atom x _ _ _ _ _ d a _ e => [.s d.toNat, .s a.toNat, .s e.toNat, .p x.gp.toNat]
  | .vatom x o _ t _ _ d i s e => [.v (w.vidx x d) (if t == .i64 then 2 else 1), .v (w.vidx x i) 1, .s s.toNat, .v (w.vidx x e) (if o != .cas then 0 else if t == .i64 then 2 else 1), .p x.gp.toNat]
  | .fence x _ => [.p x.gp.toNat]
  | .wait x _ _ _ _ => [.p x.gp.toNat]
  | .mwatch x _ _ a _ => [.s a.toNat, .p x.gp.toNat]
  | .mwait x => [.p x.gp.toNat]
  | .pgreq x a b => [.s a.toNat, .s b.toNat, .p x.gp.toNat]
  | .pgpref x a _ => [.s a.toNat, .p x.gp.toNat]
  | .oflush x => [.p x.gp.toNat]
  | .itset x _ a => [.s a.toNat, .p x.gp.toNat]
  | .tdef x _ a b _ _ => [.s a.toNat, .s b.toNat, .p x.gp.toNat]
  | .tfree x _ => [.p x.gp.toNat]
  | .tstat x _ a => [.v (w.vidx x a) 1, .p x.gp.toNat]
  | .cpy x _ _ => [.p x.gp.toNat]
  | .cpyt x _ _ => [.p x.gp.toNat]
  | .cpym x _ a => [.s a.toNat, .p x.gp.toNat]
  | .ldw x _ _ => [.p x.gp.toNat]
  | .swpw x b => [.s b.toNat, .p x.gp.toNat]
  | .mmq x n a b f => [.acc n.toNat 4, .v (w.vidx x a) (32 * rowRegs f), .s b.toNat, .p x.gp.toNat]
  | .mmqTile x n _ b _ => [.acc n.toNat 4, .s b.toNat, .p x.gp.toNat]
  | .mmqt x n a b f => [.acc n.toNat 4, .v (w.vidx x a) (32 * rowRegs f), .s b.toNat, .p x.gp.toNat]
  | .mmqtTile x n _ b _ => [.acc n.toNat 4, .s b.toNat, .p x.gp.toNat]
  | .mclr x n => [.acc n.toNat 1, .p x.gp.toNat]
  | .mdrn x n a b => [.acc n.toNat 1, .v (w.vidx x a) 32, .s b.toNat, .p x.gp.toNat]
  | .mdrnt x n _ b => [.acc n.toNat 1, .s b.toNat, .p x.gp.toNat]
  | .msav x n a => [.acc n.toNat 1, .s a.toNat, .p x.gp.toNat]
  | .mrst x n a => [.acc n.toNat 1, .s a.toNat, .p x.gp.toNat]
  | .mstat x n b => [.acc n.toNat 1, .s b.toNat, .p x.gp.toNat]
  | .rq x n a f => [.acc n.toNat 1, .v (w.vidx x a) (rqRegs f), .p x.gp.toNat]
  | .rqVector x a b f => [.v (w.vidx x a) 1, .v (w.vidx x b) (mxBlocks f), .p x.gp.toNat]
  | .rqs x n a f e => [.acc n.toNat 1, .v (w.vidx x a) (rqRegs f), .s e.toNat, .p x.gp.toNat]
  | .rqsVector x a b f e => [.v (w.vidx x a) 1, .v (w.vidx x b) (mxBlocks f), .s e.toNat, .p x.gp.toNat]
  | .barv x _ _ => [.p x.gp.toNat]
  | .barw x _ _ => [.p x.gp.toNat]
  | .barm x _ _ a => [.s a.toNat, .p x.gp.toNat]
  | .fetchw x _ => [.p x.gp.toNat]
  | .reedf x => [.p x.gp.toNat]
  | .br x _ => [.p x.gp.toNat]
  | .bra x _ => [.p x.gp.toNat]
  | .call x d _ => [.s d.toNat, .p x.gp.toNat]
  | .brv x _ => [.p x.gp.toNat]
  | .mif x _ => [.p x.gp.toNat]
  | .melse _ _ => []
  | .mend _ => []
  | .mloop x _ => [.p x.gp.toNat]
  | .mbrk x _ => [.p x.gp.toNat]
  | .mcont x _ => [.p x.gp.toNat]
  | .nop x => [.p x.gp.toNat]
  | .ret x a => [.s a.toNat, .p x.gp.toNat]
  | .jmpi x a => [.s a.toNat, .p x.gp.toNat]
  | .yield x => [.p x.gp.toNat]
  | .exit x => [.p x.gp.toNat]
  | .region x => [.p x.gp.toNat]
  | .trap x _ => [.p x.gp.toNat]
  | .tfence x d => [.s d.toNat, .p x.gp.toNat]
  | .ofence x => [.p x.gp.toNat]
  | .efence x => [.p x.gp.toNat]
  | .tlbinv x a => [.s a.toNat, .p x.gp.toNat]
  | .srd x d _ => [.s d.toNat, .p x.gp.toNat]
  | .swr x a _ => [.s a.toNat, .p x.gp.toNat]
  | .tret x => [.p x.gp.toNat]
  | .clobusoNop _ _ => []
  | .launch _ _ => []
  | .launchi _ _ => []
  | .cIf _ _ => []
  | .cElse _ _ => []
  | .cEndif _ _ => []
  | .cLoop _ _ => []
  | .cEndloop _ _ => []
  | .waitv _ _ => []
  | .waitvRead _ _ => []
  | .signal _ _ => []
  | .clobusoFence _ _ => []
  | .coll _ _ => []
  | .cOpen _ _ => []
  | .commit _ _ => []
  | .abort _ _ => []
  | .page _ _ => []
  | .launchComplete _ => []
  | .registerWrite _ => []
  | .partitionWrite _ => []
  | .ctxTailWrite _ => []
  | .ctxHeadWrite _ => []
  | .ctxBindEnable _ => []
  | .ctxBindDisable _ => []
  | .plyReqRun _ => []
  | .plyReqDoze _ => []
  | .plyReqSleep _ => []
  | .bootColdStart _ => []
  | .bootWarmStart _ => []
  | .powerUp => []
  | .fundamentalReset _ => []
  | .bootReady _ => []
  | .flashWindowWrite _ => []
  | .attestRequest _ => []
  | .quoteDone _ => []
  | .l2wbStart _ => []
  | .l2wbDone _ => []
  | .preemptSave _ => []
  | .preemptKill _ => []
  | .preemptRelease _ => []
  | .traceEnable _ => []
  | .traceDisable _ => []
  | .wptrPublish _ => []
  | .counterClear _ => []
  | .counterLatchRead _ => []
  | .bar4Access _ => []
  | .beamLinkDown => []
  | .flitRetry => []
  | .ualDown _ => []
  | .inboundRemoteAccess _ => []
  | .remoteTimeout _ => []
  | .clockStepDown _ => []
  | .heatPublish _ => []
  | .autoDoze _ => []
  | .plyStateEntry _ => []
  | .dozeWake _ => []
  | .listenerLock _ => []
  | .logReplay _ => []
  | .mirrorCopy _ => []
  | .patrolScrub _ => []
  | .dentPass _ => []
  | .dentApply _ => []
  | .regionClear _ _ => []
  | .slotAllocation _ => []
  | .slotReturn _ => []
  | .contributionArrival _ _ => []
  | .collTimeout _ _ _ => []
  | .collComplete _ _ => []
  | .boltPlacement _ => []
  | .starving _ => []
  | .priorityPreemption _ => []
  | .boltSave _ => []
  | .boltRestore _ => []
  | .savedMwaddrRead _ => []
  | .fetchwAnswer _ => []
  | .boltRetire _ => []
  | .idemRelaunch _ => []
  | .warpSwap _ => []
  | .swapThreshold _ => []
  | .starveSwap _ => []
  | .activeSetFill _ => []
  | .warpSlotFree _ => []
  | .trapTaken _ => []
  | .loomGrant _ _ => []
  | .loomRequestAging _ _ => []
  | .loomPassFinish _ _ => []
  | .loomRequestFinish _ _ => []
  | .copyStart _ => []
  | .copyUnitWrite _ => []
  | .copyComplete _ => []
  | .loadReturn _ _ => []
  | .registrationComplete _ _ => []
  | .atomicPerform _ _ => []
  | .epochFlush _ => []
  | .sweepComplete _ => []
  | .requestReturn _ => []
  | .tlbinvRemoval _ => []
  | .pgreqPost _ => []
  | .mwaitReread _ => []
  | .powerRemoval => []
  | .softError _ => []
  | .cpHalt _ => []
  | .clockStepUp _ => []
  | .portLinkChange _ _ => []
  | .remoteAcknowledge _ => []
  | .resizableBarSet _ _ => []
  | .illegalInstruction _ => []
  | .illegalPacket _ => []
  | .instructionFetch _ => []

/-- The register index of an instruction that breaks R314, under the allotment of the warp's launch: of several, the first
in the order in which `usesOf` lists its operands. [DESIGN CHOICE, log 12] -/
def boundsOf (w : Warp) (i : Instr) : Option Nat := (usesOf w i).findSome? (RegUse.bad w.env)

/-! ## Addresses (R172, R175, R389) -/

end Sys2Proof.Machine

namespace Sys2Proof

/-- The bytes of a memory type (R390). -/
def MTy.bytes : MTy → Nat
  | .i8 => 1
  | .i16 | .f16 | .bf16 => 2
  | .i32 | .u32 | .f32 => 4
  | .i64 => 8

/-- The bytes of an atomic type (R398). -/
def ATy.bytes : ATy → Nat
  | .u32 | .i32 | .f32 => 4
  | .i64 => 8

/-- The space of an atomic's space code (R317). -/
def ASp.toSp : ASp → Sp
  | .g => .g
  | .s => .s
  | .v => .v
  | .r => .r

/-- The code of a space in the trap frame (R257). -/
def Sp.frameCode : Sp → BitVec 3
  | .g => 0
  | .s => 1
  | .p => 2
  | .v => 3
  | .r => 4

end Sys2Proof

namespace Sys2Proof.Machine

/-- The size of a lane segment of private memory (R123): PRIV x 128 bytes rounded up to 64 KiB. -/
def LaunchEnv.segment (e : LaunchEnv) : Nat := (e.priv * 128 + 0xFFFF) / 0x10000 * 0x10000

/-- The global virtual address of a private byte of a lane (R175). -/
def Warp.privVa (w : Warp) (l : Nat) (b : Nat) : Word64 :=
  w.env.privBase + BitVec.ofNat 64 (w.place.num.toNat * w.env.segment) +
    BitVec.ofNat 64 ((32 * (b / 4) + l) * 4 + b % 4)

/-- The address of the element of a lane of an M-format form (R389): the spaces but private memory
place elements side by side. -/
def mAddr (sp : Sp) (a : Word64) (size l : Nat) : Word64 :=
  if sp = .p then a else a + BitVec.ofNat 64 (l * size)

/-- The address of a lane of an MG or AV form (R389): the scalar base and the scaled, sign-extended
lane of the index register. -/
def gAddr (base : Word64) (idx : Word32) (sc : Nat) : Word64 :=
  base + idx.signExtend 64 * BitVec.ofNat 64 sc

/-- The contexts through which a warp's accesses are translated (R219). -/
def Warp.xctx (w : Warp) : XCtx where
  beam := w.env.beam
  ctx := w.env.ctx
  part := w.env.part
  link := dieBeam (coreDie w.place.core)
  die := some (coreDie w.place.core)
  shadow := if w.env.versioned then some w.env.vdom else none

/-- The fate of the checks of an element (R173, R202, R250): its location, a non-resident page, or
the failed check's place in the order of R250, its cause and its address. -/
inductive Chk where
  | ok (loc : Loc) (home : Option Die) (va : Word64)
  | zero (va : Word64)
  | bad (order : Nat) (cause : BitVec 8) (addr : Word64)
  deriving DecidableEq, Repr

/-- Whether a launch owns a dent slot on a die (R36). -/
def State.ownsSlot (s : State) (lid : Nat) (d : Die) : Bool :=
  (s.beam (dieBeam d)).reed.slots.any fun r =>
    r.owned && r.lid == lid && r.ply.toNat == d.val % 4

/-- The checks of a vault access by a warp (R105, R172, R173). -/
def Warp.vaultOk (w : Warp) (a : Word64) (store : Bool) : Bool :=
  let d := bitsOf a 33 31
  let n := bitsOf a 30 25
  bitsOf a 63 34 == 0 && decide (n ≤ 47) && d == (coreDie w.place.core).val &&
    w.env.vply.getLsbD d && decide (w.env.vlo.toNat ≤ n) && decide (n ≤ w.env.vhi.toNat) &&
    (!store || w.env.vwr)

/-- The fate of the global virtual address of an element (R202); it goes to the home that its mapping names (R212). -/
def State.resolveVa (s : State) (w : Warp) (acc : Access) (va : Word64) (hit : Bool) :
    Chk × State :=
  match s.translate w.xctx acc va hit with
  | (.ok pa h, s) =>
    let (at_, s) := s.atHome pa h
    (.ok (.phys at_) h va, s)
  | (.nonres, s) => if acc = .load then (.zero va, s) else (.bad 4 0x11 va, s)
  | (.protect, s) => (.bad 4 0x10 va, s)

/-- The checks of the element of `size` bytes that lane `l` of a warp names at `a` in a space
(R173, R176, R31, R36, R202), in the order of R250. -/
def State.resolve (s : State) (w : Warp) (sp : Sp) (acc : Access) (l : Nat) (a : Word64)
    (size : Nat) (hit : Bool) : Chk × State :=
  if a.toNat % size != 0 then (.bad 1 0x13 a, s)
  else
    match sp with
    | .g => s.resolveVa w acc a hit
    | .s =>
      if a.toNat < w.env.scratch then (.ok (.scratch w.place.gid a.toNat) none a, s)
      else (.bad 4 0x10 a, s)
    | .p =>
      if w.env.priv ≤ (a.toNat + size - 1) / 4 then (.bad 2 0x12 a, s)
      else s.resolveVa w acc (w.privVa l a.toNat) hit
    | .v =>
      if w.vaultOk a (acc == .store) then (.ok (.vault a.toNat) none a, s) else (.bad 3 0x14 a, s)
    | .r =>
      let b := dieBeam (coreDie w.place.core)
      let r : ReedRegion := (s.beam b).reed.regions[w.env.part]
      if r.size.toNat * 2 ^ 16 ≤ a.toNat then (.bad 3 0x15 a, s)
      else if acc == .store && !s.ownsSlot w.place.lid (coreDie w.place.core) then
        (.bad 3 0x15 a, s)
      else (.ok (.reed b (r.base.toNat * 2 ^ 16 + a.toNat)) none a, s)

/-! ## Register images of memory types (R390) -/

/-- What a load of a type writes to a scalar register (R390). -/
def imageS (t : MTy) (v : Nat) : Word64 :=
  match t with
  | .i8 => (BitVec.ofNat 8 v).signExtend 64
  | .i16 => (BitVec.ofNat 16 v).signExtend 64
  | .i32 => (BitVec.ofNat 32 v).signExtend 64
  | .u32 | .f32 => (BitVec.ofNat 32 v).zeroExtend 64
  | .i64 => BitVec.ofNat 64 v
  | .f16 | .bf16 => (BitVec.ofNat 16 v).zeroExtend 64

/-- What a load of a type writes to a vector lane (R390). -/
def imageV (t : MTy) (v : Nat) : Word32 :=
  match t with
  | .i8 => (BitVec.ofNat 8 v).signExtend 32
  | .i16 => (BitVec.ofNat 16 v).signExtend 32
  | .i32 | .u32 | .f32 | .i64 => BitVec.ofNat 32 v
  | .f16 | .bf16 => (BitVec.ofNat 16 v).zeroExtend 32

end Sys2Proof.Machine

namespace Sys2Proof

/-- How a returning atomic extends the old value: as LD extends its type (R399). -/
def ATy.image : ATy → MTy
  | .u32 => .u32
  | .i32 => .i32
  | .i64 => .i64
  | .f32 => .f32

end Sys2Proof
end

