-- ==== Sys2Proof/Machine/Flags.lean ====
section
/-! DEFINITION. The flag computations: the conditions of SCMP and VCMP (R336, R367) and of VFCMP
(R371), the conditions of the command processor (R100), and the residency flags of loads (R203,
R392).  The AX8 has no status register: its flags are lanes of predicate registers and RMASK. -/

namespace Sys2Proof.Machine

/-- A condition, from whether a < b and whether a = b (R336). -/
def condTest (c : Cond) (lt eq : Bool) : Bool :=
  match c with
  | .eq => eq
  | .ne => !eq
  | .lt => lt
  | .le => lt || eq
  | .gt => !(lt || eq)
  | .ge => !lt

/-- A condition of VFCMP, from whether the operands are unordered, a < b and a = b: a comparison
with a NaN is false but for ne and un (R371). -/
def fcondTest (c : FCond) (un lt eq : Bool) : Bool :=
  match c with
  | .eq => !un && eq
  | .ne => un || !eq
  | .lt => !un && lt
  | .le => !un && (lt || eq)
  | .gt => !un && !(lt || eq)
  | .ge => !un && !lt
  | .un => un
  | .ord => !un

/-- A condition of IF and WAITV on a word and its operand (R100); none where the code is illegal. -/
def streamCond (c : BitVec 3) (v d : Nat) : Option Bool :=
  match c.toNat with
  | 0 => some (v == d)
  | 1 => some (v != d)
  | 2 => some (decide (v < d))
  | 3 => some (decide (d ≤ v))
  | 4 => some (Nat.land v d != 0)
  | 5 => some (Nat.land v d == 0)
  | _ => none

/-- Record residency flags (R203, R392): lanes of the residency predicate are written, and flags
that are set stay in RMASK. -/
def Warp.residency (w : Warp) (rp : PReg) (lanes flags : Lanes) : Warp :=
  let w := w.pset rp lanes flags
  { w with rmask := w.rmask ||| (flags &&& lanes) }

end Sys2Proof.Machine
end

