-- ==== Sys2Proof/Machine/Trace.lean ====
section
/-! DEFINITION. The cluster clock (R302), Twirek trace records and their queues (R295 to R300), and
the performance counters of a die (R304, R305). -/

namespace Sys2Proof.Machine

/-- Read the clock of a core's cluster (R302): what it has read in this step, whose records are of one cycle (R298), and
otherwise at least what it read before, by a free amount. -/
def State.clockOf (s : State) (core : Nat) : Word64 × State :=
  let cl := coreCluster core
  let (at_, old) := (s.clocks.find? fun c => c.1 == cl).elim (0, 0) Prod.snd
  if at_ = s.time ∧ at_ ≠ 0 then (old, s)
  else
    let (i, s) := s.draw
    let now := old + (Config.clockAdvance i).zeroExtend 64
    (now, { s with clocks := (cl, s.time, now) :: s.clocks.filter fun c => c.1 != cl })

/-- The performance counters of a die (R304), in the order of their offsets. [DEDUCED, log 43] -/
inductive PerfCounter where
  | l2Local | l2Remote | packets | swaps | loomPasses | fused | walks | dents | hbmLines
  deriving DecidableEq, Repr

/-- The place of a counter among those of its die (R304). -/
def PerfCounter.index : PerfCounter → Fin 9
  | .l2Local => 0
  | .l2Remote => 1
  | .packets => 2
  | .swaps => 3
  | .loomPasses => 4
  | .fused => 5
  | .walks => 6
  | .dents => 7
  | .hbmLines => 8

/-- Count events of a die, unless its counters are frozen (R304). -/
def State.count (s : State) (d : Die) (k : PerfCounter) (n : Nat) : State :=
  s.modPly d fun p =>
    if p.perf.freeze then p
    else
      { p with
        perf := { p.perf with
          vals := p.perf.vals.set k.index (p.perf.vals[k.index] + BitVec.ofNat 64 n) } }

/-- Whether a warp makes trace records (R295). -/
def State.traced (s : State) (w : Warp) : Bool :=
  w.env.trace && (s.ply (coreDie w.place.core)).trace.en

/-- A record of 32 bytes from its four words (R296). -/
def traceRecord (w0 w1 w2 w3 : Nat) : List Byte :=
  leBytes 8 w0 ++ leBytes 8 w1 ++ leBytes 8 w2 ++ leBytes 8 w3

/-- The header of a record (R296). -/
def traceHeader (kind slot widx nw : Nat) (ord : Bool) (time : Nat) : Nat :=
  lay [(60, kind), (55, slot), (53, widx), (51, nw), (50, ord.toNat), (0, time % 2 ^ 48)]

/-- The segment of a core (R299). -/
def Trace.coreOf (t : Trace) (core : Nat) : TraceCore :=
  (t.cores.find? fun c => c.core == core).getD ⟨core, [], 0, 0, 0⟩

/-- Change the segment of a core. -/
def Trace.modCore (t : Trace) (core : Nat) (f : TraceCore → TraceCore) : Trace :=
  { t with cores := f (t.coreOf core) :: t.cores.filter fun c => c.core != core }

/-- Lose a record (R300). -/
def Trace.lose (t : Trace) (core : Nat) : Trace :=
  let t := t.modCore core fun c => { c with lost := min (c.lost + 1) 0xFFFFFFFF, since := c.since + 1 }
  { t with lost := if t.lost = 0xFFFFFFFF then t.lost else t.lost + 1 }

/-- A core makes a record: it enters the queue of unwritten records, or is lost (R300). -/
def State.putRecord (s : State) (core : Nat) (r : List Byte) : State :=
  s.modPly (coreDie core) fun p =>
    { p with
      trace :=
        if 16 ≤ (p.trace.coreOf core).queue.length then p.trace.lose core
        else p.trace.modCore core fun c => { c with queue := c.queue ++ [r] } }

/-- The records that a core holds and has not written (R300). -/
def State.traceQueue (s : State) (core : Nat) : List (List Byte) :=
  ((s.ply (coreDie core)).trace.coreOf core).queue

/-- Replace the records that a core holds. -/
def State.setTraceQueue (s : State) (core : Nat) (q : List (List Byte)) : State :=
  s.modPly (coreDie core) fun p => { p with trace := p.trace.modCore core fun c => { c with queue := q } }

/-- A record of a traced warp (R295), from the cluster's cycle count. -/
def State.record (s : State) (w : Warp) (f : Nat → List Byte) : State :=
  if s.traced w then
    let (t, s) := s.clockOf w.place.core
    s.putRecord w.place.core (f t.toNat)
  else s

/-- The ISSUE record of a group (R297, R298). -/
def State.recordIssue (s : State) (w : Warp) (pc : Word64) (widx : BitVec 2)
    (words : List (BitVec 32)) : State :=
  if (s.ply (coreDie w.place.core)).trace.issues then
    let at_ := fun i => (words.getD i 0).toNat
    s.record w fun t => traceRecord
      (traceHeader 1 w.place.slot.toNat widx.toNat words.length w.env.ordered
        (if w.env.ordered then w.lclock.toNat else t))
      (pc.toNat % 2 ^ 57) (lay [(32, at_ 1), (0, at_ 0)]) (lay [(32, w.ctl.am.toNat), (0, at_ 2)])
  else s

/-- The WAIT record of a group (R297, R298): `was` holds the counters as the WAIT first became the
warp's next group. -/
def State.recordWait (s : State) (w : Warp) (pc : Word64) (widx : BitVec 2) (was : BitVec 20)
    (l sc k t : Nat) : State :=
  if (s.ply (coreDie w.place.core)).trace.waits && s.traced w then
    let (i, s) := s.draw
    s.record w fun time => traceRecord
      (traceHeader 2 w.place.slot.toNat widx.toNat 0 w.env.ordered
        (if w.env.ordered then w.lclock.toNat else time))
      (pc.toNat % 2 ^ 57)
      (lay [(40, (Config.heldCycles i).toNat), (36, t), (32, k), (26, sc), (20, l), (0, was.toNat)]) 0
  else s

/-- The SWAP record of a core (R297, R298): `w` is the outgoing warp. -/
def State.recordSwap (s : State) (w : Warp) (inSlot pos reason : Nat) : State :=
  if (s.ply (coreDie w.place.core)).trace.swaps then
    s.record w fun t => traceRecord (traceHeader 3 w.place.slot.toNat 0 0 false t)
      (lay [(8, reason), (5, pos), (0, inSlot)]) 0 0
  else s

/-- The START record of a warp that takes a slot (R297, R298). [DEDUCED, log 51] -/
def State.recordStart (s : State) (w : Warp) (reason : Nat) : State :=
  s.record w fun t => traceRecord (traceHeader 4 w.place.slot.toNat 0 0 false t)
    (lay [(22, reason), (16, w.place.widx.toNat), (12, w.place.gidx.toNat), (8, w.env.ctx.val),
      (0, w.env.tag.toNat)])
    (w.place.bolt.toNat % 2 ^ 64) (w.place.bolt.toNat / 2 ^ 64)

/-- The END record of a warp that leaves its slot (R297, R298). [DEDUCED, log 51] -/
def State.recordEnd (s : State) (w : Warp) (reason : Nat) : State :=
  s.record w fun t => traceRecord (traceHeader 5 w.place.slot.toNat 0 0 false t) reason 0 0

/-! ## Writing records to the buffer (R299, R300) -/

/-- The first byte of a core's segment, and its size (R299, R301). -/
def Trace.segment (t : Trace) (core : Nat) : Nat × Nat :=
  let n := (t.seg.toNat + 1) * 2 ^ 16
  (t.base.toNat * 2 ^ 16 + core % 192 * n, n)

/-- The LOSS record of a core (R297). -/
def lossRecord (time n : Nat) : List Byte :=
  traceRecord (traceHeader 6 0 0 0 false time) (min n 0xFFFFFFFF) 0 0

end Sys2Proof.Machine
end

