-- ==== Sys2Proof/Machine/Shared.lean ====
section
/-! DEFINITION. The state that instructions share: bytes of locations and the words of an L1, outstanding
counters (R157, R158), pending faults (R248, R250), and barrier completion (R168, R445). -/

namespace Sys2Proof.Machine

/-! ## Bytes of locations (R224) -/

/-- The location `n` bytes further on. -/
def Loc.plus : Loc → Nat → Loc
  | .phys a, n => .phys (a + n)
  | .scratch g a, n => .scratch g (a + n)
  | .vault a, n => .vault (a + n)
  | .reed b a, n => .reed b (a + n)

/-- Whether the byte of one location lies in `n` bytes from another. -/
def Loc.within (x : Loc) (y : Loc) (n : Nat) : Bool :=
  match x, y with
  | .phys a, .phys b => decide (b ≤ a) && decide (a < b + n)
  | .scratch g a, .scratch h b => g == h && decide (b ≤ a) && decide (a < b + n)
  | .vault a, .vault b => decide (b ≤ a) && decide (a < b + n)
  | .reed p a, .reed q b => p == q && decide (b ≤ a) && decide (a < b + n)
  | _, _ => false

/-- Whether two ranges of bytes share one. -/
def Loc.overlap (x : Loc) (n : Nat) (y : Loc) (m : Nat) : Bool :=
  n != 0 && m != 0 && (x.within y m || y.within x n)

/-- The address of a location in its space, as a fault reports it (R256). -/
def Loc.addr : Loc → Word64
  | .phys a => BitVec.ofNat 64 a
  | .scratch _ a => BitVec.ofNat 64 a
  | .vault a => BitVec.ofNat 64 a
  | .reed _ a => BitVec.ofNat 64 a

/-- Whether a location lies in the remote aperture (R54). -/
def Loc.remote : Loc → Bool
  | .phys a => isRemote a
  | .scratch _ _ | .vault _ | .reed _ _ => false

/-- The 64-bit word that holds a location (R194). -/
def Loc.word : Loc → Loc
  | .phys a => .phys (a / 8 * 8)
  | .scratch g a => .scratch g (a / 8 * 8)
  | .vault a => .vault (a / 8 * 8)
  | .reed b a => .reed b (a / 8 * 8)

/-- `n` bytes at a location as they stand at its home: memory, scratch or vault. -/
def State.homeBytes (s : State) (x : Loc) (n : Nat) : List Byte :=
  match x with
  | .phys a => cellBytes s.mem a n
  | .scratch g a => cellBytes ((s.group? g).elim [] Group.scratch) a n
  | .vault a => cellBytes s.vault a n
  | .reed _ _ => List.replicate n 0

/-- The bytes of a poisoned word that a write of `n` bytes covers. -/
def Poison.covered (q : Poison) (x : Loc) (n : Nat) : BitVec 8 :=
  (List.range 8).foldl (fun m i =>
    if (q.loc.plus i).within x n then m ||| BitVec.twoPow 8 i else m) 0

/-- A poisoned word after a write by an operation: sound once the operation has written every byte of
it (R194). -/
def Poison.written (q : Poison) (id : Nat) (x : Loc) (n : Nat) : Option Poison :=
  let m := q.covered x n
  let got := if q.by_ = id ∧ id ≠ 0 then q.got ||| m else m
  if m = 0 then some q
  else if got = BitVec.allOnes 8 then none
  else some { q with by_ := id, got := got }

/-- Whether a location lies in the vaults of a ply that sleeps or has not left retention: an access waits for it
(R19). [DESIGN CHOICE, log 63] -/
def State.vaultDown (s : State) (x : Loc) : Bool :=
  match x with
  | .vault a =>
    let p := s.ply (Fin.ofNat 8 (a / 2 ^ 31))
    p.state == .sleep || p.wake != .none
  | .phys _ | .scratch _ _ | .reed _ _ => false

/-- The words that an operation writes are sound (R194). -/
def State.soundBy (s : State) (id : Nat) (x : Loc) (n : Nat) : State :=
  { s with poison := s.poison.filterMap fun q => q.written id x n }

/-- Write bytes of an operation at a location's home. -/
def State.putHomeBy (s : State) (id : Nat) (x : Loc) (bs : List Byte) : State :=
  let s := s.soundBy id x bs.length
  match x with
  | .phys a => { s with mem := cellPut s.mem a bs }
  | .scratch g a => s.modGroup g fun gr => { gr with scratch := cellPut gr.scratch a bs }
  | .vault a => { s with vault := cellPut s.vault a bs }
  | .reed _ _ => s

/-- The home die of a location of memory, as the mapping named it by which it was reached (R179, R212). -/
def State.homeOf (s : State) (at_ : Nat) : Die :=
  if 2 ^ 53 ≤ at_ then Fin.ofNat 8 (at_ / 2 ^ 53 - 1)
  else (s.slices.homes.find? fun x => x.page == at_ / 4096).elim 0 Homes.first

/-- Bytes written at a location are written to the other frame of a versioned page of a closed domain (R220). -/
def State.mirrorAt (s : State) (x : Loc) (bs : List Byte) : State :=
  match x with
  | .phys pa => s.mirror pa bs
  | .scratch _ _ | .vault _ | .reed _ _ => s

/-- Write bytes at a location's home in one piece. -/
def State.putHome (s : State) (x : Loc) (bs : List Byte) : State := s.putHomeBy 0 x bs

/-! ## Scratch that a copy fills (R185) -/

/-- Whether a byte that a copy has written stands at an offset of a group's scratch, with its value before. -/
def Copy.stale (c : Copy) (g a : Nat) : Option Byte :=
  (c.before.find? fun x => x.1 == g && x.2.1 == a).map fun x => x.2.2

/-- The bytes of a range of scratch that copies have written and an access may still find as they were: their place in
the range, with their value before (R185). -/
def State.fillOld (s : State) (g a n : Nat) : List (Nat × Byte) :=
  (List.range n).filterMap fun i => (s.copies.findSome? fun c => c.stale g (a + i)).map fun b => (i, b)

/-- The copies, which forget what bytes of a range of scratch were before, but for those at some places. -/
def State.settleFill (s : State) (g a n : Nat) (keep : List (Nat × Byte)) : State :=
  { s with
    copies := s.copies.map fun c =>
      { c with
        before := c.before.filterMap fun x =>
          if x.1 != g || decide (x.2.1 < a) || decide (a + n ≤ x.2.1) then some x
          else (keep.find? fun y => a + y.1 == x.2.1).map fun y => (g, x.2.1, y.2) } }

/-- `n` bytes at a location's home as an access of a warp reads them: each byte that a copy is filling as it is before
or after the copy's write, which an access that has read it cannot go back behind (R185, R225). -/
def State.readHome (s : State) (x : Loc) (n : Nat) : List Byte × State :=
  match x with
  | .scratch g a =>
    match s.fillOld g a n with
    | [] => (s.homeBytes x n, s)
    | bs =>
      let (i, s) := s.draw
      let old := bs.filter fun b => Config.fillPick i b.1
      (old.foldl (fun l b => l.set b.1 b.2) (s.homeBytes x n), s.settleFill g a n old)
  | .phys _ | .vault _ | .reed _ _ => (s.homeBytes x n, s)

/-- An access of a warp writes bytes at a location's home; each byte that a copy is filling is left as before or after the
copy's write (R185). -/
def State.storeHome (s : State) (id : Nat) (x : Loc) (bs : List Byte) : State :=
  match x with
  | .scratch g a =>
    match s.fillOld g a bs.length with
    | [] => s.putHomeBy id x bs
    | fs =>
      let (i, s) := s.draw
      let under := fs.filterMap fun b => if Config.fillPick i b.1 then (bs[b.1]?).map fun v => (b.1, v) else none
      let at_ := s.homeBytes x bs.length
      ((s.putHomeBy id x bs).putHome x (under.foldl (fun l b => l.set b.1 (at_.getD b.1 0)) bs)).settleFill g a bs.length
        under
  | .phys _ | .vault _ | .reed _ _ => s.putHomeBy id x bs

/-- An engine fills bytes of a group's scratch: they are what every warp of the group reads at its latest OFENCE (R241),
and an access of a warp to them finds them as they are before or after that while the copy runs (R185). -/
def State.fillScratch (s : State) (id gid a : Nat) (bs : List Byte) : State :=
  let old := s.homeBytes (.scratch gid a) bs.length
  let s := (s.putHomeBy id (.scratch gid a) bs).modWarps fun w =>
    if w.place.gid = gid then { w with fencedMem := cellPut w.fencedMem a bs } else w
  { s with
    copies := s.copies.map fun c =>
      if c.id = id then
        { c with
          before := ((old.zip bs).zipIdx.filterMap fun x =>
            if x.1.1 = x.1.2 then none else some (gid, a + x.2, x.1.1)) ++
              c.before.filter fun x => x.1 != gid || decide (x.2.1 < a) || decide (a + bs.length ≤ x.2.1) }
      else c }

/-- The poison of the words that a range of bytes touches (R194). -/
def State.poisonAt (s : State) (x : Loc) (n : Nat) : Option Poison :=
  s.poison.find? fun q => x.overlap n q.loc 8

/-! ## The words of an L1 (R178, R227 to R230) -/

/-- A core no longer holds the words that share a byte with a range. -/
def State.l1Drop (s : State) (core pa n : Nat) : State :=
  { s with l1 := s.l1.filter fun w => !(w.core == core && w.meets pa n) || w.ahead }

/-- The aligned 4-byte words that a range touches. -/
def wordsOf (pa n : Nat) : List Nat :=
  (List.range ((pa % 4 + n + 3) / 4)).map fun i => pa / 4 * 4 + 4 * i

/-- A core reads the words that a range touches from their home into its L1; `own` says that a store of
the core has registered them, and `priv` whose private words they are (R178). -/
def State.l1Fill (s : State) (core pa n : Nat) (own : Bool) (priv : Option Nat) : State :=
  let left := (s.l1Drop core pa n).l1
  { s with
    l1 := (((wordsOf pa n).filter fun a => !left.any fun w => w.core == core && w.pa == a).map fun a =>
      ⟨core, a, BitVec.ofNat 32 (cellWord s.mem a 4), own, own, priv, s.time⟩) ++ left }

/-- A private store of a warp is written into its core's L1 and nowhere else: the words are dirty (R178). -/
def State.l1Store (s : State) (core wid pa : Nat) (bs : List Byte) : State :=
  let word := fun a : Nat =>
    let old := (s.l1.find? fun w => w.core == core && w.pa == a).elim (cellBytes s.mem a 4) fun w => leBytes 4 w.data.toNat
    leVal (old.zipIdx.map fun b => if pa ≤ a + b.2 then (bs[a + b.2 - pa]?).getD b.1 else b.1)
  { s with
    l1 := ((wordsOf pa bs.length).map fun a => ⟨core, a, BitVec.ofNat 32 (word a), true, true, some wid, s.time⟩) ++
      s.l1.filter fun w => !(w.core == core && w.meets pa bs.length) }

/-- Whether a core owns a word of its L1: its store was the last write that reached the word's home
(R227). [DEDUCED, log 58] -/
def State.l1Owns (s : State) (w : L1Word) : Bool := w.owned && cellWord s.mem w.pa 4 == w.data.toNat

/-- A write through a global address meets private words that stand dirty in an L1: each ends with one of the two writes,
freely (R178). -/
def State.l1Yield (s : State) (pa n : Nat) : State :=
  if !s.l1.any fun w => w.ahead && w.meets pa n then s
  else
    let (i, s) := s.draw
    if Config.privatePick i then s
    else { s with l1 := s.l1.filter fun w => !(w.ahead && w.meets pa n) }

/-- The bytes of a write of a core reach memory at their home: the core holds no copy of them, and no other core
owns their words (R227, R232). -/
def State.putMem (s : State) (core id pa : Nat) (bs : List Byte) : State :=
  (((((s.l1Yield pa bs.length).putHomeBy id (.phys pa) bs).mirror pa bs)).l1Revoke pa bs.length).l1Drop core pa bs.length

/-- Bytes are written at their home by what has no L1: no core owns their words any more (R227, R232). -/
def State.putShared (s : State) (pa : Nat) (bs : List Byte) : State :=
  (((s.l1Yield pa bs.length).putHome (.phys pa) bs).mirror pa bs).l1Revoke pa bs.length

/-- The lines of memory that ranges touch, each once; the remote aperture has none here. -/
def linesOf (rs : List (Nat × Nat)) : List Nat :=
  ((rs.filter fun r => !isRemote r.1 && r.2 != 0).flatMap fun r =>
    (List.range ((r.1 % 128 + r.2 + 127) / 128)).map (r.1 / 128 + ·)).eraseDups

/-- The homes of the lines that ranges touch are asked for them (R181, R305). -/
def State.askLines (s : State) (d : Option Die) (rs : List (Nat × Nat)) : State :=
  (linesOf rs).foldl (fun s l => s.lineRequest d (s.homeOf (128 * l))) s

/-- Words of an L1 are written back (R178): each dirty line is a request to its home slice (R181), a private word that
memory does not have reaches it, and the words stay, clean and owned by nobody. -/
def State.l1Flush (s : State) (p : L1Word → Bool) : State :=
  let ws := s.l1.filter fun w => w.dirty && p w
  let lines := (ws.map fun w => (w.core, w.pa / 128)).eraseDups
  let s := lines.foldl (fun s x => s.lineRequest (some (coreDie x.1)) (s.homeOf (128 * x.2))) s
  let s := (ws.filter L1Word.ahead).foldl (fun s w =>
    let bs := leBytes 4 w.data.toNat
    { s with mem := cellPut s.mem w.pa bs }.mirror w.pa bs) s
  { s with l1 := s.l1.map fun w => if p w then { w with dirty := false, owned := false } else w }

/-- The words of a core are written back and stay valid (R178). -/
def State.l1WriteBack (s : State) (core : Nat) : State := s.l1Flush fun w => w.core == core

/-- The private lines of a warp that exits or is saved are written back and hold nothing any more (R178). -/
def State.l1Exit (s : State) (wid : Nat) : State :=
  let s := s.l1Flush fun w => w.priv == some wid
  { s with l1 := s.l1.filter fun w => w.priv != some wid }

/-- A range of memory is read at its home: the private words of it that a core itself holds dirty are written back
first, and those of other cores freely, since a read through a global address returns either value (R178). -/
def State.l1Recall (s : State) (core : Option Nat) (pa n : Nat) : State :=
  if !s.l1.any fun w => w.ahead && w.meets pa n then s
  else
    let (i, s) := s.draw
    s.l1Flush fun w => w.ahead && w.meets pa n && (core == some w.core || Config.privatePick i)

/-- Whether an L1 may have evicted a line (R178): more lines than it has ways stand in its set, of 128 sets of 16. -/
def State.l1Crowded (s : State) (core pa : Nat) : Bool :=
  let set := s.l1.filter fun w => w.core == core && w.pa / 128 % 128 == pa / 128 % 128
  decide (16 < ((set.map fun w => w.pa / 128).eraseDups).length)

/-- The bytes of a range as a core's L1 holds them, where it holds every word of it from one moment. -/
def State.l1Bytes (s : State) (core pa n : Nat) : Option (List Byte) :=
  let ws := (wordsOf pa n).map fun a => s.l1.find? fun w => w.core == core && w.pa == a
  if ws.all Option.isSome && ws.all fun w => w.map L1Word.stamp == (ws.head?.join).map L1Word.stamp then
    some (((ws.filterMap id).flatMap fun w => leBytes 4 w.data.toNat).drop (pa % 4) |>.take n)
  else none

/-! ## Outstanding counters (R157, R158) -/

namespace Counters

/-- The tokens of a counter. -/
def get (c : Counters) : Counter → List Token
  | .lc => c.lc
  | .sc => c.sc
  | .cc => c.cc
  | .tc => c.tc

/-- Replace the tokens of a counter. -/
def put (c : Counters) (k : Counter) (ts : List Token) : Counters :=
  match k with
  | .lc => { c with lc := ts }
  | .sc => { c with sc := ts }
  | .cc => { c with cc := ts }
  | .tc => { c with tc := ts }

/-- A counter retires in issue order: it falls while its oldest operation has finished (R158). -/
def retire (ts : List Token) : List Token := ts.dropWhile Token.done

/-- Count an operation. -/
def push (c : Counters) (k : Counter) (op : Nat) (done : Bool) : Counters :=
  c.put k (retire (c.get k ++ [⟨op, done⟩]))

/-- An operation has finished. -/
def finishIn (ts : List Token) (op : Nat) : List Token :=
  retire (ts.map fun t => if t.op = op then { t with done := true } else t)

/-- An operation has finished, whichever counter counts it. -/
def finish (c : Counters) (op : Nat) : Counters :=
  ⟨finishIn c.lc op, finishIn c.sc op, finishIn c.cc op, finishIn c.tc op⟩

/-- Every counter is zero. -/
def isZero (c : Counters) : Bool :=
  c.lc.isEmpty && c.sc.isEmpty && c.cc.isEmpty && c.tc.isEmpty

end Counters

/-- The maximum of a counter (R157). -/
def counterMax : Counter → Nat
  | .lc | .sc => 63
  | .cc | .tc => 15

/-- Whether an instruction would take a counter above its maximum (R157). -/
def Warp.counterFull (w : Warp) (k : Counter) : Bool := decide (counterMax k ≤ (w.cnt.get k).length)

/-- The first byte of a save slot (R270). -/
def State.slotBase (s : State) (p : PartN) (k : Nat) : Nat := (s.part p).saveBase.toNat * 2 ^ 22 + k * 2 ^ 22

/-- The address of the frame of a warp in the image of its group, while the warp is saved (R261, R265). -/
def State.savedFrame (s : State) (w : Warp) : Option Nat :=
  if w.sched.state ≠ .saved then none
  else
    (s.bolt? w.place.bid).bind fun b =>
      match b.save with
      | .saved slots _ _ => (slots.find? fun x => x.1 == w.place.gid).map fun x =>
          s.slotBase w.env.part x.2 + 0xE0000 + 0xA000 * w.place.widx.toNat
      | .resident | .named | .draining _ => none

/-- Keep the counters in the frame of a saved warp (R261). -/
def State.patchCounts (s : State) (wid : Nat) : State :=
  match s.warp? wid with
  | none => s
  | some w =>
    match s.savedFrame w with
    | none => s
    | some base =>
      let old := cellWord s.mem (base + 0x38) 8
      let new := old / 2 ^ 12 * 2 ^ 12 + 2 ^ 6 * w.cnt.sc.length + w.cnt.lc.length
      { s with mem := cellPutWord s.mem (base + 0x38) 8 new }

/-- An operation of a warp has finished: its counter falls, or, for a held atomic set aside at a
trap, the count that TRET reloads (R158, R251); for a saved warp the image follows (R261). -/
def State.finish (s : State) (wid op : Nat) : State :=
  (s.modWarp wid fun w =>
    { w with cnt := w.cnt.finish op, aside := w.aside.finish op }).patchCounts wid

/-- The counters of a warp as a WAIT record holds them (R297). -/
def Warp.counts (w : Warp) : BitVec 20 :=
  BitVec.ofNat 20 (lay [(16, w.cnt.tc.length), (12, w.cnt.cc.length), (6, w.cnt.sc.length),
    (0, w.cnt.lc.length)])

/-! ## Faults (R248, R250) -/

/-- Of two faults of one instruction, the one that is reported: the lower lane, and in a lane the
earlier check (R250); the lanes that failed are those of both. -/
def FaultRec.join (f g : FaultRec) : FaultRec :=
  let first := f.lane.toNat < g.lane.toNat ∨ (f.lane = g.lane ∧ f.order ≤ g.order)
  { (if first then f else g) with flanes := f.flanes ||| g.flanes }

/-- Add a fault to those of a warp that no trap has reported (R248). -/
def Warp.addFault (w : Warp) (f : FaultRec) : Warp :=
  if w.faults.any fun g => g.seq == f.seq then
    { w with faults := w.faults.map fun g => if g.seq = f.seq then g.join f else g }
  else { w with faults := w.faults ++ [f] }

/-- The oldest of the faults pending in a warp (R250). -/
def Warp.oldestFault (w : Warp) : Option FaultRec :=
  w.faults.foldl (fun o f =>
    match o with
    | none => some f
    | some g => if f.seq < g.seq then some f else some g) none

/-- What a trap reports of a pending fault (R250, R255): the older instruction's own fields, with
PRECISE and WORD zero; RMODE is 1 where R254 excludes the instruction. -/
def FaultRec.toTrap (f : FaultRec) (more : Bool) (pc : Word64) (widx : BitVec 2) : TrapRec where
  cause := f.cause
  addr := f.addr
  lane := f.lane
  flanes := f.flanes
  struct := f.struct
  space := f.space
  remoteTo := f.remoteTo
  fetch := false
  precise := false
  more := more
  rmode := f.excl
  word := 0
  pc := pc
  widx := widx

/-- What the warp's trap reports once it has drained (R250): the oldest pending fault where there is
one, which is older than a precise offender, and the precise offender otherwise. -/
def Warp.trapReport (w : Warp) (t : TrapRec) : TrapRec :=
  match w.oldestFault with
  | some f => f.toTrap (t.precise || decide (1 < w.faults.length)) t.pc t.widx
  | none => t

/-! ## Barriers (R167, R168, R444, R445) -/

/-- Whether an arrival of a warp has not reached its counter (R446). -/
def State.arriving (s : State) (wid : Nat) : Bool :=
  s.ops.any fun o => o.wid == wid &&
    match o.kind with
    | .arrive _ _ => true
    | .load | .store | .atomic _ _ _ | .fence => false

/-- The warps of a group that have exited, by their index in the group (R445); one whose arrival is on its way counts
only once that has reached its counter (R446). -/
def State.exitedMask (s : State) (g : Group) : Lanes :=
  (List.range 32).foldl (fun m i =>
    if i < g.warps ∧ (s.groupWarps g.gid).any (fun w =>
      w.place.widx.toNat == i && (!w.exited || s.arriving w.place.wid)) then m
    else m ||| BitVec.twoPow 32 i) 0

/-- Complete a generation of a named barrier where every member has arrived or exited and some warp
has arrived (R168, R445, R449). [DEDUCED, log 64] -/
def NamedBar.settle (b : NamedBar) (gone : Lanes) : NamedBar :=
  if b.begun && b.mask != 0 && (b.mask &&& ~~~(b.arrived ||| gone)) == 0 then
    ⟨b.gen + 1, b.next.getD b.mask, none, 0, false⟩
  else b

/-- Whether a group has arrived at a level through its copy of the named membership (R168, R444). -/
def LevelBar.complete (b : LevelBar) (gone : Lanes) : Bool := (b.mask &&& ~~~(b.arrived ||| gone)) == 0

/-- A group's copy once the level's generation has completed (R444). -/
def LevelBar.turn (b : LevelBar) : LevelBar := ⟨b.next.getD b.mask, none, 0, false⟩

/-- Settle the named barriers of a group. -/
def State.settleNamed (s : State) (gid : Nat) : State :=
  match s.group? gid with
  | none => s
  | some g =>
    let gone := s.exitedMask g
    s.modGroup gid fun g => { g with named := g.named.map fun b => b.settle gone }

/-- Settle bolt barrier `n` of a bolt (R168, R170, R445): a member group has arrived when its member
warps have arrived or exited, or when no warp of it remains. [DEDUCED, log 64] -/
def State.settleBolt1 (s : State) (bid : Nat) (n : Fin 8) : State :=
  match s.bolt? bid with
  | none => s
  | some b =>
    let gs := s.boltGroups bid
    let bar : BoltBar := b.bars[n]
    let arr := fun g : Group => !g.killed && (g.boltLvl[n]).complete (s.exitedMask g)
    let come := fun g : Group => (g.boltLvl[n]).arrived != 0 && arr g
    let s : State := { s with
      groups := s.groups.map fun g => if g.bid = bid ∧ come g then { g with arrivedBolt := true } else g }
    let arrived := (List.range 16).foldl (fun (m : BitVec 16) i =>
      if gs.all fun g => g.idx.toNat != i || arr g then m ||| BitVec.twoPow 16 i else m) 0
    if bar.begun && bar.mask != 0 && (bar.mask &&& ~~~arrived) == 0 then
      let s := s.modBolt bid fun b =>
        { b with bars := b.bars.set n ⟨bar.gen + 1, bar.next.getD bar.mask, none, 0, false⟩ }
      { s with
        groups := s.groups.map fun g =>
          if g.bid = bid then { g with boltLvl := g.boltLvl.set n (g.boltLvl[n]).turn } else g }
    else
      let some := gs.foldl (fun (m : BitVec 16) g =>
        if come g then m ||| BitVec.twoPow 16 g.idx.toNat else m) 0
      s.modBolt bid fun b => { b with bars := b.bars.set n { bar with arrived := some } }

/-- Settle the bolt barriers of a bolt. -/
def State.settleBolt (s : State) (bid : Nat) : State :=
  (List.finRange 8).foldl (fun s n => s.settleBolt1 bid n) s

/-! ## Beam tokens of a ply (R41, R168) -/

/-- Whether a group stands in a core: neither saved nor waiting for its relaunch. -/
def State.residentGroup (s : State) (g : Group) : Bool :=
  !g.killed &&
    (s.bolt? g.bid).elim true fun b =>
      match b.save with
      | .saved _ _ _ => false
      | .resident | .named | .draining _ => true

/-- The groups of a launch that are resident on a ply. -/
def State.plyGroups (s : State) (lid : Nat) (d : Die) : List Group :=
  s.groups.filter fun g => g.lid == lid && coreDie g.core == d && s.residentGroup g

/-- Put a token or transfer at the end of a ply's send queue (R33, R41). [DEDUCED, log 42] -/
def State.enqueue (s : State) (d : Die) (lid wid : Nat) (k : DentKind) : State :=
  let (id, s) := s.fresh
  s.modPly d fun p => { p with queue := p.queue ++ [⟨id, lid, wid, k, false⟩] }

/-- The entries of a ply's queue that come after the last LEAVE of a launch, and whether there is one: the
ARRIVE tokens before it no longer count (R41). -/
def State.sinceLeave (s : State) (lid : Nat) (d : Die) : Bool × List QEntry :=
  (s.ply d).queue.foldl (fun acc e =>
    match e.kind with
    | .leave l _ => if l = lid then (true, []) else (acc.1, acc.2 ++ [e])
    | _ => (acc.1, acc.2 ++ [e])) (false, [])

/-- Send ARRIVE for a beam barrier once every resident group of the launch on the ply has arrived (R168, R444, R445), which
takes a member among their warps (R449); each group's copy then waits for the generation's end.  A launch without slots on
the beam sends no token (R41). [DEDUCED, log 64] -/
def State.settleBeam (s : State) (lid : Nat) (d : Die) (n : Fin 8) : State :=
  let gs := s.plyGroups lid d
  let (left, toks) := s.sinceLeave lid d
  let gen := ((s.beam (dieBeam d)).reed.bars.find? fun b => b.lid == lid && b.n.toNat == n.val).elim 0 BeamBar.gen
  let queued := toks.any fun e =>
    match e.kind with
    | .arrive l m _ g _ => l == lid && m.toNat == n.val && g == gen
    | _ => false
  let counted := !left && (s.beam (dieBeam d)).reed.bars.any fun b =>
    b.lid == lid && b.n.toNat == n.val && b.arrived.getLsbD d.val
  if s.ownsSlot lid d && gs.any (fun g => (g.beamLvl[n]).mask != 0) &&
      gs.all (fun g => (g.beamLvl[n]).complete (s.exitedMask g)) && !queued && !counted then
    let wids := ((gs.flatMap fun g => (s.groupWarps g.gid).filter fun w =>
      (g.beamLvl[n]).arrived.getLsbD w.place.widx.toNat).map fun w => w.place.wid)
    s.enqueue d lid 0 (.arrive lid (BitVec.ofNat 3 n.val) d gen wids)
  else s

/-- A group of a launch has left a ply: the last one sends LEAVE, and otherwise the arrivals of those that
stay may complete (R41); a launch without slots on the beam sends no token. -/
def State.leavePly (s : State) (lid : Nat) (d : Die) : State :=
  if !s.ownsSlot lid d then s
  else if (s.plyGroups lid d).isEmpty then s.enqueue d lid 0 (.leave lid d)
  else (List.finRange 8).foldl (fun s n => s.settleBeam lid d n) s

/-- Settle every barrier that a change of a group's warps can complete (R445). -/
def State.settleGroup (s : State) (gid bid lid : Nat) (d : Die) : State :=
  (List.finRange 8).foldl (fun s n => s.settleBeam lid d n)
    ((s.settleNamed gid).settleBolt bid)

end Sys2Proof.Machine
end

