-- ==== Sys2Proof/Machine/Units.lean ====
section
/-! DEFINITION. The units of a copy (R184, R187, R188, R190 to R193): formats, the layout of tiles in scratch,
iterator records, where a unit goes and what writes it. -/

namespace Sys2Proof.Machine

/-! ## Formats and layout (R184, R187, R193, R421) -/

/-- Whether an FMT code is assigned (R187). -/
def fmtKnown (f : BitVec 4) : Bool := decide (f.toNat ≤ 3) || (decide (8 ≤ f.toNat) && decide (f.toNat ≤ 13))

/-- Whether an FMT code names an MX format (R187). -/
def fmtMx (f : BitVec 4) : Bool := decide (8 ≤ f.toNat)

/-- The bits of an element of an FMT code (R187). -/
def fmtBits (f : BitVec 4) : Nat :=
  match f.toNat with
  | 0 => 8
  | 1 => 16
  | 2 => 32
  | 3 => 64
  | 10 | 11 => 6
  | 12 => 4
  | _ => 8

/-- The blocks of an MX line of an FMT code (R193). -/
def fmtBlocks (f : BitVec 4) : Nat :=
  match fmtBits f with
  | 4 => 15
  | 6 => 10
  | _ => 7

/-- The elements of a unit (R188). -/
def fmtUnit (f : BitVec 4) : Nat := if fmtMx f then 32 else 1

/-- The parts of an element or block at a position of a row of lines, or of elements (R193): offset and
size in bytes. -/
def fmtParts (f : BitVec 4) (p : Nat) : List (Nat × Nat) :=
  if fmtMx f then
    let line := 256 * (p / fmtBlocks f)
    let j := p % fmtBlocks f
    let n := 4 * fmtBits f
    [(line + 16 + n * j, n), (line + j, 1)]
  else [(p * (fmtBits f / 8), fmtBits f / 8)]

namespace Tile

/-- The rows, or slots, of an entry. -/
def nrows (t : Tile) : Nat := t.rows.toNat + 1
/-- The elements of a row. -/
def ncols (t : Tile) : Nat := t.cols.toNat + 1
/-- The row or slot pitch in bytes. -/
def pitchBytes (t : Tile) : Nat := (t.pitch.toNat + 1) * 16
/-- The scratch offset of row 0. -/
def offset (t : Tile) : Nat := t.base.toNat * 16
/-- The bytes of a row (R184, R193). -/
def rowBytes (t : Tile) : Nat :=
  if fmtMx t.fmt then 256 * ((t.ncols / 32 + fmtBlocks t.fmt - 1) / fmtBlocks t.fmt)
  else t.ncols * (fmtBits t.fmt / 8)

/-- The scratch offset of a row of a plain entry, or of a slot of a counted one. -/
def rowAt (t : Tile) (r : Nat) : Nat := t.offset + r * t.pitchBytes

/-- The columns of a column group (R190). -/
def groupCols (t : Tile) : Nat := (t.ncols + 255) / 256

/-- Whether the layout of an entry obeys R184. [DEDUCED, log 26] -/
def layoutOk (t : Tile) (scratch : Nat) : Bool :=
  fmtKnown t.fmt &&
    (!fmtMx t.fmt ||
      (t.offset % 256 == 0 && t.pitchBytes % 256 == 0 && t.ncols % 32 == 0 &&
        decide (t.rowBytes ≤ t.pitchBytes))) &&
    decide (t.rowAt (t.nrows - 1) + t.rowBytes ≤ scratch) &&
    (!t.counted || decide (t.rowAt t.nrows ≤ scratch))

/-! ## Counted mode (R186) -/

/-- The slot that the next producer reserves. -/
def nextSlot (t : Tile) : BitVec 8 :=
  BitVec.ofNat 8 ((t.head.toNat + t.count.toNat + t.rsv.length) % t.nrows)

/-- Reserve a slot for a producer. -/
def reserve (t : Tile) (id : Nat) : Tile := { t with rsv := t.rsv ++ [⟨id, false⟩] }

/-- A producer's slot is complete; slots are counted in reservation order. -/
def finishSlot (t : Tile) (id : Nat) : Tile :=
  let rs := t.rsv.map fun r => if r.id = id then { r with done := true } else r
  let left := rs.dropWhile Reserve.done
  { t with rsv := left, count := t.count + BitVec.ofNat 9 (rs.length - left.length) }

/-- Consume the head slot. -/
def consume (t : Tile) : Tile :=
  { t with head := BitVec.ofNat 8 ((t.head.toNat + 1) % t.nrows), count := t.count - 1 }

end Tile

/-! ## Iterators (R187, R188) -/

namespace Iter

/-- The extents, innermost first. -/
def exts (i : Iter) : List Nat := i.dims.toList.map fun d => d.ext.toNat + 1

/-- The units of an iterator. -/
def count (i : Iter) : Nat := i.exts.foldl (· * ·) 1

/-- The index in each dimension of a unit. -/
def indices : List Nat → Nat → List Nat
  | [], _ => []
  | e :: es, n => n % e :: indices es (n / e)

/-- The number of the unit at which the resume counters stand. -/
def startAt : List Nat → List Nat → Nat
  | e :: es, c :: cs => c + e * startAt es cs
  | _, _ => 0

/-- The unit at which an iterator resumes. -/
def start (i : Iter) : Nat := startAt i.exts (i.dims.toList.map fun d => d.cnt.toNat)

/-- Set the resume counters to a unit's position. -/
def setCnt (i : Iter) (n : Nat) : Iter :=
  let at_ := indices i.exts n
  { i with dims := i.dims.mapIdx fun k d => { d with cnt := BitVec.ofNat 32 (at_.getD k 0) } }

/-- The source position of a unit (R188). -/
def position (i : Iter) (n : Nat) : Int :=
  ((indices i.exts n).zip i.dims.toList).foldl
    (fun p x => if x.2.bc then p else p + x.2.stride.toInt * (x.1 : Int)) 0

/-- The address of the line or element of a unit, and the parts of the unit from there (R188, R193). -/
def place (i : Iter) (n : Nat) : Word64 × List (Nat × Nat) :=
  let p := i.position n
  if fmtMx i.fmt then
    let b : Int := (fmtBlocks i.fmt : Nat)
    (i.base + BitVec.ofInt 64 (256 * (p / b)), fmtParts i.fmt (p % b).toNat)
  else (i.base + BitVec.ofInt 64 (p * ((fmtBits i.fmt / 8 : Nat) : Int)), fmtParts i.fmt 0)

/-- The address of a unit as a fault reports it: that of its elements, which for an MX format stand
apart from their scale (R188, R193, R256). -/
def unitAddr (i : Iter) (n : Nat) : Word64 :=
  let p := i.place n
  p.1 + BitVec.ofNat 64 (p.2.foldl (fun m x => Nat.max m x.1) 0)

/-- The record's 64 bytes (R187). -/
def bytes (i : Iter) : List Byte :=
  leBytes 8 i.base.toNat ++
    i.dims.toList.flatMap (fun d =>
      leBytes 8 (lay [(63, d.bc.toNat), (40, d.ext.toNat), (0, d.stride.toNat)])) ++
    leBytes 8 (lay [(5, i.vault.toNat), (4, i.tr.toNat), (0, i.fmt.toNat)]) ++
    i.dims.toList.flatMap fun d => leBytes 4 d.cnt.toNat

/-- The record in 64 bytes (R187). -/
def ofBytes (b : List Byte) : Iter :=
  let word := fun o n => leVal ((b.drop o).take n)
  let f := word 0x28 8
  { base := BitVec.ofNat 64 (word 0 8)
    dims := Vector.ofFn fun k =>
      let d := word (8 + 8 * k.val) 8
      ⟨d.testBit 63, BitVec.ofNat 23 (d / 2 ^ 40), BitVec.ofNat 40 d,
        BitVec.ofNat 32 (word (0x30 + 4 * k.val) 4)⟩
    vault := f.testBit 5
    tr := f.testBit 4
    fmt := BitVec.ofNat 4 f }

/-- Whether ITSET takes a record (R187, R413). -/
def okBytes (b : List Byte) : Bool :=
  let i := ofBytes b
  let f := leVal ((b.drop 0x28).take 8)
  decide (f < 64) && !i.tr && fmtKnown i.fmt &&
    i.dims.toList.all (fun d => decide (d.cnt.toNat ≤ d.ext.toNat + 1)) &&
    (!fmtMx i.fmt || i.base.toNat % 256 == 0) &&
    (if i.vault then bitsOf i.base 63 34 == 0 else bitsOf i.base 63 57 == 0)

end Iter

/-! ## Where a unit goes (R188, R190) -/

/-- The sweep count of the translation that a copy's next unit holds. -/
def UnitXlat.sweep? : UnitXlat → Option Nat
  | .none => Option.none
  | .at k _ => some k
  | .hole k => some k
  | .bad k _ => some k

/-- The locations that the translation of a unit names. -/
def UnitXlat.locs : UnitXlat → List Loc
  | .at _ ls => ls
  | .none | .hole _ | .bad _ _ => []

/-- Whether a copy leaves its entry. -/
def Copy.isOut (c : Copy) : Bool := c.kind == .out

/-- The row and column of a unit in an entry (R188). -/
def unitPlace (t : Tile) (tr : Bool) (n : Nat) : Nat × Nat :=
  let m := n * fmtUnit t.fmt
  if tr then (m % t.nrows, m / t.nrows) else (m / t.ncols, m % t.ncols)

/-- Whether HOLES of a copy's entry indexes columns: as it does already for a hole-filling copy. -/
def Copy.byCols (c : Copy) : Bool := if c.filling then c.src.hmc else c.tr

/-- The bit of HOLES that covers a row and column: the row, its column group, or the slot (R190,
R417). -/
def holeBit (t : Tile) (cols : Bool) (slot : Option (BitVec 8)) (p : Nat × Nat) : Nat :=
  match slot with
  | some k => k.toNat
  | none => if cols then p.2 / t.groupCols else p.1

/-- The bit of HOLES of a copy that covers a unit. -/
def Copy.bit (c : Copy) (n : Nat) : Nat := holeBit c.src c.byCols c.slot (unitPlace c.src c.tr n)

/-- Whether a copy moves a unit (R190, R417): all of them, but for rows that are not holes of a
hole-filling copy, and for holes of a plain copy out. -/
def Copy.wants (c : Copy) (n : Nat) : Bool :=
  match c.kind with
  | .inn => !c.filling || c.oldHoles.getLsbD (c.bit n)
  | .out => c.src.counted ||
      !c.oldHoles.getLsbD (holeBit c.src c.src.hmc none (unitPlace c.src c.tr n))
  | .mcast _ => true

/-- The next unit that a copy moves, among the next few units. [DEDUCED, log 27] -/
def Copy.seek (c : Copy) : Nat → Nat → Option Nat
  | 0, _ => none
  | k + 1, n => if c.wants n then some n else c.seek k (n + 1)

/-- The next unit that a copy moves. [DEDUCED, log 27] -/
def Copy.nextUnit (c : Copy) : Option Nat := c.seek (c.total - c.next) c.next

/-- The first unit of the row or column group of a HOLES bit. -/
def Copy.firstOf (c : Copy) (bit : Nat) : Nat :=
  match c.slot with
  | some _ => 0
  | none =>
    if c.byCols then (if c.tr then bit * c.src.groupCols * c.src.nrows else bit * c.src.groupCols)
    else if c.tr then bit
    else (bit * c.src.ncols + fmtUnit c.src.fmt - 1) / fmtUnit c.src.fmt

/-- The last unit of the row or column group of a HOLES bit. -/
def Copy.lastOf (c : Copy) (bit : Nat) : Nat :=
  match c.slot with
  | some _ => c.total - 1
  | none =>
    let cols := min ((bit + 1) * c.src.groupCols) c.src.ncols
    if c.byCols then (if c.tr then cols * c.src.nrows - 1 else (c.src.nrows - 1) * c.src.ncols + cols - 1)
    else if c.tr then (c.src.ncols - 1) * c.src.nrows + bit
    else ((bit + 1) * c.src.ncols + fmtUnit c.src.fmt - 1) / fmtUnit c.src.fmt - 1

/-- The parts of a position of an entry's scratch: offset and size (R188, R193). -/
def tileParts (t : Tile) (slot : Option (BitVec 8)) (p : Nat × Nat) : List (Nat × Nat) :=
  let row := match slot with
    | some k => k.toNat
    | none => p.1
  (fmtParts t.fmt (p.2 / fmtUnit t.fmt)).map fun x => (t.rowAt row + x.1, x.2)

/-! ## Held stores (R243, R402) -/

/-- Overlay the bytes of a store on bytes read from a location. -/
def overlay (x : Loc) (bs : List Byte) (y : Loc) (ys : List Byte) : List Byte :=
  bs.zipIdx.map fun b =>
    match ys.zipIdx.find? fun c => y.plus c.2 == x.plus b.2 with
    | some c => c.1
    | none => b.1

/-- Overlay the bytes of runs of writes, in order, on bytes read from a location. -/
def overlayAll (x : Loc) (bs : List Byte) (rs : List (Loc × List Byte)) : List Byte :=
  rs.foldl (fun bs r => overlay x bs r.1 r.2) bs

/-- The bytes of a held store chunk that are written (R402). -/
def HEntry.runs (e : HEntry) : List (Loc × List Byte) :=
  (List.range 8).filterMap fun i =>
    if e.mask.getLsbD i then some (.phys (e.pa + i), [BitVec.ofNat 8 (e.data.toNat / 256 ^ i)])
    else none

/-- The held stores of a bolt, in the order in which they entered its buffers (R243). -/
def State.heldStores (s : State) (bid : Nat) : List HEntry :=
  sortBy (fun a b => decide (a.order ≤ b.order)) (s.held.filter fun e => e.bid == bid && !e.atomic)

/-- Whether one held entry comes before another, or with it, in the order of the keys (R245, R478). -/
def HEntry.before (a b : HEntry) : Bool :=
  let key := fun e : HEntry => lay [(64, e.group.toNat), (56, e.warp.toNat), (48, e.lane.toNat), (0, e.seq.toNat)]
  decide (key a ≤ key b)

/-- The held stores of a bolt in the order of their keys (R478). -/
def State.keyStores (s : State) (bid : Nat) : List HEntry :=
  sortBy HEntry.before (s.held.filter fun e => e.bid == bid && !e.atomic)

/-- Whether a held store entered its bolt's buffers after another; of one instruction the higher lane's did (R224,
R243). -/
def HEntry.later (a b : HEntry) : Bool :=
  decide (b.order < a.order) || (a.order == b.order && decide (b.lane.toNat < a.lane.toNat))

/-- A held store without the bytes that a later one of some others writes too, which stands (R243). -/
def HEntry.last (e : HEntry) (others : List HEntry) : HEntry :=
  let newer := others.filter fun h => h.later e
  { e with
    mask := (List.range 8).foldl (fun (m : BitVec 8) i =>
      if newer.any fun h => h.runs.any fun r => r.1 == .phys (e.pa + i) then m &&& ~~~(BitVec.twoPow 8 i) else m) e.mask }

/-! ## Both sides of a unit (R173, R190, R192, R243) -/

/-- The checks of a vault access by a copy: any die of the grant (R105, R173). -/
def LaunchEnv.vaultGrant (e : LaunchEnv) (a : Word64) (store : Bool) : Bool :=
  bitsOf a 63 34 == 0 && decide (bitsOf a 30 25 ≤ 47) && e.vply.getLsbD (bitsOf a 33 31) &&
    decide (e.vlo.toNat ≤ bitsOf a 30 25) && decide (bitsOf a 30 25 ≤ e.vhi.toNat) && (!store || e.vwr)

/-- The entry that a group's tile name maps (R183). -/
def State.tile (s : State) (gid : Nat) (n : TileName) : Option Tile :=
  (s.group? gid).map fun g => g.tiles[n.toNat]

/-- Change the entry of a tile name. -/
def State.modTile (s : State) (gid : Nat) (n : TileName) (f : Tile → Tile) : State :=
  s.modGroup gid fun g => { g with tiles := g.tiles.set n.toNat (f g.tiles[n.toNat]) }

/-- Whether a tile receives a multicast copy: armed, and not taken by another copy (R192). -/
def Tile.receives (t : Tile) (id : Nat) (first : Bool) : Bool :=
  t.mapped && !t.counted && t.arm && t.state == .filling &&
    (if first then t.rsv.isEmpty else t.rsv.any fun r => r.id == id)

/-- The groups of a copy's bolt that receive it through their entry of its name (R192). [DEDUCED, log 28] -/
def State.receivers (s : State) (c : Copy) (mask : BitVec 48) (first : Bool) : List Nat :=
  (s.groups.filter fun g =>
    g.bid == c.bid && s.residentGroup g && mask.getLsbD (coreCluster g.core % 48) &&
      (g.tiles[c.name.toNat]).receives c.id first).map Group.gid

/-- Whether a copy fills its own entry; for a multicast copy, as its issue decided (R192). -/
def Copy.ownEntry (c : Copy) : Bool :=
  match c.kind with
  | .inn => true
  | .out => false
  | .mcast mask => mask.getLsbD (c.origin % 48)

/-- The groups into whose entries a copy writes. -/
def State.copyDests (s : State) (c : Copy) : List Nat :=
  (if c.ownEntry then [c.gid] else []) ++
    match c.kind with
    | .mcast mask => s.receivers c mask false
    | .inn | .out => []

/-- The slot of a destination: that of the copy in its own entry. -/
def Copy.slotIn (c : Copy) (gid : Nat) : Option (BitVec 8) := if gid = c.gid then c.slot else none

/-- The bytes of the far side of a unit, the bolt's held stores included (R243), or the structure of a
word of it with an uncorrectable error (R273), with the cause that reports it; a peer may reject the access (R56).  A read
of memory revokes the ownership of what it reads (R227). -/
def State.farBytes (s : State) (w : Warp) (loc : Loc) (n : Nat) :
    Except (BitVec 8 × BitVec 4) (List Byte) × State :=
  let laid := fun bs => overlayAll loc bs ((s.heldStores w.place.bid).flatMap HEntry.runs)
  match s.poisonAt loc n with
  | some q => (.error (0x19, q.struct), s)
  | none =>
    if loc.remote then
      match s.askRemote (dieBeam (coreDie w.place.core)) loc.addr.toNat n with
      | (some bs, s) => (.ok (laid bs), s)
      | (none, s) => (.error (0x10, 0), s)
    else
      match loc with
      | .phys pa =>
        let s := s.l1Recall none pa n
        (.ok (laid (s.homeBytes loc n)), s.l1Revoke pa n)
      | .scratch _ _ | .vault _ | .reed _ _ => (.ok (laid (s.homeBytes loc n)), s)

/-- The parts of a unit in the scratch of a copy's own entry. -/
def Copy.near (c : Copy) (n : Nat) : List (Nat × Nat) :=
  tileParts c.src c.slot (unitPlace c.src c.tr n)

/-- A unit of a copy out is written to its far side (R188, R241). -/
def State.unitOut (s : State) (c : Copy) (w : Warp) (n : Nat) (loc : Loc) : State :=
  ((c.src.iter.place n).2.zip (c.near n)).foldl (fun s x =>
    let bs := s.homeBytes (.scratch c.gid x.2.1) x.2.2
    match loc with
    | .phys pa =>
      if isRemote pa then s.sendStore (dieBeam (coreDie w.place.core)) (pa + x.1.1) bs
      else s.putMem w.place.core c.id (pa + x.1.1) bs
    | .scratch _ _ | .vault _ | .reed _ _ => s.putHomeBy c.id (loc.plus x.1.1) bs) s

/-- The far side of a unit of a copy in, part by part. -/
def State.unitFar (s : State) (c : Copy) (w : Warp) (n : Nat) (loc : Loc) :
    Except (BitVec 8 × BitVec 4) (List (List Byte)) × State :=
  (c.src.iter.place n).2.foldl (fun (r : Except (BitVec 8 × BitVec 4) (List (List Byte)) × State) x =>
    match r with
    | (.error e, s) => (.error e, s)
    | (.ok bs, s) =>
      match s.farBytes w (loc.plus x.1) x.2 with
      | (.ok b, s) => (.ok (bs ++ [b]), s)
      | (.error e, s) => (.error e, s)) (.ok [], s)

/-- Write the bytes of a unit into the entries of a copy in, but for rows that are holes (R190).
[DEDUCED, log 29] -/
def State.unitIn (s : State) (c : Copy) (n : Nat) (parts : List (List Byte)) : State :=
  (s.copyDests c).foldl (fun s gid =>
    match s.tile gid c.name with
    | none => s
    | some t =>
      let p := unitPlace t c.tr n
      let slot := c.slotIn gid
      let holes := if gid = c.gid then c.holes else t.holes
      if t.nrows ≤ p.1 || t.ncols ≤ p.2 || holes.getLsbD (holeBit t c.byCols slot p) then s
      else
        ((tileParts t slot p).zip parts).foldl (fun s x =>
          s.fillScratch c.id gid x.1.1 x.2) s) s

end Sys2Proof.Machine
end

