-- ==== Sys2Proof/Machine/Ops.lean ====
section
/-! DEFINITION. The named operations that the instructions share: killing a group (R272), taking a trap (R247
to R252, R257) and returning from one (R255, R465, R466), and transfers of control (R151, R308). -/

namespace Sys2Proof.Machine

/-! ## Killing a group (R272) -/

/-- An element of a store that is cut off has performed or not, freely (R272); one that has been sent to a peer
performs there. -/
def State.cutElem (s : State) (o : Op) (e : Elem) : State :=
  let (i, s) := s.draw
  if e.state == .performed || s.vaultDown e.loc || !Config.cutPerformed i then s
  else
    let bs := leBytes e.size e.data.toNat
    match e.loc with
    | .phys pa => if isRemote pa then s else s.putMem o.core o.id pa bs
    | .scratch _ _ | .vault _ | .reed _ _ => s.putHomeBy o.id e.loc bs

/-- The stores of an operation that is cut off perform or not, element by element (R272). -/
def State.cutOff (s : State) (o : Op) : State :=
  if o.kind == .store then o.elems.foldl (fun s e => s.cutElem o e) s else s

/-- A unit of a copy that is cut off has been written or not, freely (R272). [DEDUCED, log 17] -/
def State.cutUnit (s : State) (c : Copy) (w : Warp) (n : Nat) : State :=
  let (i, s) := s.draw
  if !Config.cutPerformed i then s
  else
    let p := c.src.iter.place n
    let r :=
      if c.src.iter.vault then
        (if w.env.vaultGrant p.1 c.isOut then some (.vault p.1.toNat) else none, s)
      else
        match s.resolveVa w (if c.isOut then .store else .load) p.1 false with
        | (.ok loc _ _, s) => (some loc, s)
        | (.zero _, s) => (none, s)
        | (.bad _ _ _, s) => (none, s)
    match r with
    | (none, s) => s
    | (some loc, s) =>
      if s.vaultDown loc then s
      else if c.isOut then s.unitOut c w n loc
      else
        match s.unitFar c w n loc with
        | (.ok bs, s) => s.unitIn c n bs
        | (.error _, s) => s

/-- The units that a copy which is cut off has not moved have been written or not (R272). -/
def State.cutCopy (s : State) (c : Copy) : State :=
  if !c.running || c.stopped then s
  else (s.warp? c.wid).elim s fun w =>
    (((List.range c.total).drop c.next).filter c.wants).foldl (fun s n => s.cutUnit c w n) s

/-- Free the spill slots of a partition whose entries have all been read back or discarded (R270, R403). -/
def State.freeSpills (s : State) (p : PartN) (ks : List Nat) : State :=
  let gone := ks.filter fun k => !s.held.any fun e => e.spilled.map Prod.fst == some k
  s.modPart p fun r => { r with used := r.used.filter fun k => !gone.contains k }

/-- The partition of a launch. -/
def State.partOf (s : State) (lid : Nat) : PartN := (s.launch? lid).elim 0 Launch.part

/-- A group no longer owns a plane of a loom (R267). -/
def Loom.disown (l : Loom) (gid : Nat) : Loom :=
  let drop := fun p : Plane => if p.owner = some gid then { p with owner := none } else p
  { l with active := drop l.active, shadow := drop l.shadow }

/-- The requests of a group leave a loom. -/
def Loom.dropReqs (l : Loom) (gid : Nat) : Loom :=
  { l with reqs := l.reqs.filter fun r => r.gid != gid }

/-- Discard the warps of a group and everything that is in flight for it (R272, R159); what their private stores have
written is in memory from then on (R178). -/
def State.discard (s : State) (gid : Nat) : State :=
  let s := (s.ops.filter fun o => o.gid == gid).foldl State.cutOff s
  let s := (s.copies.filter fun c => c.gid == gid).foldl State.cutCopy s
  let s := (s.groupWarps gid).foldl (fun s w => s.l1Exit w.place.wid) s
  let spills := ((s.held.filter fun e => e.gid == gid).filterMap HEntry.spilled).map Prod.fst
  let p := (s.group? gid).elim 0 fun g => s.partOf g.lid
  let s : State := { s with
    ops := s.ops.filter fun o => o.gid != gid
    held := s.held.filter fun e => e.gid != gid
    copies := s.copies.filter fun c => c.gid != gid
    looms := s.looms.map fun (x : Nat × Loom) => (x.1, (x.2.disown gid).dropReqs gid)
    poison := s.poison.filter fun q =>
      match q.loc with
      | .scratch h _ => h != gid
      | _ => true
    regPoison := s.regPoison.filter fun q =>
      match q with
      | .acc g _ _ _ => g != gid
      | .lane wid _ _ => !((s.groupWarps gid).any fun w => w.place.wid == wid)
      | .scale wid _ => !((s.groupWarps gid).any fun w => w.place.wid == wid)
    w := if s.w.place.gid = gid ∧ s.w.place.wid ≠ 0 then Warp.free else s.w
    rest := s.rest.filter fun w => w.place.gid != gid
    groups := s.groups.filter fun g => g.gid != gid }
  if spills.isEmpty then s else s.freeSpills p spills

/-- A request of PREEMPTp no longer waits for a bolt; `n` is 1 where it has handled it (R269). -/
def State.unpend (s : State) (p : PartN) (bid n : Nat) : State :=
  s.modPart p fun r =>
    if r.pending.contains bid then
      let left := r.pending.filter fun b => b != bid
      { r with
        pending := left
        preBusy := !left.isEmpty
        preDone := BitVec.ofNat 16 (min 0xFFFF (r.preDone.toNat + n)) }
    else r

/-- A bolt that is not saved has finished once all its warps have exited (R129); a request that waits to
save it waits no longer (R269). -/
def State.boltDone (s : State) (bid : Nat) : State :=
  match s.bolt? bid with
  | none => s
  | some b =>
    let stays :=
      match b.save with
      | .resident | .named | .draining _ => true
      | .saved _ _ _ => (s.boltGroups bid).isEmpty
    if stays && (s.boltWarps bid).all Warp.exited && (s.boltGroups bid).all (fun g => !g.killed) then
      (s.modBolt bid fun b => { b with finished := true, save := .resident }).unpend (s.partOf b.lid) bid 0
    else s

/-- Record a kill in GKILLp (R272). -/
def State.recordKill (s : State) (g : Group) (cause : BitVec 8) : State :=
  match s.launch? g.lid with
  | none => s
  | some l =>
    let slots := (s.groupWarps g.gid).map fun w => w.place.slot.toNat
    let low := slots.foldl min 31
    s.modPart l.part fun p =>
      { p with
        killCount := if p.killCount = 0xFFFF then p.killCount else p.killCount + 1
        killCause := cause
        killCtx := BitVec.ofNat 4 l.ctx.val
        killCore := BitVec.ofNat 11 g.core
        killSlot := BitVec.ofNat 5 low }

/-- Kill a group (R272): record it, discard its warps and what is in flight, take it out of its
bolt's barriers, and settle those. -/
def State.removeGroup (s : State) (g : Group) (cause : BitVec 8) : State :=
  let d := coreDie g.core
  let here := s.residentGroup g
  let s := (s.groupWarps g.gid).foldl (fun s w =>
    if w.sched.state = .saved then s else s.recordEnd w 3) (s.recordKill g cause)
  let s := s.discard g.gid
  let out := ~~~(BitVec.twoPow 16 g.idx.toNat)
  let s := s.modBolt g.bid fun b =>
    { b with bars := b.bars.map fun r => { r with mask := r.mask &&& out, next := r.next.map (· &&& out) } }
  let s := (s.settleBolt g.bid).boltDone g.bid
  if here then s.leavePly g.lid d else s

/-- Kill a group, so that its launch completes as faulted (R272, R102). -/
def State.kill (s : State) (gid : Nat) (cause : BitVec 8) : State :=
  match s.group? gid with
  | none => s
  | some g => (s.removeGroup g cause).modLaunch g.lid fun l => { l with faulted := true }

/-- The group that stands for a killed one until it is relaunched (R135, R137): fresh contents, the
same coordinate and private numbers, and the answers of the killed group to be given again.
[DEDUCED, log 52] -/
def Group.stub (g : Group) (count : Bool) : Group :=
  { g with
    killed := true
    scratch := []
    accs := []
    fetches := []
    replay := g.answered ++ g.replay
    answered := []
    relaunch := if count then g.relaunch + 1 else g.relaunch }

/-- Discard a group and leave a stub of it to be relaunched (R135). [DEDUCED, log 52] -/
def State.stubGroup (s : State) (g : Group) (count : Bool) : State :=
  let s := (s.groupWarps g.gid).foldl (fun s w => s.recordEnd w 3) s
  let s := s.discard g.gid
  { s with groups := s.groups ++ [g.stub count] }

/-- A save of a bolt that one of its groups' relaunch overtakes is given up: the bolt's copies go on, and its other warps,
whose loads the save has cut off, start again at their region entries, as after a discard (R135, R264); a request of
system software still names the bolt (R269). [DEDUCED, log 52] -/
def State.giveUpSave (s : State) (b : Bolt) : State :=
  match b.save with
  | .draining byHost =>
    let s := s.modBolt b.bid fun b => { b with save := if byHost then .named else .resident }
    let s : State := { s with copies := s.copies.map fun c => if c.bid = b.bid then { c with paused := false } else c }
    (s.boltWarps b.bid).foldl (fun s w => s.modWarp w.place.wid fun w =>
      if w.exited then w
      else
        { w with
          ctl := w.region.ctl
          pc := w.region.pc
          widx := w.region.widx
          packet := none
          busy := .none
          flushing := false
          waitRec := w.counts
          sched := { w.sched with hold := none, blocked := false } }) s
  | .resident | .named | .saved _ _ _ => s

/-- An uncorrectable scratch error has been read (R135, R136, R272): in an idem launch the group, or
its whole bolt where it has arrived at a bolt barrier, is discarded to be relaunched, three times at
most; otherwise the group, or the whole bolt, is killed and the launch completes as faulted.  A group counts the
relaunches of it alone, and a bolt those of it as a whole; a struck group that has used up its own is killed alone.
[DESIGN CHOICE, log 52] -/
def State.scratchKill (s : State) (gid : Nat) : State :=
  match s.group? gid with
  | none => s
  | some g =>
    let idem := (s.launch? g.lid).elim false fun l => l.desc.attr.getLsbD 1
    match s.bolt? g.bid with
    | none => s.kill gid 0x19
    | some b =>
      let alone := b.groups == 1 || !g.arrivedBolt
      if !idem || 3 ≤ g.relaunch then s.kill gid 0x19
      else if !alone && 3 ≤ b.relaunch then
        let others := (s.boltGroups g.bid).filter fun h => h.gid != gid
        (others.foldl (fun s h => s.kill h.gid 0x19) s).kill gid 0x19
      else
        let s := (s.recordKill g 0x19).giveUpSave b
        if alone then
          let s := (s.stubGroup g true).settleBolt g.bid
          s.leavePly g.lid (coreDie g.core)
        else
          let s := (s.boltGroups g.bid).foldl (fun s h => s.stubGroup h false) s
          let s := { s with groups := s.groups ++ b.gone }
          let s := s.modBolt g.bid fun b =>
            { b with again := true, gone := [], relaunch := b.relaunch + 1 }
          s.leavePly g.lid (coreDie g.core)

/-! ## The trap frame (R257) -/

/-- An entry of the mask stack as the frame holds it (R349). -/
def MaskEntry.toNat (e : MaskEntry) : Nat := e.rest.toNat + 2 ^ 32 * e.outer.toNat

/-- An entry of the mask stack from its frame word (R349). -/
def MaskEntry.ofNat (n : Nat) : MaskEntry := ⟨BitVec.ofNat 32 (n / 2 ^ 32), BitVec.ofNat 32 n⟩

/-- Lay out fields, each a value and the bit its lowest bit takes. -/
def packBits (fs : List (Nat × Nat)) : Nat := lay fs

/-- What a frame records beside the trap: in a group image, that it is one, the counters and the
wake fields (R257, R262). -/
structure FrameExtra where
  preempt : Bool
  lc : Nat
  sc : Nat
  cc : Nat
  tc : Nat
  wake : Nat
  wobj : Nat
  wdetail : Nat
  deriving DecidableEq, Repr

/-- The header of a frame, as byte offsets, sizes and values (R257). -/
def frameHeader (w : Warp) (t : TrapRec) (x : FrameExtra) : List (Nat × Nat × Nat) :=
  [(0x00, 8, t.pc.toNat), (0x08, 8, w.region.pc.toNat),
   (0x10, 8, packBits [(60, w.region.widx.toNat), (55, t.lane.toNat), (51, t.struct.toNat),
     (48, t.space.toNat), (47, x.preempt.toNat), (46, t.rmode.toNat), (45, t.more.toNat),
     (44, t.remoteTo.toNat), (43, t.fetch.toNat), (42, t.precise.toNat), (40, t.widx.toNat),
     (32, t.cause.toNat), (0, w.region.seq.toNat)]),
   (0x18, 8, t.addr.toNat),
   (0x20, 8, packBits [(32, t.word.toNat), (0, t.flanes.toNat)]),
   (0x28, 8, packBits [(32, w.region.ctl.am.toNat), (0, w.ctl.am.toNat)]),
   (0x30, 8, packBits [(54, w.ctl.stack.length), (51, w.region.ctl.part.code),
     (48, w.ctl.part.code),
     (32, (List.range w.env.pregs).foldl (fun n i =>
       n + (if w.holds (BitVec.ofNat 4 i) then 2 ^ i else 0)) 0),
     (0, w.rmask.toNat)]),
   (0x38, 8, packBits [(20, w.region.ctl.stack.length), (16, x.tc), (12, x.cc), (6, x.sc),
     (0, x.lc)]),
   (0x40, 4, (w.regs.ix[0]).toNat), (0x44, 4, (w.regs.ix[1]).toNat),
   (0x48, 4, (w.regs.ix[2]).toNat), (0x4C, 4, (w.regs.ix[3]).toNat),
   (0x50, 8, w.ctl.draw.toNat), (0x58, 8, w.region.ctl.draw.toNat),
   (0x60, 8, packBits [(16, x.wdetail), (8, x.wobj), (0, x.wake)]),
   (0x68, 8, w.mwAddr.toNat), (0x70, 8, w.mwOld.toNat),
   (0x78, 8, packBits [(16, w.place.num.toNat), (0, w.env.vregs)])] ++
  (List.range w.env.pregs).map fun i => (0x80 + 4 * i, 4, (w.pget (BitVec.ofNat 4 i)).toNat)

/-- The mask stacks of a frame, entry 0 at the bottom (R257). -/
def frameStack (at_ : Nat) (es : List MaskEntry) : List (Nat × Nat × Nat) :=
  es.reverse.zipIdx.map fun e => (at_ + 8 * e.2, 8, e.1.toNat)

/-- Whether a lane of a vector register has an uncorrectable error (R194). -/
def State.laneBad (s : State) (wid i l : Nat) : Bool :=
  s.regPoison.any fun q => q == .lane wid (BitVec.ofNat 8 i) (BitVec.ofNat 5 l)

/-- Whether a scale register has an uncorrectable error (R194). -/
def State.scaleBad (s : State) (wid i : Nat) : Bool :=
  s.regPoison.any fun q => q == .scale wid (BitVec.ofNat 8 i)

/-- The register images of a frame: only those of the allotment; a word with an uncorrectable error
is stored as zero and its poison bit set (R257, R274). -/
def State.frameRegs (s : State) (w : Warp) : List (Nat × Nat × Nat) :=
  let wid := w.place.wid
  (List.range w.env.sregs).map (fun i => (0x300 + 8 * i, 8, (w.sget (BitVec.ofNat 6 i)).toNat)) ++
  (List.range w.env.vregs).map (fun i =>
    (0x1000 + 8 * i, 8, if s.scaleBad wid i then 0 else (w.kget i).toNat)) ++
  (List.range w.env.vregs).flatMap (fun i =>
    (List.range 32).map fun l =>
      (0x2000 + 128 * i + 4 * l, 4, if s.laneBad wid i l then 0 else (w.lane i l).toNat)) ++
  (s.regPoison.filterMap fun q =>
    match q with
    | .lane v r l => if v = wid then some (r.toNat, l.toNat) else none
    | _ => none).foldl (fun acc rl =>
      let at_ := 0x500 + 4 * rl.1
      let old := (acc.find? fun a => a.1 == at_).elim 0 fun a => a.2.2
      (at_, 4, Nat.lor old (2 ^ rl.2)) :: acc.filter fun a => a.1 != at_) [] ++
  (s.regPoison.filterMap fun q =>
    match q with
    | .scale v r => if v = wid then some r.toNat else none
    | _ => none).foldl (fun acc r =>
      let at_ := 0x900 + r / 8
      let old := (acc.find? fun a => a.1 == at_).elim 0 fun a => a.2.2
      (at_, 1, Nat.lor old (2 ^ (r % 8))) :: acc.filter fun a => a.1 != at_) []

/-- Write words at offsets, each of which lies where `at_` says. -/
def putWordsAt (m : List Host.Cell) (at_ : Nat → Nat) (ws : List (Nat × Nat × Nat)) : List Host.Cell :=
  ws.foldl (fun m f => cellPutWord m (at_ f.1) f.2.1 f.2.2) m

/-- Write words at byte offsets from a base. -/
def putWords (m : List Host.Cell) (base : Nat) (ws : List (Nat × Nat × Nat)) : List Host.Cell :=
  putWordsAt m (base + ·) ws

/-- The parts of a frame that are written whatever they hold: the header but for the masks of predicates beyond the
allotment, the mask stacks, the poison bits and the reserved bytes (R257). -/
def frameClears (e : LaunchEnv) : List (Nat × Nat) :=
  [(0, 0x80 + 4 * e.pregs), (0xC0, 0x240), (0x500, 0xB00), (0x1800, 0x800)]

/-- Write a frame, whose offsets lie where `at_` says: reserved bytes as zero, registers beyond the allotment not
at all (R257). -/
def State.putFrame (s : State) (m : List Host.Cell) (at_ : Nat → Nat) (w : Warp) (t : TrapRec)
    (x : FrameExtra) : List Host.Cell :=
  let m := (frameClears w.env).foldl (fun m r => cellClear m (at_ r.1) r.2) m
  putWordsAt m at_ (frameHeader w t x ++ frameStack 0x100 w.ctl.stack ++
    frameStack 0x200 w.region.ctl.stack ++ s.frameRegs w)

/-! ## Taking a trap (R251) -/


/-- The ranges of a frame that are written (R257): header, mask stacks, poison bits, reserved bytes and the
registers of the allotment. -/
def frameWrites (e : LaunchEnv) : List (Nat × Nat) :=
  frameClears e ++ [(0x300, 8 * e.sregs), (0x1000, 8 * e.vregs), (0x2000, 128 * e.vregs)]

/-- The pieces of ranges of a frame, none across a 4 KiB granule, as offsets and lengths. -/
def framePieces (rs : List (Nat × Nat)) : List (Nat × Nat) :=
  (rs.filter fun r => r.2 != 0).flatMap fun r => (granules r.1 r.2).map fun g => (g.1, g.2.2)

/-- Where an offset of a frame lies, from where its granules lie. -/
def placeIn (pas : List Nat) (off : Nat) : Nat := pas.getD (off / 4096) 0 + off % 4096

/-- Whether an address lies in one of some ranges of memory. -/
def inRanges (rs : List (Nat × Nat)) (a : Nat) : Bool :=
  rs.any fun r => decide (r.1 ≤ a) && decide (a < r.1 + r.2)

/-- A held store without its bytes in some ranges; none is left of one that lies in them. -/
def HEntry.without (e : HEntry) (rs : List (Nat × Nat)) : Option HEntry :=
  let m := (List.range 8).foldl (fun (m : BitVec 8) i =>
    if e.mask.getLsbD i && !inRanges rs (e.pa + i) then m ||| BitVec.twoPow 8 i else m) 0
  if m = 0 then none else some { e with mask := m }

/-- A frame has been written to some ranges.  What the warp wrote there before is older: the bolt's held stores lose
their bytes there (R225, R251); the words are sound (R194), and no L1 has them or owns them (R227); their lines were asked
for (R305), and the bytes of a versioned page of a closed domain are in both its frames (R220). [DEDUCED, log 32] -/
def State.frameWritten (s : State) (w : Warp) (rs : List (Nat × Nat)) : State :=
  let s : State := { s with
    held := s.held.filterMap fun e => if e.bid == w.place.bid && !e.atomic then e.without rs else some e
    poison := rs.foldl (fun ps r => ps.filterMap fun q => q.written 0 (.phys r.1) r.2) s.poison }
  let s := rs.foldl (fun s r => (((s.l1Yield r.1 r.2).mirror r.1 (cellBytes s.mem r.1 r.2)).l1Revoke r.1 r.2).l1Drop
    w.place.core r.1 r.2) s
  s.askLines (some (coreDie w.place.core)) rs

/-- The virtual address of a warp's frame (R251). -/
def State.frameVa (s : State) (w : Warp) : Word64 :=
  BitVec.ofNat 64 ((s.part w.env.part).tfBase.toNat * 2 ^ 16 + w.place.num.toNat * 2 ^ 16)

/-- The address of the handler's first packet (R258). -/
def State.handlerVa (s : State) (p : PartN) : Word64 := BitVec.ofNat 64 ((s.part p).trapVa.toNat * 2 ^ 8)

/-- Whether a token counts a held ordered-mode atomic (R251, R401). -/
def State.heldToken (s : State) (t : Token) : Bool := s.held.any fun e => e.atomic && e.op == t.op

/-- Whether a warp has drained: every operation that its counters count has finished, but for held
ordered-mode atomics (R251). -/
def State.drained (s : State) (w : Warp) : Bool :=
  w.cnt.cc.isEmpty && w.cnt.tc.isEmpty && w.cnt.lc.all (fun t => t.done || s.heldToken t) &&
    w.cnt.sc.all (fun t => t.done || s.heldToken t)

/-- The warp as the handler begins (R251). -/
def Warp.enterHandler (w : Warp) (pc frame : Word64) (cause : BitVec 8) : Warp :=
  let w := (w.sset 1 frame).sset 2 (cause.zeroExtend 64)
  { w with
    pc := pc
    widx := 0
    handler := true
    ctl := { Control.start with draw := w.ctl.draw }
    aside := { w.cnt with lc := w.cnt.lc.filter fun t => !t.done, sc := w.cnt.sc.filter fun t => !t.done }
    cnt := Counters.zero
    faults := []
    trap := none
    busy := .none
    packet := none
    flushing := false
    waitRec := 0
    sched := { w.sched with hold := none, blocked := false } }

/-- The granules of a warp's frame, each at the home that its mapping names (R202, R212), or the cause of the fault. -/
def State.framePas (s : State) (w : Warp) (acc : Access) : Except (BitVec 8) (List Nat) × State :=
  let step := fun (r : Except (BitVec 8) (List Nat) × State) (i : Nat) =>
    match r with
    | (.error e, s) => (Except.error e, s)
    | (.ok as, s) =>
      match s.translate w.xctx acc (s.frameVa w + BitVec.ofNat 64 (4096 * i)) true with
      | (.protect, s) => (.error 0x10, s)
      | (.nonres, s) => (.error 0x11, s)
      | (.ok pa home, s) =>
        let (a, s) := s.atHome pa home
        (.ok (as ++ [a]), s)
  let r := (List.range ((0x2000 + 128 * w.env.vregs + 4095) / 4096)).foldl step (.ok [], s)
  (r.1, r.2.oneHit s.tlb)

/-- Write the frame of a trap where its granules lie (R251, R257), or send it to the peer that has them (R57); whether
it could be written (R56). -/
def State.writeFrame (s : State) (w : Warp) (t : TrapRec) (x : FrameExtra) (pas : List Nat) : Bool × State :=
  let m := s.putFrame s.mem (placeIn pas) w t x
  let rs := (framePieces (frameWrites w.env)).map fun p => (placeIn pas p.1, p.2)
  if !pas.any isRemote then (true, { s with mem := m }.frameWritten w rs)
  else
    let near := rs.filter fun r => !isRemote r.1
    let s := { s with mem := m.filter fun c => !isRemote c.1 }.frameWritten w near
    ((rs.filter fun r => isRemote r.1).foldl (fun s r =>
      s.sendStore (dieBeam (coreDie w.place.core)) r.1 (cellBytes m r.1 r.2)) s).accepted

/-- Take the trap of a drained warp (R251, R252): with TRAPVp.EN = 0, in handler mode, or where the
frame cannot be written, its group is killed; otherwise the frame is written and the handler
begins. -/
def State.takeTrap (s : State) (wid : Nat) : State :=
  match s.warp? wid with
  | none => s
  | some w =>
    match w.trap with
    | none => s
    | some t =>
      let t := w.trapReport t
      if w.handler || !(s.part w.env.part).trapEn then s.kill w.place.gid t.cause
      else
        match s.framePas w .store with
        | (.error e, s) => s.kill w.place.gid e
        | (.ok pas, s) =>
          let x : FrameExtra := ⟨false, (w.cnt.lc.filter fun t => !t.done).length,
            (w.cnt.sc.filter fun t => !t.done).length, 0, 0, 0, 0, 0⟩
          match s.writeFrame w t x pas with
          | (false, s) => s.kill w.place.gid 0x10
          | (true, s) => s.modWarp wid fun w => w.enterHandler (s.handlerVa w.env.part) (s.frameVa w) t.cause

/-- Take the trap of a warp at once if it has drained; otherwise it stops issuing until it has
(R251). -/
def State.tryTrap (s : State) (wid : Nat) : State :=
  match s.warp? wid with
  | none => s
  | some w => if w.trap.isSome && s.drained w then s.takeTrap wid else s

/-- The warp at issue stops at the issue group that would have issued (R247, R248): nothing of the
group takes effect. -/
def State.stopWith (s : State) (t : TrapRec) : State :=
  let s := s.modW fun w =>
    { w with pc := s.issue.pc, widx := s.issue.widx, trap := some t, packet := none, flushing := false }
  s.tryTrap s.w.place.wid

/-- Raise a precise trap at the issue group (R247, R250, R255): RMODE is 1 for TRAP alone; `late` marks a remote
time-out (R59). -/
def State.precise (s : State) (cause : BitVec 8) (addr : Word64) (word : BitVec 32) (fetch : Bool)
    (late : Bool := false) : State :=
  s.stopWith
    { cause := cause, addr := addr, lane := 0, flanes := 0, struct := 0
      space := if fetch then 0 else 7, remoteTo := late, fetch := fetch, precise := true
      more := false, rmode := cause == 5, word := word, pc := s.issue.pc, widx := s.issue.widx }

/-- Report the pending faults of the warp at a report point, whose group does not issue (R248). -/
def State.report (s : State) : State :=
  match s.w.oldestFault with
  | none => s
  | some f => s.stopWith (f.toTrap (decide (1 < s.w.faults.length)) s.issue.pc s.issue.widx)

/-! ## Returning from a handler (R255, R465, R466) -/

/-- A word of a frame, whose offsets lie where `at_` says. -/
def frameWord (m : List Host.Cell) (at_ : Nat → Nat) (off n : Nat) : Nat := cellWord m (at_ off) n

/-- The mask stack of a frame, its top first (R257). -/
def frameReadStack (m : List Host.Cell) (at_ : Nat → Nat) (off n : Nat) : List MaskEntry :=
  ((List.range n).map fun i => MaskEntry.ofNat (frameWord m at_ (off + 8 * i) 8)).reverse

/-- The registers of a warp read from a frame: those of the allotment, RMASK aside (R255). -/
def Warp.loadRegs (w : Warp) (m : List Host.Cell) (at_ : Nat → Nat) : Warp :=
  let rs : Regs :=
    { s := Vector.ofFn fun i =>
        if i.val < w.env.sregs then BitVec.ofNat 64 (frameWord m at_ (0x300 + 8 * i.val) 8)
        else w.regs.s[i]
      v := Vector.ofFn fun i =>
        if i.val < w.env.vregs then
          Vector.ofFn fun l => BitVec.ofNat 32 (frameWord m at_ (0x2000 + 128 * i.val + 4 * l.val) 4)
        else w.regs.v[i]
      k := Vector.ofFn fun i =>
        if i.val < w.env.vregs then BitVec.ofNat 64 (frameWord m at_ (0x1000 + 8 * i.val) 8)
        else w.regs.k[i]
      p := Vector.ofFn fun i =>
        if i.val = 0 then BitVec.allOnes 32
        else if i.val < w.env.pregs then BitVec.ofNat 32 (frameWord m at_ (0x80 + 4 * i.val) 4)
        else w.regs.p[i]
      ix := Vector.ofFn fun i => BitVec.ofNat 16 (frameWord m at_ (0x40 + 4 * i.val) 4) }
  { w with regs := rs }

/-- The control state and region of a frame, for valid fields (R465). -/
def Warp.loadControl (w : Warp) (m : List Host.Cell) (at_ : Nat → Nat) (part epart : PartSz)
    (restart : Bool) : Warp :=
  let f10 := frameWord m at_ 0x10 8
  let f28 := frameWord m at_ 0x28 8
  let f30 := frameWord m at_ 0x30 8
  let f38 := frameWord m at_ 0x38 8
  let cur : Control := ⟨BitVec.ofNat 32 f28, frameReadStack m at_ 0x100 (fld f30 54 6), part,
    BitVec.ofNat 64 (frameWord m at_ 0x50 8)⟩
  let ent : Control := ⟨BitVec.ofNat 32 (f28 / 2 ^ 32), frameReadStack m at_ 0x200 (fld f38 20 6),
    epart, BitVec.ofNat 64 (frameWord m at_ 0x58 8)⟩
  { w with
    ctl := if restart then ent else cur
    region := ⟨BitVec.ofNat 64 (frameWord m at_ 0x08 8), BitVec.ofNat 2 (fld f10 60 2),
      BitVec.ofNat 32 f10, ent⟩
    rmask := BitVec.ofNat 32 f30
    mwAddr := BitVec.ofNat 64 (frameWord m at_ 0x68 8)
    mwOld := BitVec.ofNat 64 (frameWord m at_ 0x70 8) }

/-- Where a warp resumes (R255): the region entry with RMODE 0; with RMODE 1 the recorded issue
group, or for a precise cause the group that follows it. [DEDUCED, log 32] -/
def frameResume (m : List Host.Cell) (at_ : Nat → Nat) (next : Word64 → BitVec 2 → Word64 × BitVec 2)
    (image : Bool) : Word64 × BitVec 2 :=
  let f10 := frameWord m at_ 0x10 8
  let pc : Word64 := BitVec.ofNat 64 (frameWord m at_ 0x00 8)
  let widx : BitVec 2 := BitVec.ofNat 2 (fld f10 40 2)
  if fld f10 46 1 = 0 then
    (BitVec.ofNat 64 (frameWord m at_ 0x08 8), BitVec.ofNat 2 (fld f10 60 2))
  else if fld f10 42 1 = 1 ∧ !image then next pc widx
  else (pc, widx)

/-- The poison bits of a frame become failing check bits of the registers (R274). [DEDUCED, log 32] -/
def State.loadPoison (s : State) (w : Warp) (m : List Host.Cell) (at_ : Nat → Nat) : State :=
  let wid := w.place.wid
  let keep := s.regPoison.filter fun q =>
    match q with
    | .lane v _ _ => v != wid
    | .scale v _ => v != wid
    | .acc _ _ _ _ => true
  let lanes := (List.range w.env.vregs).flatMap fun i =>
    (List.range 32).filterMap fun l =>
      if (frameWord m at_ (0x500 + 4 * i) 4).testBit l then
        some (RegPoison.lane wid (BitVec.ofNat 8 i) (BitVec.ofNat 5 l)) else none
  let ks := (List.range w.env.vregs).filterMap fun i =>
    if (frameWord m at_ (0x900 + i / 8) 1).testBit (i % 8) then
      some (RegPoison.scale wid (BitVec.ofNat 8 i)) else none
  { s with regPoison := keep ++ lanes ++ ks }

/-- The tokens that TRET counts again: the held atomics set aside, to the number that the frame
holds (R465). -/
def reloadTokens (aside : List Token) (n : Nat) : List Token :=
  Counters.retire ((aside ++ List.replicate n (Token.mk 0 true)).take n)

/-- TRET with its frame where `at_` says in a memory (R255, R465, R466): an invalid field kills the group
with cause 0x01; otherwise the warp is reloaded and leaves handler mode. -/
def State.reload (s : State) (w : Warp) (m : List Host.Cell) (at_ : Nat → Nat)
    (next : Word64 → BitVec 2 → Word64 × BitVec 2) : State :=
  let f10 := frameWord m at_ 0x10 8
  let f30 := frameWord m at_ 0x30 8
  let f38 := frameWord m at_ 0x38 8
  match PartSz.ofCode? (fld f30 48 3), PartSz.ofCode? (fld f30 51 3) with
  | some part, some epart =>
    if 32 < fld f30 54 6 ∨ 32 < fld f38 20 6 then s.kill w.place.gid 0x01
    else
      let s := s.loadPoison w m at_
      let nxt := frameResume m at_ next false
      s.modWarp w.place.wid fun w =>
        let w := (w.loadRegs m at_).loadControl m at_ part epart (fld f10 46 1 == 0)
        { w with
          pc := nxt.1
          widx := nxt.2
          handler := false
          cnt := ⟨reloadTokens w.aside.lc (fld f38 0 6), reloadTokens w.aside.sc (fld f38 6 6), [], []⟩
          aside := Counters.zero
          packet := none
          sched := { w.sched with hold := none, blocked := false } }
  | _, _ => s.kill w.place.gid 0x01

/-! ## Control transfers (R151, R308) -/

/-- The warp's next group is the one at a target: the first word of its packet (R151). -/
def Warp.jump (w : Warp) (target : Word64) : Warp := { w with pc := target, widx := 0 }

/-- The target of a branch offset in packets, from the packet that holds the branch (R308, R344). -/
def State.target (s : State) (off : Int) : Word64 := s.issue.pc + BitVec.ofInt 64 (12 * off)

/-- Apply an effect to the warp of a warp-level word: none when the guard is empty (R313). -/
def State.warpWord (s : State) (x : Ext) (f : State → State) : State :=
  if s.rd.guard x = 0 then s else f s

end Sys2Proof.Machine
end

