-- ==== Sys2Proof/Machine/MemOps.lean ====
section
/-! DEFINITION. The memory pipeline: the checks of an instruction's elements (R173, R391), operations
in flight and their order (R225, R227 to R230, R236 to R238), what a load reads (R227, R233, R34,
R243), the send queue of the reed (R33, R35), the holding buffers of ordered launches (R401 to R403),
and the performing of stores and atomics (R399, R400). -/

namespace Sys2Proof.Machine

/-! ## Elements and their checks -/

/-- The lanes of a lane set, in increasing order. -/
def laneList (m : Lanes) : List Nat := (List.range 32).filter m.getLsbD

/-- The lane set of a list of lanes. -/
def laneMask (ls : List Nat) : Lanes := ls.foldl (fun m l => m ||| BitVec.twoPow 32 l) 0

/-- The fates of the elements of an instruction, lane by lane (R391). -/
def State.checkAll (s : State) (w : Warp) (sp : Sp) (acc : Access) (size : Nat) (ls : List Nat)
    (addr : Nat → Word64) : List (Nat × Chk) × State :=
  let r := ls.foldl (fun (r : List (Nat × Chk) × State) l =>
    let c := r.2.resolve w sp acc l (addr l) size true
    (r.1 ++ [(l, c.1)], c.2)) ([], s)
  (r.1, r.2.oneHit s.tlb)

/-- The fault of an element that failed a check. [DEDUCED, log 18] -/
def faultRec (seq : Nat) (sp : BitVec 3) (excl : Bool) (l order : Nat) (cause : BitVec 8)
    (a : Word64) : FaultRec :=
  ⟨seq, order, cause, a, BitVec.ofNat 5 l, BitVec.twoPow 32 l, 0, sp, false, excl⟩

/-- The fault of a word of MAJ 0x2C or 0x2D, which names no lane: like a copy's, its FLANES is zero
(R248, R257). [DEDUCED, log 18] -/
def engineFault (seq : Nat) (sp : BitVec 3) (excl : Bool) (order : Nat) (cause : BitVec 8) (a : Word64) :
    FaultRec :=
  ⟨seq, order, cause, a, 0, 0, 0, sp, false, excl⟩

/-- The faults of the elements that failed become pending in the warp at issue (R248). -/
def State.pendFaults (s : State) (sp : BitVec 3) (excl : Bool) (rs : List (Nat × Chk)) : State :=
  rs.foldl (fun s r =>
    match r.2 with
    | .bad order cause a => s.modW fun w => w.addFault (faultRec w.issued sp excl r.1 order cause a)
    | _ => s) s

/-- The lanes whose element lies in a non-resident page (R203). -/
def zeroLanes (rs : List (Nat × Chk)) : List Nat :=
  rs.filterMap fun r =>
    match r.2 with
    | .zero _ => some r.1
    | _ => none

/-- The elements that passed every check. -/
def okElems (size : Nat) (rs : List (Nat × Chk)) (addr : Nat → Word64) (tgt : Nat → Target)
    (data new : Nat → Word64) : List Elem :=
  rs.filterMap fun r =>
    match r.2 with
    | .ok loc home va => some
        ⟨BitVec.ofNat 5 r.1, loc, size, addr r.1, va, tgt r.1, data r.1, new r.1, 0, home, .waiting⟩
    | _ => none

/-- Write the value of an element to its target (R390, R396, R399). -/
def Warp.writeTarget (w : Warp) (e : Elem) (v : Nat) : Warp :=
  match e.tgt with
  | .none => w
  | .sreg d t => w.sset d (imageS t v)
  | .lane r t => w.vset1 r.toNat e.lane.toNat (imageV t v)
  | .lanePair r =>
    (w.vset1 r.toNat e.lane.toNat (BitVec.ofNat 32 v)).vset1 (r.toNat + 1) e.lane.toNat
      (BitVec.ofNat 32 (v / 2 ^ 32))
  | .scale r slot =>
    w.kset r.toNat (setByte (w.kget r.toNat) slot.toNat (BitVec.ofNat 8 v))

/-! ## What is in flight -/

/-- The operations of a warp that are in flight. -/
def State.opsOf (s : State) (wid : Nat) : List Op := s.ops.filter fun o => o.wid == wid

/-- Whether an operation has an element that has not performed. -/
def Op.open (o : Op) : Bool := o.elems.any fun e => e.state == .waiting

/-- Whether an operation is an atomic. -/
def Op.isAtomic (o : Op) : Bool :=
  match o.kind with
  | .atomic _ _ _ => true
  | _ => false

/-- Whether an operation is a floating-point atomic. -/
def Op.isF32 (o : Op) : Bool :=
  match o.kind with
  | .atomic _ t _ => t == .f32
  | _ => false

/-- Whether an operation writes: a store or an atomic. -/
def Op.writes (o : Op) : Bool := o.isAtomic || o.kind == .store

/-- Whether an operation is a release that later accesses of its warp must not pass (R228, R446). -/
def Op.isRelease (o : Op) : Bool :=
  o.rel ||
    match o.kind with
    | .arrive _ _ | .fence => true
    | .load | .store | .atomic _ _ _ => false

/-- Whether an element of an MX line is a scale slot: those of one aligned 4-byte word are read and written
together (R224). -/
def Elem.isScale (e : Elem) : Bool :=
  match e.tgt with
  | .scale _ _ => true
  | .none | .sreg _ _ | .lane _ _ | .lanePair _ => false

/-- The aligned 4-byte word that holds a location. -/
def Loc.word4 : Loc → Loc
  | .phys a => .phys (a / 4 * 4)
  | .scratch g a => .scratch g (a / 4 * 4)
  | .vault a => .vault (a / 4 * 4)
  | .reed b a => .reed b (a / 4 * 4)

/-- Whether any element of two lists shares a byte. -/
def elemsOverlap (xs ys : List Elem) : Bool :=
  xs.any fun x => ys.any fun y => x.loc.overlap x.size y.loc y.size

/-- The elements of an operation that have not performed. -/
def Op.waiting (o : Op) : List Elem := o.elems.filter fun e => e.state == .waiting

/-- Whether a bolt is saved. -/
def State.boltSaved (s : State) (bid : Nat) : Bool :=
  (s.bolt? bid).elim false fun b =>
    match b.save with
    | .saved _ _ _ => true
    | .resident | .named | .draining _ => false

/-- The elements that go together with one (R224): itself, or the scale slots of its word; a VLDMX of a saved warp is
written into the image as a whole (R469). -/
def State.together (s : State) (o : Op) (e : Elem) : List Elem :=
  if o.kind == .load && o.elems.any Elem.isScale && s.boltSaved o.bid then o.waiting
  else if e.isScale then o.waiting.filter fun f => f.isScale && f.loc.word4 == e.loc.word4
  else [e]

/-- Whether a warp has read a store of another warp of its core that has not registered (R227): what it
releases comes after that store (R233, R239). [DEDUCED, log 58] -/
def State.seenOpen (s : State) (wid : Nat) : Bool := s.ops.any fun o => o.seen.contains wid && o.open

/-- Whether every earlier access of a warp is complete, as a release needs (R228, R245): none of its
operations before `seq` is in flight, none of its held atomics waits, and every store of its core that it
has read has registered. -/
def State.allComplete (s : State) (wid seq opId : Nat) : Bool :=
  (s.opsOf wid).all (fun o => decide (seq ≤ o.seq)) &&
    s.held.all (fun e => e.wid != wid || !e.atomic || decide (opId ≤ e.op)) && !s.seenOpen wid

/-- Whether a held atomic acquires, or releases. -/
def HEntry.acquires (e : HEntry) : Bool := e.atomic && (e.ord == .acq || e.ord == .ar)

/-- Whether a held atomic releases. -/
def HEntry.releases (e : HEntry) : Bool := e.atomic && (e.ord == .rel || e.ord == .ar)

/-- Whether a held acquire of a warp, issued before `seq`, has not performed, or an acquire atomic that has left
for a peer: no later access of the warp performs before it (R58, R229, R245). -/
def State.heldAcquire (s : State) (wid seq : Nat) : Bool :=
  (s.held.any fun e => e.wid == wid && e.acquires && decide (e.issue < seq)) ||
    (s.opsOf wid).any fun o => o.acq && o.isAtomic && decide (o.seq < seq)

/-- Whether a held release of a warp, issued before `seq`, has not performed (R228, R245). -/
def State.heldRelease (s : State) (wid seq : Nat) : Bool :=
  s.held.any fun e => e.wid == wid && e.releases && decide (e.issue < seq)

/-- Whether an operation may perform as far as releases and acquires go (R228, R229): no earlier release
of its warp is in flight or held, no earlier store or atomic of its warp waits to leave, no held acquire
comes before it, and, where it is a release itself, everything earlier is complete. -/
def State.releaseOk (s : State) (o : Op) : Bool :=
  (s.opsOf o.wid).all (fun p =>
      !(decide (p.seq < o.seq) && (p.isRelease || (p.writes && p.l1.isNone)))) &&
    !s.heldRelease o.wid o.seq && !s.heldAcquire o.wid o.seq &&
    (!o.isRelease || s.allComplete o.wid o.seq o.id)

/-- Whether an access overlaps an atomic of its own warp that has not performed (R225). [DEDUCED, log 16] -/
def State.behindAtomic (s : State) (wid : Nat) (es : List Elem) : Bool :=
  (s.opsOf wid).any fun o => o.isAtomic && elemsOverlap o.waiting es

/-- An acquire invalidates every valid word of its core's L1 that the core does not own, other than private
words (R178, R229). -/
def State.acquire (s : State) (core : Nat) : State :=
  { s with l1 := s.l1.filter fun w => w.core != core || w.priv.isSome || s.l1Owns w }

/-- The L1s of a partition write back and drop every word, as a sweep does (R209). -/
def State.l1Part (s : State) (p : PartN) : State :=
  let mine := fun w : L1Word => s.dieIn p (coreDie w.core)
  let s := s.l1Flush mine
  { s with l1 := s.l1.filter fun w => !mine w }

/-! ## What a load reads -/

/-- An element that makes no access and reads as zero. -/
def Elem.zero (e : Elem) : Elem := { e with loc := .scratch 0 0, size := 0 }

/-- The bytes that an element stores. -/
def Elem.bytes (e : Elem) : List Byte := leBytes e.size e.data.toNat

/-- The bytes that an element of a store writes: of two lanes that write one byte the higher is kept
(R224). -/
def Op.runs (o : Op) (e : Elem) : List (Loc × List Byte) :=
  let higher := o.elems.filter fun f => decide (e.lane.toNat < f.lane.toNat)
  if elemsOverlap higher [e] then
    (e.bytes.zipIdx.filter fun b => !higher.any fun f => (e.loc.plus b.2).within f.loc f.size).map fun b =>
      (e.loc.plus b.2, [b.1])
  else [(e.loc, e.bytes)]

/-- Whether an element lies in the remote aperture. -/
def Elem.remote (e : Elem) : Bool := e.loc.remote

/-- Whether an element lies in memory. -/
def Elem.inMemory (e : Elem) : Bool :=
  match e.loc with
  | .phys _ => true
  | .scratch _ _ | .vault _ | .reed _ _ => false

/-- The bytes of the stores in flight that an access of a warp, issued at `seq`, sees before they perform,
oldest first: those that are written into its core's L1, and the warp's own earlier ones (R225, R227,
R236). -/
def State.forward (s : State) (wid core seq : Nat) : List (Loc × List Byte) :=
  let own := s.ops.filter fun o =>
    o.kind == .store && o.wid == wid && o.l1.isNone && decide (o.seq < seq)
  let l1 := sortBy (fun (o p : Op) => decide (o.l1.getD 0 ≤ p.l1.getD 0))
    (s.ops.filter fun o => o.kind == .store && o.core == core && o.l1.isSome)
  (l1.flatMap fun o => (o.waiting.filter fun e => o.wid == wid || e.inMemory).flatMap o.runs) ++
    own.flatMap fun o => o.waiting.flatMap o.runs

/-- The stores of other warps of its core that an element of a load reads before they register have been
seen by its warp (R227). -/
def State.see (s : State) (o : Op) (e : Elem) : State :=
  { s with
    ops := s.ops.map fun p =>
      if p.kind == .store && p.core == o.core && p.wid != o.wid && p.l1.isSome && e.inMemory &&
          !p.seen.contains o.wid && elemsOverlap p.waiting [e] then
        { p with seen := o.wid :: p.seen }
      else p }

/-- Memory as a warp of a bolt sees it: the bolt's held stores over it (R243). -/
def State.boltMem (s : State) (bid : Nat) : List Host.Cell :=
  ((s.heldStores bid).flatMap HEntry.runs).foldl (fun m r =>
    match r.1 with
    | .phys a => cellPut m a r.2
    | .scratch _ _ | .vault _ | .reed _ _ => m) s.mem

/-- The address in a reed window of the send-queue entries of a ply, as writes (R34). -/
def QEntry.run (e : QEntry) (b : Beam) : List (Loc × List Byte) :=
  match e.kind with
  | .write block mask data =>
    (List.range 256).filterMap fun i =>
      if mask.getLsbD i then
        some (.reed b (block * 256 + i), [BitVec.ofNat 8 (data.toNat / 256 ^ i)])
      else none
  | _ => []

/-- Whether a queued atomic of a ply names a byte of an element (R34). -/
def State.queuedAtomic (s : State) (d : Die) (e : Elem) : Bool :=
  (s.ply d).queue.any fun q =>
    match q.kind with
    | .atomic block off _ t _ _ _ _ =>
      e.loc.overlap e.size (.reed (dieBeam d) (block * 256 + off)) t.bytes
    | _ => false

/-- The home slice of a location of memory on the device (R179). -/
def State.sliceAt (s : State) : Loc → Option Nat
  | .phys pa => if isRemote pa then none else some (sliceIndex (s.homeOf pa) (homeSlice (pa % 2 ^ 53)))
  | .scratch _ _ | .vault _ | .reed _ _ => none

/-- Whether the sweep that runs in a partition has visited the slice of a location: what comes there with an older
translation is returned (R210). -/
def State.visited (s : State) (p : PartN) (x : Loc) : Bool :=
  s.sweeps.any fun w => w.part == p && w.running && (s.sliceAt x).elim false w.visited.contains

/-- Whether an element of an operation holds an older translation and comes to its slice after the sweep's visit: it is
returned, and does not perform there (R210). -/
def State.passed (s : State) (o : Op) (e : Elem) : Bool :=
  decide (o.sweep < (s.part o.part).sweeps) && s.visited o.part e.loc

/-- Whether an element of a load can be read now: no held acquire comes before it (R229), a reed element
waits for queued atomics on it (R34), earlier loads and atomics of the warp on its bytes have performed
(R225), a remote one follows the warp's earlier stores and atomics to the peer (R58), and no sweep has passed it by
(R210). [DEDUCED, log 16] -/
def State.readable (s : State) (o : Op) (e : Elem) : Bool :=
  (match e.loc with
    | .reed _ _ => !s.queuedAtomic (coreDie o.core) e
    | .phys _ | .scratch _ _ | .vault _ => !s.vaultDown e.loc) &&
  !s.heldAcquire o.wid o.seq && !s.passed o e &&
  (s.opsOf o.wid).all fun p =>
    !(decide (p.seq < o.seq) && (p.kind == .load || p.isAtomic || (e.remote && p.l1.isNone)) &&
      elemsOverlap p.waiting [e])

/-- The warp whose private words an operation reaches, if it does. -/
def Op.priv (o : Op) : Option Nat := if o.space == Sp.p.frameCode then some o.wid else none

/-- The lines of memory that elements of an operation ask their homes for, each once (R181). -/
def State.askHomes (s : State) (o : Op) (es : List Elem) : State :=
  let d := coreDie o.core
  es.foldl (fun s e =>
    match e.loc with
    | .phys pa =>
      let asked := (s.ops.find? fun p => p.id == o.id).elim [] Op.asked
      if isRemote pa || asked.contains (pa / 128) then s
      else
        let s := s.lineRequest (some d) (s.homeOf pa)
        { s with ops := s.ops.map fun p => if p.id = o.id then { p with asked := pa / 128 :: p.asked } else p }
    | .scratch _ _ | .vault _ | .reed _ _ => s) s

/-- The bytes of a range of memory as a load of a core reads them at their home, which its L1 then holds (R227). -/
def State.l1Miss (s : State) (o : Op) (pa n : Nat) : List Byte × State :=
  let s := s.l1Recall (some o.core) pa n
  (cellBytes s.mem pa n, (s.askHomes o (o.elems.filter fun e => e.loc == .phys pa)).l1Fill o.core pa n false o.priv)

/-- The bytes of a range of memory as a load of a core finds them (R227, R230): those that its L1 holds,
where the load is relaxed and the L1 still holds them, and otherwise those at their home.  A private word stays while its
line need not have been evicted (R178).  What one element reads comes from one moment (R224). -/
def State.l1Read (s : State) (o : Op) (pa n : Nat) : List Byte × State :=
  match (if o.acq then none else s.l1Bytes o.core pa n) with
  | none => s.l1Miss o pa n
  | some bs =>
    if (o.priv.isSome && !s.l1Crowded o.core pa) || Config.l1Holds s.time o.core (pa / 8) then (bs, s)
    else s.l1Miss o pa n

/-- Whether stores that are in flight write every byte of an element: a load of it asks no home (R178, R227). -/
def Elem.coveredBy (e : Elem) (rs : List (Loc × List Byte)) : Bool :=
  (List.range e.size).all fun i => rs.any fun r => (e.loc.plus i).within r.1 r.2.length

/-- The bytes of an element with the held stores of its bolt, which count as registered for it (R243). -/
def State.withHeld (s : State) (o : Op) (e : Elem) (bs : List Byte) : List Byte :=
  overlayAll e.loc bs ((s.heldStores o.bid).flatMap HEntry.runs)

/-- What an element of a load that lies on the device reads (R227, R230, R233, R236 to R238, R243, R34): the bytes that its
core's L1 or their home gives, with the bolt's held stores and the stores in flight that the warp sees. -/
def State.readElem (s : State) (o : Op) (e : Elem) : Nat × State :=
  let fwd := s.forward o.wid o.core o.seq
  match e.loc with
  | .reed b a =>
    let d := coreDie o.core
    let bs := overlayAll e.loc (cellBytes (s.ply d).mirror a e.size) ((s.ply d).queue.flatMap fun q => q.run b)
    (leVal (overlayAll e.loc bs fwd), s)
  | .phys pa =>
    let (bs, s) := if !o.acq && e.coveredBy fwd then (List.replicate e.size 0, s) else s.l1Read o pa e.size
    (leVal (overlayAll e.loc (s.withHeld o e bs) fwd), s.see o e)
  | .scratch _ _ | .vault _ =>
    let (bs, s) := s.readHome e.loc e.size
    (leVal (overlayAll e.loc bs fwd), s)

/-- Change an operation in flight. -/
def State.modOp (s : State) (id : Nat) (f : Op → Op) : State :=
  { s with ops := s.ops.map fun o => if o.id = id then f o else o }

/-- Mark the element of a lane and target as performed, with what it read. -/
def Op.performed (o : Op) (e : Elem) (v : Word64) : Op :=
  { o with
    elems := o.elems.map fun f =>
      if f.lane = e.lane ∧ f.tgt = e.tgt ∧ f.addr = e.addr ∧ f.state = .waiting then
        { f with state := .performed, old := v }
      else f }

/-- Whether an element is that of a lane and target of an operation. -/
def Elem.same (e f : Elem) : Bool := f.lane == e.lane && f.tgt == e.tgt && f.addr == e.addr

/-- An element of an operation is over without having performed. -/
def State.dropElem (s : State) (o : Op) (e : Elem) : State :=
  s.modOp o.id fun o => { o with elems := o.elems.filter fun f => !e.same f }

/-- Raise a fault of an operation in flight in its warp (R248); that of an access of an ordered launch that was
held beyond its warp's exit fails the launch (R404). -/
def State.opFault (s : State) (o : Op) (e : Elem) (order : Nat) (cause : BitVec 8) (a : Word64)
    (struct : BitVec 4) (remoteTo : Bool) : State :=
  if o.writes && e.inMemory && (s.launch? o.lid).elim false (fun l => l.desc.attr.getLsbD 0) &&
      (s.warp? o.wid).elim true Warp.exited then
    s.modLaunch o.lid fun l => { l with faulted := true }
  else
    s.modWarp o.wid fun w => w.addFault
      { faultRec o.seq o.space o.excl e.lane.toNat order cause a with
        struct := struct, remoteTo := remoteTo }

/-- A peer has rejected an element (R56): the page-protection fault, with the virtual address. -/
def State.rejectElem (s : State) (o : Op) (e : Elem) : State :=
  (s.opFault o e 4 0x10 e.va 0 false).dropElem o e

/-- The address of the word that holds an element, as a fault of a bad word reports it (R256). -/
def Elem.wordVa (e : Elem) : Word64 := e.va + ((Loc.word e.loc).addr - e.loc.addr)

/-- Whether a mark is on a register word that an element's target writes in full. -/
def Elem.covers (e : Elem) (wid : Nat) : RegPoison → Bool
  | .lane v r l =>
    v == wid && l == e.lane &&
      (match e.tgt with
        | .lane d _ => r == d
        | .lanePair d => r == d || r == d + 1
        | .none | .sreg _ _ | .scale _ _ => false)
  | .scale _ _ | .acc _ _ _ _ => false

/-- The words of a frame that hold what an element writes, from the warp that it has been written to
(R257). -/
def Elem.frameWords (e : Elem) (w : Warp) : List (Nat × Nat × Nat) :=
  let lane := fun r : BitVec 8 =>
    (0x2000 + 128 * r.toNat + 4 * e.lane.toNat, 4, (w.lane r.toNat e.lane.toNat).toNat)
  match e.tgt with
  | .none => []
  | .sreg d _ => [(0x300 + 8 * d.toNat, 8, (w.sget d).toNat)]
  | .lane r _ => [lane r]
  | .lanePair r => [lane r, lane (r + 1)]
  | .scale r slot => [(0x1000 + 8 * r.toNat + slot.toNat, 1, (w.kget r.toNat).toNat / 256 ^ slot.toNat)]

/-- Keep an element that a load returns to a saved warp in the warp's image, its poison bits clear (R261,
R274). -/
def State.patchElem (s : State) (wid : Nat) (e : Elem) : State :=
  match s.warp? wid with
  | none => s
  | some w =>
    match s.savedFrame w with
    | none => s
    | some base =>
      let m := putWords s.mem base (e.frameWords w)
      let clear := fun (m : List Host.Cell) (r : BitVec 8) =>
        let at_ := base + 0x500 + 4 * r.toNat
        cellPutWord m at_ 4 (BitVec.ofNat 32 (cellWord m at_ 4) &&& ~~~(BitVec.twoPow 32 e.lane.toNat)).toNat
      { s with
        mem :=
          match e.tgt with
          | .lane r _ => clear m r
          | .lanePair r => clear (clear m r) (r + 1)
          | .none | .sreg _ _ | .scale _ _ => m }

/-- Write the value of an element to its target in a warp, or in its image while it is saved; the words
written are sound (R194, R261). -/
def State.deliver (s : State) (wid : Nat) (e : Elem) (v : Nat) : State :=
  let s := s.modWarp wid fun w => w.writeTarget e v
  ({ s with regPoison := s.regPoison.filter fun q => !e.covers wid q } : State).patchElem wid e

/-- The uncorrectable error of the words that an element of a core touches (R194, R273): a reed element
reads the mirror of its own ply. [DEDUCED, log 17] -/
def State.elemPoison (s : State) (core : Nat) (e : Elem) : Option Poison :=
  match e.loc with
  | .reed b a =>
    ((s.ply (coreDie core)).mirrorBad.find? fun w => decide (a < w + 8) && decide (w < a + e.size)).map
      fun w => ⟨.reed b w, 5, 0, 0⟩
  | .phys _ | .scratch _ _ | .vault _ => s.poisonAt e.loc e.size

/-- A load's element of the remote aperture: the peer's bytes, with the bolt's held stores (R57, R243), or its
rejection (R56).  The request leaves as it is answered. [DEDUCED, log 60] -/
def State.returnRemote (s : State) (o : Op) (e : Elem) (pa : Nat) : State :=
  match s.askRemote (dieBeam (coreDie o.core)) pa e.size with
  | (none, s) => s.rejectElem o e
  | (some bs, s) =>
    let v := leVal (s.withHeld o e bs)
    (s.modOp o.id fun o => o.performed e (BitVec.ofNat 64 v)).deliver o.wid e v

/-- Return one element of a load on the device: it reads its value and writes its target (R157); a word with an
uncorrectable error gives zero and a fault, and one in scratch kills the group (R272, R273).
[DEDUCED, log 17] -/
def State.returnLocal (s : State) (o : Op) (e : Elem) : State :=
  let r := s.readElem o e
  match s.elemPoison o.core e with
  | some q =>
    match e.loc with
    | .scratch g _ => s.scratchKill g
    | _ =>
      let s := (r.2.modOp o.id fun o => o.performed e 0).opFault o e 5 0x19
        e.wordVa q.struct false
      s.deliver o.wid e 0
  | none => (r.2.modOp o.id fun o => o.performed e (BitVec.ofNat 64 r.1)).deliver o.wid e r.1

/-- Return one element of a load. -/
def State.returnElem (s : State) (o : Op) (e : Elem) : State :=
  match e.loc with
  | .phys pa => if isRemote pa then s.returnRemote o e pa else s.returnLocal o e
  | .scratch _ _ | .vault _ | .reed _ _ => s.returnLocal o e

/-- Send an element of a store or atomic to its peer (R57). -/
def State.sendElem (s : State) (o : Op) (e : Elem) : State :=
  let b := dieBeam (coreDie o.core)
  match o.kind, e.loc with
  | .store, .phys _ => (o.runs e).foldl (fun s r =>
      match r.1 with
      | .phys pa => s.sendStore b pa r.2
      | .scratch _ _ | .vault _ | .reed _ _ => s) s
  | .atomic op t ret, .phys pa => s.sendRemote b pa (.atomic op t ret e.data e.new)
  | _, _ => s

/-- Return the elements of a load that a test names, in order. -/
def State.returnElems (s : State) (o : Op) (p : Elem → Bool) : State :=
  (o.elems.filter fun e => e.state == .waiting && p e).foldl (fun s e => s.returnElem o e) s

/-! ## Holding buffers (R401 to R403) -/

/-- The bytes of a holding-buffer entry (R402). -/
def HEntry.bytes (e : HEntry) : List Byte :=
  leBytes 8 (lay [(63, 1), (62, (!e.atomic).toNat), (60, e.ord.code), (57, e.aop.code),
    (55, e.aty.code), (54, e.nr.toNat), (53, e.stale.toNat), (52, e.dvec.toNat), (0, e.pa % 2 ^ 52)]) ++
  leBytes 8 (lay [(32, e.bolt.toNat % 2 ^ 32), (16, e.epoch % 2 ^ 16), (12, e.group.toNat),
    (7, e.warp.toNat), (2, e.lane.toNat)]) ++
  leBytes 8 (lay [(32, e.seq.toNat), (24, e.mask.toNat), (16, if e.nr then 0 else e.dreg.toNat)]) ++
  leBytes 8 e.data.toNat ++ leBytes 8 e.new.toNat ++ leBytes 8 e.va.toNat

/-- The lowest free save slot of a partition (R270). -/
def State.freeSlotOf (s : State) (p : PartN) : Option Nat :=
  (List.range (s.part p).saveCount.toNat).find? fun k => !(s.part p).used.contains k

/-- Entries of a core that occupy its buffer (R401): those of a saved bolt stand in its images (R404).
[DEDUCED, log 35] -/
def State.inBuffer (s : State) (core : Nat) : Nat :=
  (s.held.filter fun e => e.core == core && e.spilled.isNone && !s.boltSaved e.bid).length

/-- Whether every bolt of lower index of a launch has retired (R129). -/
def State.lowerGone (s : State) (lid index : Nat) : Bool :=
  (s.launch? lid).elim true fun l => decide (index ≤ l.retired)

/-- The entries that a save slot holds (R403). -/
def spillSlotSize : Nat := 87381

/-- The places to which a core may spill `n` entries of a bolt (R403): those that are free in the slots that it has
spilled the bolt's entries to, and those of a free slot.  The lowest free place is taken. [DEDUCED, log 35] -/
def State.spillPlaces (s : State) (core bid : Nat) (p : PartN) (n : Nat) : List (Nat × Nat) :=
  let mine := (s.held.filter fun e => e.core == core && e.bid == bid).filterMap HEntry.spilled
  let own := (mine.map Prod.fst).eraseDups.flatMap fun k =>
    let used := (mine.filter fun x => x.1 == k).map Prod.snd
    (((List.range (min spillSlotSize (used.length + n))).filter fun i => !used.contains i).map fun i => (k, i))
  let new := (s.freeSlotOf p).elim [] fun k => (List.range (min spillSlotSize n)).map fun i => (k, i)
  (own ++ new).take n

/-- Put the entries of one instruction into its core's buffer, or, for the lowest unretired bolt, spill as many of the
bolt's oldest entries as do not fit to its save slots; none where the instruction must wait (R130, R401, R403). -/
def State.hold (s : State) (es : List HEntry) : Option State :=
  match es with
  | [] => some s
  | h :: _ =>
    let excess := s.inBuffer h.core + es.length - 1024
    if excess = 0 then some { s with held := s.held ++ es }
    else
      let p := s.partOf h.lid
      let at_ := s.spillPlaces h.core h.bid p excess
      if !s.lowerGone h.lid h.bolt.toNat || decide (at_.length < excess) then none
      else
        let mine := fun e : HEntry => e.core == h.core && e.bid == h.bid && e.spilled.isNone
        let all := sortBy (fun (a b : HEntry) => decide (a.order ≤ b.order)) (s.held.filter mine) ++ es
        let out := (all.zip at_).map fun x => { x.1 with spilled := some x.2 }
        let m := out.foldl (fun m e => e.spilled.elim m fun x => cellPut m (s.slotBase p x.1 + 48 * x.2) e.bytes) s.mem
        some { (s.modPart p fun r =>
            { r with used := ((at_.map Prod.fst).eraseDups.filter fun k => !r.used.contains k) ++ r.used }) with
          mem := m
          held := (s.held.filter fun e => !mine e) ++ out ++ all.drop excess }

/-! ## Releases, completion -/

/-- Change one entry of a vector. -/
def vmod {α : Type} {n : Nat} (v : Vector α n) (i : Nat) (f : α → α) : Vector α n :=
  if h : i < n then v.set i (f v[i]) else v

/-- An arrival of a warp at a named barrier reaches its counter (R168). -/
def State.arriveNamed (s : State) (gid : Nat) (i : BitVec 5) (n : BitVec 4) : State :=
  (s.modGroup gid fun g =>
    { g with
      named := vmod g.named n.toNat fun b =>
        { b with arrived := b.arrived ||| BitVec.twoPow 32 i.toNat } }).settleNamed gid

/-- An arrival of a warp at a bolt barrier (R168, R444). -/
def State.arriveBolt (s : State) (gid bid : Nat) (i : BitVec 5) (n : BitVec 4) : State :=
  (s.modGroup gid fun g =>
    { g with
      boltLvl := vmod g.boltLvl (n.toNat % 8) fun b =>
        { b with arrived := b.arrived ||| BitVec.twoPow 32 i.toNat } }).settleBolt1 bid
          (Fin.ofNat 8 n.toNat)

/-- An arrival of a warp at a beam barrier (R168, R444). -/
def State.arriveBeam (s : State) (gid lid : Nat) (d : Die) (i : BitVec 5) (n : BitVec 4) : State :=
  (s.modGroup gid fun g =>
    { g with
      beamLvl := vmod g.beamLvl (n.toNat % 8) fun b =>
        { b with arrived := b.arrived ||| BitVec.twoPow 32 i.toNat } }).settleBeam lid d
          (Fin.ofNat 8 n.toNat)

/-- An arrival reaches its barrier's counter (R446); a warp that has exited counts from then on at every barrier
(R445). -/
def State.arrive (s : State) (wid : Nat) (l : Lvl) (n : BitVec 4) : State :=
  match s.warp? wid with
  | none => s
  | some w =>
    let p := w.place
    let s :=
      match l with
      | .grp => s.arriveNamed p.gid p.widx n
      | .bolt => s.arriveBolt p.gid p.bid p.widx n
      | .beam => s.arriveBeam p.gid p.lid (coreDie p.core) p.widx n
    if w.exited then s.settleGroup p.gid p.bid p.lid (coreDie p.core) else s

/-- The send-queue entries of a reed store: one for each 256-byte block that its elements touch, in
increasing block order; the higher lane's byte is kept (R33). -/
def reedWrites (es : List Elem) : List DentKind :=
  let runs := es.filterMap fun e =>
    match e.loc with
    | .reed _ a => some (a, e.bytes)
    | _ => none
  let blocks := (runs.map fun r => r.1 / 256).foldl (fun bs b => if b ∈ bs then bs else bs ++ [b]) []
  (sortBy (fun a b => decide (a ≤ b)) blocks).map fun blk =>
    let here := runs.filter fun r => r.1 / 256 == blk
    let byte := fun i => here.foldl (fun (v : Option Byte) r =>
      if r.1 % 256 ≤ i ∧ i < r.1 % 256 + r.2.length then r.2[i - r.1 % 256]? else v) none
    .write blk
      ((List.range 256).foldl (fun (m : BitVec 256) i =>
        if (byte i).isSome then m ||| BitVec.twoPow 256 i else m) 0)
      (BitVec.ofNat 2048 (leVal ((List.range 256).map fun i => (byte i).getD 0)))

/-- The send-queue entries of a reed atomic: one for each active lane, in increasing lane order
(R35). -/
def reedAtomics (o : Op) : List DentKind :=
  match o.kind with
  | .atomic op t _ => o.elems.filterMap fun e =>
    match e.loc with
    | .reed _ a => some (.atomic (a / 256) (a % 256) op t e.data e.new o.id e.lane.toNat)
    | _ => none
  | _ => []

/-- The transfers that an operation to the reed window puts in its ply's queue. -/
def Op.dents (o : Op) : List DentKind := if o.isAtomic then reedAtomics o else reedWrites o.elems

/-- Whether an operation reaches the reed window. -/
def Op.isReed (o : Op) : Bool := o.elems.any fun e =>
  match e.loc with
  | .reed _ _ => true
  | _ => false

/-- Whether a ply's send queue has room for more entries (R33). [DEDUCED, log 22] -/
def State.queueRoom (s : State) (d : Die) (n : Nat) : Bool := decide ((s.ply d).queue.length + n ≤ 64)

/-- The scratch of a group. -/
def State.groupMem (s : State) (gid : Nat) : List Host.Cell := (s.group? gid).elim [] Group.scratch

/-- An acquire of a warp has completed that comes before its latest OFENCE: an engine operation after the OFENCE reads
no older scratch than what the acquire has seen (R239). -/
def State.refence (s : State) (o : Op) : State :=
  let m := s.groupMem o.gid
  s.modWarp o.wid fun w => if o.seq < w.fenceSeq then { w with fencedMem := m } else w

/-- An operation leaves flight: its counter falls, unless atomics of its instruction are still held, and an
acquire invalidates the words of its core's L1 (R157, R229). -/
def State.retireOp (s : State) (o : Op) : State :=
  let s := { s with ops := s.ops.filter fun p => p.id != o.id }
  let s := if o.acq then (s.acquire o.core).refence o else s
  if s.held.any fun h => h.atomic && h.op == o.id then s else s.finish o.wid o.id

/-- Whether every element of an operation has performed and, for what returns data, has been returned; an
arrival and a fence end only as they perform (R231, R446). -/
def Op.over (o : Op) : Bool :=
  match o.kind with
  | .atomic _ _ true => o.elems.isEmpty
  | .arrive _ _ | .fence => false
  | .load | .store | .atomic _ _ false => !o.open

/-- The elements of earlier loads of a warp that perform before an access (R225): those that share a byte with it, with
those that go together with them (R224), and every element of the reed loads before the last of those, since the reed
loads of a warp never go back in dent order (R34, R238). -/
def State.settling (s : State) (wid seq : Nat) (es : List Elem) : List (Op × List Elem) :=
  let hit := fun o : Op => o.waiting.filter fun e => (s.together o e).any fun f => elemsOverlap [f] es
  let ls := (s.opsOf wid).filter fun o => o.kind == .load && decide (o.seq < seq)
  let last := (ls.filter fun o => o.isReed && !(hit o).isEmpty).foldl (fun (n : Nat) o => max n o.seq) 0
  (ls.map fun o => (o, if o.isReed && decide (o.seq < last) then o.waiting else hit o)).filter fun x => !x.2.isEmpty

/-- The earlier loads of a warp that share a byte with an access perform before it (R225). -/
def State.settleLoads (s : State) (wid seq : Nat) (es : List Elem) : State :=
  (s.settling wid seq es).foldl (fun s x =>
    let s := s.returnElems x.1 fun e => x.2.contains e
    match s.ops.find? fun p => p.id == x.1.id with
    | some p => if p.over then s.retireOp p else s
    | none => s) s

/-- Whether the earlier loads of a warp that perform before an access can be read now (R225). -/
def State.loadsReadable (s : State) (wid seq : Nat) (es : List Elem) : Bool :=
  (s.settling wid seq es).all fun x => x.2.all (s.readable x.1)

/-- Whether an operation may start (R225, R228, R229). -/
def State.mayStart (s : State) (o : Op) : Bool := s.releaseOk o && s.loadsReadable o.wid o.seq o.elems

/-- Start an operation that nothing holds back (R227, R33, R243): an arrival reaches its counter, a store is
written into L1 or enters the holding buffer, a reed transfer enters the send queue, where there is room, and
what is for a peer is sent (R57). -/
def State.startOp (s : State) (o : Op) : State :=
  let leave := fun s : State =>
    let (t, s) := s.fresh
    s.modOp o.id fun o => { o with l1 := some t }
  match o.kind with
  | .load => s
  | .fence => s.retireOp o
  | .arrive l n => (s.retireOp o).arrive o.wid l n
  | .store | .atomic _ _ _ =>
    if o.isReed then
      let d := coreDie o.core
      if s.queueRoom d o.dents.length then
        let s := o.dents.foldl (fun s k => s.enqueue d o.lid o.wid k) (s.settleLoads o.wid o.seq o.elems)
        match o.kind with
        | .store => s.retireOp o
        | .atomic _ _ false => (leave s).finish o.wid o.id
        | .load | .fence | .arrive _ _ | .atomic _ _ true => leave s
      else s
    else if !o.chunks.isEmpty then
      let (t, s) := (s.settleLoads o.wid o.seq o.elems).fresh
      match s.hold (o.chunks.map fun e => { e with order := t }) with
      | some s => s.retireOp o
      | none => s
    else
      (o.elems.filter Elem.remote).foldl (fun s e => s.sendElem o e)
        ((leave (s.settleLoads o.wid o.seq o.elems)).askHomes o o.elems)

/-- Start, in order of issue, every operation that waited and no longer has to (R228, R446); a pass over the
operations in flight. -/
def State.startAll (s : State) : State :=
  s.ops.foldl (fun s o =>
    match s.ops.find? fun p => p.id == o.id with
    | some p => if p.kind != .load && p.l1.isNone && s.mayStart p then s.startOp p else s
    | none => s) s

/-- Retire an operation that is over; then start what waited for it. -/
def State.tidyOp (s : State) (id : Nat) : State :=
  match s.ops.find? fun o => o.id == id with
  | none => s
  | some o => if o.over then (s.retireOp o).startAll else s

/-! ## Issue of an operation -/

/-- Record the hold that the group at issue has met (R141): the group does not issue. -/
def State.retryWith (s : State) (h : Hold) : State :=
  { s with issue := { s.issue with retry := some h } }

/-- Whether an operation is an access that has left its warp (R141): a load, or a store or atomic that nothing
holds back. -/
def Op.outstanding (o : Op) : Bool :=
  match o.kind with
  | .load => true
  | .store | .atomic _ _ _ => o.l1.isSome
  | .arrive _ _ | .fence => false

/-- Whether a core has its full set of outstanding memory requests (R12, R141). [DEDUCED, log 8] -/
def State.requestsFull (s : State) (core : Nat) : Bool :=
  decide (1024 ≤ (s.ops.filter fun o => o.core == core && o.outstanding).length)

/-- An operation of the warp at issue, before it is in flight. -/
def State.newOp (s : State) (w : Warp) (id : Nat) (kind : OpKind) : Op where
  id := id
  wid := w.place.wid
  gid := w.place.gid
  bid := w.place.bid
  lid := w.place.lid
  core := w.place.core
  part := w.env.part
  seq := s.w.issued
  kind := kind
  acq := false
  rel := false
  rp := 0
  am := w.ctl.am
  space := 0
  excl := true
  elems := []
  sweep := (s.part w.env.part).sweeps
  l1 := none
  chunks := []
  seen := []
  asked := []

/-- Put an operation in flight; it starts unless something holds it back (R228). -/
def State.putOp (s : State) (o : Op) : State :=
  let s := { s with ops := s.ops ++ [o] }
  if o.kind != .load && s.mayStart o then s.startOp o else s

/-- Put an operation of the warp at issue in flight: it takes its counter (R157) and starts unless a release
holds it back (R228).  With no element it is complete at once. -/
def State.launchOp (s : State) (w : Warp) (kind : OpKind) (acq rel : Bool) (rp : PReg) (sp : Sp)
    (excl : Bool) (es : List Elem) (cnt : Counter) : State :=
  let (id, s) := s.fresh
  let o : Op := { s.newOp w id kind with
    acq := acq, rel := rel, rp := rp, space := sp.frameCode, excl := excl, elems := es }
  let counts := cnt == .lc || sp == .r
  let s := s.modW fun w => { w with cnt := w.cnt.push cnt id (!counts || es.isEmpty) }
  if es.isEmpty then (if acq then s.acquire w.place.core else s)
  else if kind != .load && sp == .r && s.mayStart o &&
      !s.queueRoom (coreDie w.place.core) o.dents.length then
    s.retryWith (.reedQueue o.dents.length)
  else if s.requestsFull w.place.core then s.retryWith .requests
  else s.putOp o

/-! ## Atomics (R399) -/

/-- The operand of an atomic as an integer of its type. -/
def atomSigned (t : ATy) (v : Nat) : Int :=
  match t with
  | .u32 | .f32 => (v % 2 ^ 32 : Nat)
  | .i32 => (BitVec.ofNat 32 v).toInt
  | .i64 => (BitVec.ofNat 64 v).toInt

/-- The new value of an integer atomic, and whether it is written: a cas that fails writes nothing
(R399). -/
def atomInt (o : AOp) (t : ATy) (old b c : Nat) : Nat × Bool :=
  let m := 256 ^ t.bytes
  match o with
  | .xchg => (b % m, true)
  | .add => ((old + b) % m, true)
  | .andB => (Nat.land old b % m, true)
  | .orB => (Nat.lor old b % m, true)
  | .xorB => (Nat.xor old b % m, true)
  | .min => (if atomSigned t b < atomSigned t old then b % m else old % m, true)
  | .max => (if atomSigned t old < atomSigned t b then b % m else old % m, true)
  | .cas => if old % m = b % m then (c % m, true) else (old % m, false)

end Sys2Proof.Machine
end

