-- ==== Sys2Proof/Machine/Issue.lean ====
section
/-! DEFINITION. The issue of a group of words (R151): the checks of R310 on each word, the report
points of R248, the flush points of R244, the group's effect from one snapshot of the warp, and the
holds of R141, under which nothing of the group takes effect. -/

namespace Sys2Proof.Machine

/-- A word of an issue group: its bits, the words that it takes with its LIT, and the instruction that
they encode. -/
structure GWord where
  word  : BitVec 32
  size  : Nat
  instr : Instr
  deriving DecidableEq, Repr

/-- The words of the issue group that begins a list of words: up to the first whose C bit is 0. -/
def chain : List (BitVec 32) → List (BitVec 32)
  | [] => []
  | w :: ws => if wordC w then w :: chain ws else [w]

/-- The instruction that a word and its LIT encode; a word that no encoding assigns stands for its
illegal-instruction trap (R321). [DESIGN CHOICE, log 56] -/
def instrOf (w : BitVec 32) (lit : Option (BitVec 32)) : Instr :=
  match decodeUnit w lit with
  | .ok i => i
  | .no _ => .illegalInstruction w

/-- The instructions of a group, each LIT folded into the word that it extends (R311). -/
def groupWords : List (BitVec 32) → List GWord
  | [] => []
  | w :: ws =>
    if isLit w then groupWords ws
    else
      let lit :=
        match ws with
        | l :: _ => if isLit l then some l else none
        | [] => none
      ⟨w, if lit.isSome then 2 else 1, instrOf w lit⟩ :: groupWords ws

/-! ## The checks of R310 -/

/-- The privileged special registers (R461). -/
def SpReg.privileged : SpReg → Bool
  | .tframe | .ctxid | .hscr0 | .hscr1 => true
  | .clock | .rmask | .draw | .rseq | .who | .launch | .boltlo | .bolthi | .plyheat => false

/-- The privileged forms (R322, R467). -/
def isPrivileged : Instr → Bool
  | .tfence _ _ | .tlbinv _ _ | .tret _ => true
  | .srd _ _ r | .swr _ _ r => SpReg.privileged r
  | _ => false

/-- The depth checks of the mask-stack words (R352). -/
def badDepth (w : Warp) : Instr → Bool
  | .mif _ _ => decide (32 ≤ w.ctl.stack.length)
  | .melse _ _ | .mend _ | .mloop _ _ | .mbrk _ _ | .mcont _ _ => w.ctl.stack.isEmpty
  | _ => false

/-- Whether an instruction stands for a word that no encoding assigns (R321). -/
def notAWord : Instr → Bool
  | .illegalInstruction _ => true
  | _ => false

/-- The checks of R310 on a word: whether it is assigned (R321), depth (R352), privilege (R322) and register
bounds (R314), in this order; the first that fails gives its cause and address (R256). [DEDUCED, log 12] -/
def State.checkWord (s : State) (i : Instr) : Option (BitVec 8 × Word64) :=
  if notAWord i then some (0x01, s.issue.pc)
  else if badDepth s.w i then some (0x01, s.issue.pc)
  else if isPrivileged i && !s.w.handler then some (0x04, s.issue.pc)
  else (boundsOf s.w i).map fun r => (0x03, BitVec.ofNat 64 r)

/-- The immediate of a TRAP whose guard is not empty (R359). -/
def trapOf (w : Warp) : Instr → Option (BitVec 33)
  | .trap x imm => if w.guard x = 0 then none else some imm
  | _ => none

/-! ## Report points (R248) -/

/-- Whether a word is a report point now (R248, R249, R357 to R359, R443, R459): whatever its guard;
an EFENCE that waits is one when it completes. [DEDUCED, log 13] -/
def reportPoint (w : Warp) : Instr → Bool
  | .efence x => w.guard x == 0 || w.cnt.isZero
  | .region _ | .exit _ | .barv _ _ _ | .barw _ _ _ => true
  | _ => false

/-! ## Flush points (R244, R401) -/

/-- Whether a counter must retire a held atomic to fall to `n` (R244). -/
def State.coversHeld (s : State) (w : Warp) (k : Counter) (n : Nat) : Bool :=
  ((w.cnt.get k).take ((w.cnt.get k).length - n)).any s.heldToken

/-- Whether a word is a WAIT or EFENCE whose condition covers a held atomic of its warp (R244). -/
def State.coveringWord (s : State) (w : Warp) : Instr → Bool
  | .wait x l c _ _ => w.guard x != 0 && (s.coversHeld w .lc l.toNat || s.coversHeld w .sc c.toNat)
  | .efence x => w.guard x != 0 && (s.coversHeld w .lc 0 || s.coversHeld w .sc 0)
  | _ => false

/-- Whether a word is a flush point of its warp (R244, R357, R405, R443, R458). -/
def State.flushPoint (s : State) (w : Warp) : Instr → Bool
  | .oflush x => w.guard x != 0
  | .barw x .bolt _ => w.guard x != 0
  | .exit _ => true
  | i => s.coveringWord w i

/-- A warp of an ordered launch passes a flush point when the group that holds it is first its next
group (R244). -/
def State.passFlush (s : State) (ws : List GWord) : State :=
  if s.w.env.ordered && !s.w.flushing && ws.any (fun g => s.flushPoint s.w g.instr) then
    let c := ws.any fun g => s.coveringWord s.w g.instr
    s.modW fun w => { w with epoch := w.epoch + 1, flushing := true, covering := c }
  else s

/-- Whether the group at issue holds a WAIT or EFENCE that was a covering flush point when it became the warp's next
group (R244). -/
def State.covering (s : State) : Bool := s.w.flushing && s.w.covering

/-- Whether the flush that the warp at issue waits for is complete (R244). -/
def State.flushed (s : State) : Bool :=
  !s.w.env.ordered || ((s.bolt? s.w.place.bid).elim true fun b => decide (s.w.epoch ≤ b.flushed))

/-! ## Holds (R141) -/

/-- The holds that block a warp at once (R141). -/
def Hold.atOnce : Hold → Bool
  | .barw _ _ _ | .mwait | .tile _ _ | .tdef => true
  | _ => false

/-- The group at issue is held: nothing of it takes effect, and it stays the warp's next group
(R141, R151). -/
def State.heldBy (s : State) (h : Hold) : State :=
  let s := s.modW fun w =>
    { w with
      pc := s.issue.pc
      widx := s.issue.widx
      sched := { w.sched with hold := some h, blocked := w.sched.blocked || h.atOnce } }
  { s with issue := { s.issue with retry := some h } }

/-! ## WAIT records (R297) -/

/-- The WAIT of a group, if it holds one. -/
def waitOf (ws : List GWord) : Option (Nat × Nat × Nat × Nat) :=
  ws.findSome? fun g =>
    match g.instr with
    | .wait _ l s k t => some (l.toNat, s.toNat, k.toNat, t.toNat)
    | _ => none

/-! ## The issue of a group -/

/-- Make records of the issuer: they stand before those that its core has made since it held `n`, a swap and the
end of a warp in the same cycle (R298). -/
def State.recordFirst (s : State) (core n : Nat) (f : State → State) : State :=
  let made := s.traceQueue core
  if made.length ≤ n then f s
  else (made.drop n).foldl (fun s r => s.putRecord core r) (f (s.setTraceQueue core (made.take n)))

/-- The trace records of a group that has issued (R298). -/
def State.recordGroup (s : State) (w : Warp) (ws : List GWord) : State :=
  let s := s.recordIssue w s.issue.pc s.issue.widx s.issue.words
  match waitOf ws with
  | some (l, c, k, t) => s.recordWait w s.issue.pc s.issue.widx w.waitRec l c k t
  | none => s

/-- A group has issued: its trace records (R298), the packet counter (R304), the logical clock (R302), the end
of its holds, the counters as the next group becomes the warp's (R297), and the place of the next search for an
issuer (R147). `w` is the warp as it stood before the group, when its core held `n` records. -/
def State.endGroup (s : State) (w : Warp) (n : Nat) (ws : List GWord) : State :=
  let s := s.recordFirst w.place.core n fun s => s.recordGroup w ws
  let s := s.count (coreDie w.place.core) .packets 1
  let n := if w.handler then 0 else s.issue.words.length
  let s := s.modWarp w.place.wid fun w =>
    { w with
      lclock := w.lclock + BitVec.ofNat 64 n
      flushing := false
      waitRec := w.counts
      packet := if w.widx = 0 then none else w.packet
      sched := { w.sched with hold := none, blocked := false } }
  { s with
    issue := { s.issue with snap := none, retry := none }
    lastPos := (w.place.core, w.sched.pos) :: s.lastPos.filter fun p => p.1 != w.place.core }

/-- The first of the checks of R310 that a group fails, with the word it is reported against.
[DEDUCED, log 12] -/
def State.checkGroup (s : State) (ws : List GWord) : Option (BitVec 32 × BitVec 8 × Word64) :=
  ws.findSome? fun g => (s.checkWord g.instr).map fun c => (g.word, c)

/-- Issue a group (R151, R310, R248, R244, R141): its checks, report and flush points, and then its
effect `run`, which reads the warp as it stood before the group; a hold met on the way leaves the
state as it was. [DEDUCED, log 11] -/
def State.issueGroup (s : State) (ws : List GWord) (run : State → State) : State :=
  match s.checkGroup ws with
  | some (word, cause, addr) => s.precise cause addr word false
  | none =>
    match ws.findSome? fun g => (trapOf s.w g.instr).map fun imm => (g.word, imm) with
    | some (word, imm) => s.precise 0x05 (imm.zeroExtend 64) word false
    | none =>
      if !s.w.faults.isEmpty && ws.any (fun g => reportPoint s.w g.instr) then s.report
      else
        let s := s.passFlush ws
        let t := run { s with issue := { s.issue with snap := some s.w, mark := s.serial, retry := none } }
        match t.issue.retry with
        | some h => s.heldBy h
        | none => t.endGroup s.w (s.traceQueue s.w.place.core).length ws

/-- Count the issue of one word of the warp at issue: its place in the order of R250. -/
def State.tick (s : State) : State := s.modW fun w => { w with issued := w.issued + 1 }

/-- The meaning of an instruction word: its effect within the issue group that is issuing, or, where
none is, the issue of the group of that word alone. [DEDUCED, log 11] -/
def issueWord (i : Instr) (s : State) (eff : State → State) : Host.Outcome State Fault Refusal :=
  if s.issue.snap.isSome then .next (eff s)
  else .next (s.issueGroup [⟨s.issue.word, 1, i⟩] fun s => eff s.tick)

/-! ## Effects of warp-level and lane-wise words (R313) -/

/-- The lanes of a lane-wise word (R313). -/
def State.lanes (s : State) (x : Ext) : Lanes := s.rd.guard x

/-- Hold the group unless a condition is met; otherwise go on. [DEDUCED, log 11] -/
def State.unless (s : State) (ok : Bool) (h : Hold) (f : State → State) : State :=
  if ok then f s else s.retryWith h

end Sys2Proof.Machine
end

