-- ==== Sys2Proof/Machine/Holds.lean ====
section
/-! DEFINITION. The conditions that hold a group at issue (R141), each as a test of the state: the
counters of WAIT (R158), barrier generations (R169), tile-table entries (R185, R186, R413 to R417),
fences (R231, R239), the first acquire and the flushes of ordered launches (R129, R244), REEDF (R37,
R452), and the watched word of MWAIT (R408). -/

namespace Sys2Proof.Machine

/-! ## Counters (R157, R158) -/

/-- Whether the condition of a WAIT holds (R158): an immediate at its counter's maximum places no
condition, since no counter exceeds its maximum. -/
def Warp.waitMet (w : Warp) (l s : BitVec 6) (k t : BitVec 4) : Bool :=
  decide (w.cnt.lc.length ≤ l.toNat) && decide (w.cnt.sc.length ≤ s.toNat) &&
    decide (w.cnt.cc.length ≤ k.toNat) && decide (w.cnt.tc.length ≤ t.toNat)

/-! ## Barriers (R169, R445) -/

/-- The generation of a barrier that a warp's arrivals and waits refer to (R167, R445): the number of
generations completed so far. -/
def State.generation (s : State) (w : Warp) (l : Lvl) (n : BitVec 4) : BitVec 32 :=
  match l with
  | .grp => (s.group? w.place.gid).elim 0 fun g => (g.named[n.toNat]).gen
  | .bolt => (s.bolt? w.place.bid).elim 0 fun b => (b.bars[n.toNat % 8]'(Nat.mod_lt _ (by omega))).gen
  | .beam =>
    ((s.beam (dieBeam (coreDie w.place.core))).reed.bars.find? fun b =>
      b.lid == w.place.lid && b.n.toNat == n.toNat).elim 0 BeamBar.gen

/-- The latest arrival of a warp at a barrier (R169). -/
def Warp.arrival (w : Warp) (l : Lvl) (n : BitVec 4) : Option (BitVec 32) :=
  (w.arrivals.find? fun r => r.lvl == l && r.n == n).map ArriveRec.gen

/-- Record an arrival (R169, R446). -/
def Warp.noteArrival (w : Warp) (l : Lvl) (n : BitVec 4) (gen : BitVec 32) : Warp :=
  { w with arrivals := ⟨l, n, gen⟩ :: w.arrivals.filter fun r => !(r.lvl == l && r.n == n) }

/-- Whether the generation of a warp's latest arrival has not completed (R169). -/
def State.arrivalPending (s : State) (w : Warp) (l : Lvl) (n : BitVec 4) : Bool :=
  (w.arrival l n).elim false fun g => g == s.generation w l n

/-! ## Tile-table entries (R185, R186, R413 to R417) -/

/-- Whether a tile-table entry meets a need. -/
def tileMeets (t : Tile) : TileNeed → Bool
  | .fill => t.state == .empty || (t.state == .ready && t.holes != 0)
  | .empty => t.state == .empty
  | .ready => t.state == .ready
  | .mappable =>
    !t.mapped || (if t.counted then t.count == 0 && t.rsv.isEmpty else t.state == .empty)
  | .freeable =>
    if t.counted then t.count != 0 && t.outRead == 0 && t.loomRead == 0
    else ((t.state == .ready || t.state == .empty) && t.loomRead == 0) || (t.arm && t.rsv.isEmpty)
  | .idle => if t.counted then t.rsv.isEmpty else t.state == .empty || t.state == .ready
  | .count => t.count != 0
  | .slot => decide (t.count.toNat + t.rsv.length < t.rows.toNat + 1)

/-- The entries of a core that are mapped (R183). -/
def State.tilesUsed (s : State) (core : Nat) : Nat :=
  ((s.groups.filter fun g => g.core == core && s.residentGroup g).map fun g =>
    g.tiles.toList.countP Tile.mapped).sum

/-! ## Fences (R228, R229, R231, R239) -/

/-- The operations of a warp that were in flight before its next group. -/
def State.earlier (s : State) (w : Warp) : List Op :=
  (s.opsOf w.place.wid).filter fun o => decide (o.seq ≤ w.issued)

/-- Whether an operation is an access (an arrival at a barrier is not). -/
def Op.isAccess (o : Op) : Bool :=
  match o.kind with
  | .arrive _ _ | .fence => false
  | .load | .store | .atomic _ _ _ => true

/-- Whether an operation returns data: a load or a returning atomic. -/
def Op.returns (o : Op) : Bool :=
  match o.kind with
  | .load => true
  | .atomic _ _ r => r
  | _ => false

/-- Whether every access of a warp before its next group is complete (R228). -/
def State.releaseMet (s : State) (w : Warp) : Bool :=
  (s.earlier w).all (fun o => !o.isAccess) &&
    s.held.all (fun e => e.wid != w.place.wid || !e.atomic) && !s.seenOpen w.place.wid

/-- Whether every load and returning atomic of a warp before its next group has returned (R231). -/
def State.acquireMet (s : State) (w : Warp) : Bool :=
  (s.earlier w).all (fun o => !o.returns) &&
    s.held.all fun e => e.wid != w.place.wid || !e.atomic || e.nr

/-- Whether an OFENCE completes (R239): earlier scratch and vault stores have performed, and earlier global
and private stores, and those that the warp has read before they registered, have completed their
registration. -/
def State.ofenceMet (s : State) (w : Warp) : Bool :=
  (s.earlier w).all (fun o => o.kind != .store || o.isReed) && !s.seenOpen w.place.wid

/-- Whether an acquire access of a warp is in flight: later accesses wait for it at issue (R229).
[DEDUCED, log 15] -/
def State.acquiring (s : State) (wid : Nat) : Bool := (s.opsOf wid).any Op.acq

/-- Whether an acquire of the warp at issue that comes before its latest OFENCE has not completed: an engine operation
after the OFENCE reads no older value than the acquire gives, and waits for it (R229, R239). [DEDUCED, log 15] -/
def State.fencedAcquire (s : State) : Bool :=
  let w := s.w
  (s.opsOf w.place.wid).any (fun o => o.acq && decide (o.seq < w.fenceSeq)) || s.heldAcquire w.place.wid w.fenceSeq

/-! ## Ordered launches (R129, R130) -/

/-- Whether every bolt of lower index than the warp's has retired (R129). -/
def State.lowerRetired (s : State) (w : Warp) : Bool :=
  s.lowerGone w.place.lid w.place.bolt.toNat

/-- Whether an acquire would be the first of its bolt, and must wait (R129). [DEDUCED, log 14] -/
def State.firstAcquireHeld (s : State) (w : Warp) : Bool :=
  w.env.ordered && !s.lowerRetired w && (s.bolt? w.place.bid).elim false fun b => !b.acquired

/-- A bolt of an ordered launch has made its first acquire (R129). [DEDUCED, log 14] -/
def State.noteAcquire (s : State) (w : Warp) : State :=
  if w.env.ordered then s.modBolt w.place.bid fun b => { b with acquired := true } else s

/-! ## REEDF (R37, R452) -/

/-- The token entries of a ply's queue that carry an arrival to which a warp contributed. -/
def State.ownTokens (s : State) (w : Warp) : List Nat :=
  ((s.ply (coreDie w.place.core)).queue.filter fun e =>
    match e.kind with
    | .arrive _ _ _ _ wids => wids.contains w.place.wid
    | _ => false).map QEntry.id

/-- The tokens that a REEDF waits for: those that stood in the queue when it became the warp's next
group. -/
def State.reedfTokens (s : State) : List Nat :=
  match s.rd.sched.hold with
  | some (.reedf ids) => ids
  | _ => s.ownTokens s.rd

/-- Whether a REEDF completes (R37): no earlier reed store or atomic of the warp is unsent or not
applied, and neither is a token of the list; `mark` bounds the identifiers of what is earlier. -/
def State.reedfMet (s : State) (w : Warp) (mark : Nat) (ids : List Nat) : Bool :=
  (s.opsOf w.place.wid).all (fun o => !(o.isReed && o.writes) || decide (mark ≤ o.id)) &&
    (s.ply (coreDie w.place.core)).queue.all fun e =>
      !(ids.contains e.id) &&
        (decide (mark ≤ e.id) ||
          match e.kind with
          | .write _ _ _ => e.wid != w.place.wid
          | .atomic _ _ _ _ _ _ _ _ => e.wid != w.place.wid
          | _ => true)

/-! ## The watched word (R407, R408) -/

/-- The space of a watched address (R407). -/
def watchSpace (a : Word64) : Sp := (Sp.ofCode? (bitsOf a 63 61)).getD .g

/-- The size in bytes of a watched word (R407). -/
def watchSize (a : Word64) : Nat := if bitOf a 60 then 8 else 4

/-- What a location holds at its point of coherence, as a warp reads it (R407): memory with the held stores of
its bolt, which count as registered for it (R243), and the mirror of its ply with forwarding (R34); no value where a
peer rejects the access (R56) or, with `true`, gives no answer (R59). -/
def State.pointRead (s : State) (w : Warp) (x : Loc) (n : Nat) : Except Bool Nat × State :=
  match x with
  | .phys pa =>
    let laid := fun bs => leVal (overlayAll x bs ((s.heldStores w.place.bid).flatMap HEntry.runs))
    if isRemote pa then
      let r := s.askPeer (dieBeam (coreDie w.place.core)) pa n
      (r.1.map laid, r.2)
    else
      let s := s.l1Recall (some w.place.core) pa n
      (.ok (laid (cellBytes s.mem pa n)),
        (s.lineRequest (some (coreDie w.place.core)) (s.homeOf pa)).l1Revoke pa n)
  | .reed b a =>
    let p := s.ply (coreDie w.place.core)
    (.ok (leVal (overlayAll x (cellBytes p.mirror a n) (p.queue.flatMap fun q => q.run b))), s)
  | .scratch _ _ | .vault _ =>
    let (bs, s) := s.readHome x n
    (.ok (leVal bs), s)

/-- A watched word, as an element. -/
def watchElem (loc : Loc) (home : Option Die) (n : Nat) (a va : Word64) : Elem :=
  ⟨0, loc, n, a, va, .none, 0, 0, 0, home, .waiting⟩

/-- A watched word has an uncorrectable error (R272, R273): one in scratch kills the group, and any other is a
fault of the instruction of issue number `seq`; `excl` says whether R254 excludes it. [DEDUCED, log 17] -/
def State.watchBad (s : State) (w : Warp) (e : Elem) (q : Poison) (seq : Nat) (sp : Sp) (excl : Bool) : State :=
  match e.loc with
  | .scratch g _ => s.scratchKill g
  | .phys _ | .vault _ | .reed _ _ =>
    s.modWarp w.place.wid fun w => w.addFault
      { faultRec seq sp.frameCode excl 0 5 0x19 e.wordVa with struct := q.struct }

/-- The issue number that the MWAIT of a held group takes once the group issues (R250): it comes after the words before
it. -/
def Warp.mwaitSeq (w : Warp) : Nat :=
  let ws := w.packet.elim [] fun p => if p.pc = w.pc then groupWords (chain (p.words.drop w.widx.toNat)) else []
  w.issued + 1 + (ws.findIdx? fun g =>
    match g.instr with
    | .mwait _ => true
    | _ => false).getD 0

/-- Count the hit of a watched word's translation, once for each entry that its MWAIT uses (R213). -/
def State.watchHit (s : State) (w : Warp) (sp : Sp) (va : Word64) : State :=
  match sp with
  | .g | .p =>
    match s.hitOnce w w.watched va.toNat with
    | (some k, s) => s.modWarp w.place.wid fun w => { w with watched := k :: w.watched }
    | (none, s) => s
  | .s | .v | .r => s

/-- Read the watched word again, for the MWAIT of issue number `seq` (R408): zero on a non-resident page, and no value
where a check fails or a peer rejects the access or gives no answer, which is a fault of the MWAIT (R56, R59, R391), where
it kills the group, or while queued atomics on a reed word have not passed (R34). -/
def State.watchRead (s : State) (w : Warp) (seq : Nat) : Option Nat × State :=
  let a : Word64 := w.mwAddr &&& 0x0FFF_FFFF_FFFF_FFFF
  let n := watchSize w.mwAddr
  let sp := watchSpace w.mwAddr
  let fault := fun (s : State) (order : Nat) (cause : BitVec 8) (va : Word64) (late : Bool) =>
    s.modWarp w.place.wid fun w => w.addFault
      { faultRec seq sp.frameCode false 0 order cause va with remoteTo := late }
  match s.resolve w sp .load 0 a n false with
  | (.ok loc home va, s) =>
    let s := s.watchHit w sp va
    let e := watchElem loc home n a va
    if s.queuedAtomic (coreDie w.place.core) e then (none, s)
    else
      match s.elemPoison w.place.core e with
      | some q => (if sp == .s then none else some 0, s.watchBad w e q seq sp false)
      | none =>
        match s.pointRead w loc n with
        | (.ok v, s) => (some v, s)
        | (.error late, s) => (none, fault s 4 0x10 va late)
  | (.zero va, s) => (some 0, s.watchHit w sp va)
  | (.bad order cause at_, s) => (none, fault s order cause at_ false)

/-- Whether the watched word differs from the value recorded (R408). -/
def State.watchChanged (s : State) (w : Warp) (seq : Nat) : Bool × State :=
  let r := s.watchRead w seq
  (r.1.elim false fun v => v != w.mwOld.toNat, r.2)

/-! ## Readiness (R141, R146) -/

/-- Whether a warp's next packet has been fetched (R146). -/
def Warp.fetched (w : Warp) : Bool := w.packet.elim false fun p => p.pc == w.pc

/-- How many requests of a core stand in its loom's reservation table (R161). -/
def State.tableUsed (s : State) (core : Nat) : Nat :=
  (s.looms.find? fun x => x.1 == coreCluster core).elim 0 fun x =>
    (x.2.reqs.filter fun r => !r.granted).length

/-- Whether the holding buffer of a warp's core has room for `n` entries, or a spill makes it (R130, R401,
R403). -/
def State.holdingRoom (s : State) (w : Warp) (n : Nat) : Bool :=
  let excess := s.inBuffer w.place.core + n - 1024
  excess == 0 ||
    (s.lowerRetired w && (s.spillPlaces w.place.core w.place.bid w.env.part excess).length == excess)

/-- Whether the condition that holds a warp's next group has cleared; a warp that waits behind an access of its
own tries its group again. -/
def State.holdOver (s : State) (w : Warp) : Hold → Bool
  | .counter k => !w.counterFull k
  | .wait l c k t => w.waitMet l c k t
  | .barw l n gen | .secondArrival l n gen => gen != s.generation w l n
  | .mwait => w.busy == .woken || (s.watchChanged w w.mwaitSeq).1
  | .tile n need => (s.tile w.place.gid n).elim false fun t => tileMeets t need
  | .tdef => decide (s.tilesUsed w.place.core < 64)
  | .fifthFetchw => (s.group? w.place.gid).elim false fun g => decide (g.fetches.length < 4)
  | .firstAcquire => s.lowerRetired w
  | .acquire => !s.acquiring w.place.wid
  | .flush => (s.bolt? w.place.bid).elim true fun b => decide (w.epoch ≤ b.flushed)
  | .reedf ids => s.reedfMet w s.serial ids
  | .reedQueue n => s.queueRoom (coreDie w.place.core) n
  | .tret | .drain => w.cnt.isZero
  | .fence _ => s.acquireMet w
  | .ofence => s.ofenceMet w
  | .tfence => s.releaseMet w
  | .loomTable n => decide (s.tableUsed w.place.core + n ≤ 32)
  | .holdingRoom n => s.holdingRoom w n
  | .requests => !s.requestsFull w.place.core
  | .fetchMiss => w.fetched
  | .behind => true

/-- Whether the warps of a bolt may issue: its launch is not stopped (R53), and it is not being saved
(R261). -/
def State.boltRuns (s : State) (w : Warp) : Bool :=
  ((s.launch? w.place.lid).elim true fun l => !l.stopped) &&
    ((s.bolt? w.place.bid).elim true fun b => b.save == .resident || b.save == .named)

/-- Whether a warp waits for nothing but its turn (R146): it has neither exited nor a trap to take,
no begun instruction holds it, and its next group is not held. -/
def State.isReady (s : State) (w : Warp) : Bool :=
  !w.exited && s.boltRuns w && w.trap.isNone && (w.busy == .none || w.busy == .woken) &&
    w.sched.hold.elim true (s.holdOver w)

end Sys2Proof.Machine
end

