-- ==== Sys2Proof/Machine/Numbers.lean ====
section
/-! DEFINITION. Number formats and arithmetic (R275 to R293): exact values, the rounding helpers, the
operations of the vector unit with their NaNs, MX blocks and requantise, fixed trees, the
random-number generator, and the special functions to a precision that fixes their rounding. -/

namespace Sys2Proof.Machine

/-! ## Formats and exact values (R275 to R278) -/

/-- How a format encodes infinities and NaNs (R275). -/
inductive Specials where
  | ieee | onlyNan | none
  deriving DecidableEq, Repr

/-- A floating-point format (R275): the widths of E and M and the bias. -/
structure FFmt where
  e        : Nat
  m        : Nat
  bias     : Nat
  specials : Specials
  deriving DecidableEq, Repr

/-- FP32 (R275). -/
def fp32 : FFmt := ⟨8, 23, 127, .ieee⟩
/-- FP16 (R275). -/
def fp16 : FFmt := ⟨5, 10, 15, .ieee⟩
/-- BF16 (R275). -/
def bf16 : FFmt := ⟨8, 7, 127, .ieee⟩
/-- E4M3 (R275). -/
def e4m3 : FFmt := ⟨4, 3, 7, .onlyNan⟩
/-- E5M2 (R275). -/
def e5m2 : FFmt := ⟨5, 2, 15, .ieee⟩
/-- E2M3 (R275). -/
def e2m3 : FFmt := ⟨2, 3, 1, .none⟩
/-- E3M2 (R275). -/
def e3m2 : FFmt := ⟨3, 2, 3, .none⟩
/-- E2M1 (R275). -/
def e2m1 : FFmt := ⟨2, 1, 1, .none⟩

namespace FFmt

/-- The code of the sign bit. -/
def sign (f : FFmt) : Nat := 2 ^ (f.e + f.m)
/-- The code whose exponent field is all ones and whose M is zero. -/
def top (f : FFmt) : Nat := (2 ^ f.e - 1) * 2 ^ f.m
/-- The code of the largest finite value (R275). -/
def largest (f : FFmt) : Nat :=
  match f.specials with
  | .ieee => f.top - 1
  | .onlyNan => f.sign - 2
  | .none => f.sign - 1
/-- The code without its sign. -/
def mag (f : FFmt) (c : Nat) : Nat := c % f.sign
/-- Whether the sign bit of a code is set. -/
def neg (f : FFmt) (c : Nat) : Bool := c / f.sign % 2 == 1
/-- A code with a sign. -/
def signed (f : FFmt) (neg : Bool) (mag : Nat) : Nat := if neg then mag + f.sign else mag
/-- Whether a code is a NaN (R275). -/
def isNan (f : FFmt) (c : Nat) : Bool :=
  match f.specials with
  | .ieee => decide (f.top < f.mag c)
  | .onlyNan => f.mag c == f.sign - 1
  | .none => false
/-- Whether a code is an infinity (R275). -/
def isInf (f : FFmt) (c : Nat) : Bool := f.specials == .ieee && f.mag c == f.top

end FFmt

/-- An exact number: a sign, and a magnitude `m` x 2^`e`; a zero keeps its sign. -/
structure Num where
  neg : Bool
  m   : Nat
  e   : Int
  deriving DecidableEq, Repr

/-- A value that an operand may have: a number, an infinity, or a NaN with its sign and the four low
bits of M (R286). -/
inductive Val where
  | num (x : Num)
  | inf (neg : Bool)
  | nan (neg : Bool) (low : Nat)
  deriving DecidableEq, Repr

/-- The number of a finite code (R276). -/
def FFmt.num (f : FFmt) (c : Nat) : Num :=
  let a := f.mag c
  let ex := a / 2 ^ f.m
  let fr := a % 2 ^ f.m
  if ex = 0 then ⟨f.neg c, fr, 1 - (f.bias : Int) - f.m⟩
  else ⟨f.neg c, fr + 2 ^ f.m, (ex : Int) - f.bias - f.m⟩

/-- The value of a code (R275, R276). -/
def FFmt.val (f : FFmt) (c : Nat) : Val :=
  if f.isNan c then .nan (f.neg c) (f.mag c % 2 ^ f.m % 16)
  else if f.isInf c then .inf (f.neg c)
  else .num (f.num c)

/-- The number of an integer. -/
def Num.ofInt (i : Int) : Num := ⟨decide (i < 0), i.natAbs, 0⟩

/-- A number's magnitude with its sign. -/
def Num.signed (x : Num) : Int := if x.neg then -(x.m : Int) else x.m

/-- The floor of the base-2 logarithm of a number that is not zero. -/
def Num.log2 (x : Num) : Int := (Nat.log2 x.m : Int) + x.e

/-- The exact product. -/
def Num.mul (x y : Num) : Num := ⟨xor x.neg y.neg, x.m * y.m, x.e + y.e⟩

/-- The exact sum; a zero sum of operands of opposite sign is +0, and of equal sign keeps it (R283). -/
def Num.add (x y : Num) : Num :=
  let e := min x.e y.e
  let s := x.signed * (2 ^ (x.e - e).toNat : Nat) + y.signed * (2 ^ (y.e - e).toNat : Nat)
  ⟨if s = 0 then x.neg && y.neg else decide (s < 0), s.natAbs, e⟩

/-- A number times a power of two. -/
def Num.scale (x : Num) (k : Int) : Num := { x with e := x.e + k }

/-! ## Rounding (R280, R291, R343) -/

/-- How a value that is not on the grid is rounded: to nearest even, towards zero, or up when its
fraction in units of 2^-16 exceeds `u`. -/
inductive Mode where
  | rne | rz | sr (u : Nat)
  deriving DecidableEq, Repr

/-- Divide by 2^k and round. -/
def roundShift (md : Mode) (n k : Nat) : Nat :=
  let q := n / 2 ^ k
  let r := n % 2 ^ k
  match md with
  | .rz => q
  | .rne =>
    if 2 ^ k < 2 * r ∨ (2 * r = 2 ^ k ∧ q % 2 = 1) then q + 1 else q
  | .sr u => if u * 2 ^ k < r * 2 ^ 16 then q + 1 else q

/-- The code of a magnitude rounded to a format's grid, its exponent unbounded above (R280). -/
def FFmt.roundMag (f : FFmt) (md : Mode) (x : Num) : Nat :=
  if x.m = 0 then 0
  else
    let low : Int := 1 - (f.bias : Int) - f.m
    let q : Int := max (x.log2 - f.m) low
    let n := if q ≤ x.e then x.m * 2 ^ (x.e - q).toNat else roundShift md x.m (q - x.e).toNat
    n + (q - low).toNat * 2 ^ f.m

/-- Round a number to FP32, FP16 or BF16: beyond the largest finite value ±inf under round_rne, and
the largest finite value under round_rz (R280, R343). -/
def FFmt.round (f : FFmt) (md : Mode) (x : Num) : Nat :=
  let c := f.roundMag md x
  f.signed x.neg (if c ≤ f.largest then c else if md = .rz then f.largest else f.top)

/-- Round a number to an MX element format and saturate (R280, R281). -/
def FFmt.roundSat (f : FFmt) (md : Mode) (x : Num) : Nat :=
  f.signed x.neg (min (f.roundMag md x) f.largest)

/-- The integer that a number rounds to, as `rz` says (R343). -/
def Num.toInt (x : Num) (rz : Bool) : Int :=
  let n :=
    if 0 ≤ x.e then x.m * 2 ^ x.e.toNat
    else roundShift (if rz then .rz else .rne) x.m (-x.e).toNat
  if x.neg then -(n : Int) else n

/-! ## Operations of the vector unit (R283 to R285) -/

/-- A generated NaN (R285). -/
def FFmt.nanGen (f : FFmt) (cause : Nat) : Nat := f.top + 2 ^ (f.m - 1) + cause

/-- A NaN made quiet (R284). -/
def FFmt.quiet (f : FFmt) (c : Nat) : Nat := Nat.lor c (2 ^ (f.m - 1))

/-- A value as a code of FP32, FP16 or BF16: a NaN keeps its sign and the four low bits of M
(R286). -/
def FFmt.ofVal (f : FFmt) (md : Mode) : Val → Nat
  | .num x => f.round md x
  | .inf n => f.signed n f.top
  | .nan n low => f.signed n (f.nanGen low)

/-- Take the first NaN operand made quiet, and the operation otherwise (R284). -/
def FFmt.unlessNan (f : FFmt) (ops : List Nat) (r : Nat) : Nat :=
  match ops.find? f.isNan with
  | some c => f.quiet c
  | none => r

/-- The sum of two values that are not NaN; none where infinities of opposite sign meet. -/
def Val.add : Val → Val → Option Val
  | .num x, .num y => some (.num (x.add y))
  | .inf a, .inf b => if a = b then some (.inf a) else none
  | .inf a, _ => some (.inf a)
  | _, y => some y

/-- The product of two values that are not NaN; none where zero meets infinity. -/
def Val.mul : Val → Val → Option Val
  | .num x, .num y => some (.num (x.mul y))
  | .num x, .inf b => if x.m = 0 then none else some (.inf (xor x.neg b))
  | .inf a, .num y => if y.m = 0 then none else some (.inf (xor a y.neg))
  | .inf a, .inf b => some (.inf (xor a b))
  | x, .nan _ _ => some x
  | .nan _ _, y => some y

/-- A value with its sign inverted. -/
def Val.negate : Val → Val
  | .num x => .num { x with neg := !x.neg }
  | .inf n => .inf (!n)
  | .nan n l => .nan (!n) l

/-- a + b (R369). -/
def FFmt.add (f : FFmt) (a b : Nat) : Nat :=
  f.unlessNan [a, b] (((f.val a).add (f.val b)).elim (f.nanGen 4) (f.ofVal .rne))

/-- a - b (R369). -/
def FFmt.sub (f : FFmt) (a b : Nat) : Nat :=
  f.unlessNan [a, b] (((f.val a).add (f.val b).negate).elim (f.nanGen 4) (f.ofVal .rne))

/-- a x b (R369). -/
def FFmt.mul (f : FFmt) (a b : Nat) : Nat :=
  f.unlessNan [a, b] (((f.val a).mul (f.val b)).elim (f.nanGen 5) (f.ofVal .rne))

/-- a x b + c, or a x b - c, with one rounding (R369). -/
def FFmt.fma (f : FFmt) (minus : Bool) (a b c : Nat) : Nat :=
  f.unlessNan [a, b, c]
    (match (f.val a).mul (f.val b) with
      | none => f.nanGen 5
      | some p =>
        (p.add (if minus then (f.val c).negate else f.val c)).elim (f.nanGen 4) (f.ofVal .rne))

/-- A code's place in the order in which -0 lies below +0 (R283). -/
def FFmt.rank (f : FFmt) (c : Nat) : Int := if f.neg c then -(f.mag c : Int) - 1 else f.mag c

/-- The lesser of two operands (R369). -/
def FFmt.fmin (f : FFmt) (a b : Nat) : Nat :=
  f.unlessNan [a, b] (if f.rank b < f.rank a then b else a)

/-- The greater of two operands (R369). -/
def FFmt.fmax (f : FFmt) (a b : Nat) : Nat :=
  f.unlessNan [a, b] (if f.rank a < f.rank b then b else a)

/-- The class word of an element (R370). -/
def FFmt.classWord (f : FFmt) (c : Nat) : Nat :=
  let a := f.mag c
  let n := f.neg c
  if f.isNan c then
    (if a / 2 ^ (f.m - 1) % 2 = 1 then 2 else 1) + a % 16 * 2 ^ 12
  else if f.isInf c then (if n then 2 ^ 2 else 2 ^ 9)
  else if a = 0 then (if n then 2 ^ 5 else 2 ^ 6)
  else if a < 2 ^ f.m then (if n then 2 ^ 4 else 2 ^ 7)
  else if n then 2 ^ 3 else 2 ^ 8

/-- A comparison of two FP32 lanes (R371). -/
def compare32 (k : FCond) (a b : Nat) : Bool :=
  let key := fun c : Nat => if fp32.neg c then -(fp32.mag c : Int) else fp32.mag c
  fcondTest k (fp32.isNan a || fp32.isNan b) (decide (key a < key b)) (key a == key b)

/-! ## MX elements and blocks (R281, R287, R290, R291) -/

/-- The format of an MX element code (R317). -/
def mxFmt : MxF → FFmt
  | .e4m3 => e4m3
  | .e5m2 => e5m2
  | .e2m3 => e2m3
  | .e3m2 => e3m2
  | .e2m1 => e2m1

/-- The bits of an element of a format (R275). -/
def FFmt.bits (f : FFmt) : Nat := f.e + f.m + 1

/-- emax of a format (R290): the exponent of its largest finite value. -/
def FFmt.emax (f : FFmt) : Int := (f.num f.largest).log2

/-- A value converted to an MX element format (R281). -/
def FFmt.ofValMx (f : FFmt) : Val → Nat
  | .num x => f.roundSat .rne x
  | .inf n => f.signed n (if f.specials = .ieee then f.top else f.largest)
  | .nan n _ => if f.specials = .none then 0 else f.signed n (f.sign - 1)

/-- Decode an MX element under its scale code to FP32 (R287). -/
def FFmt.decodeMx (f : FFmt) (scale c : Nat) : Nat :=
  if scale = 255 then fp32.nanGen 7
  else
    match f.val c with
    | .nan n _ => fp32.signed n (fp32.nanGen 1)
    | .inf n => fp32.signed n fp32.top
    | .num x => fp32.round .rne (x.scale ((scale : Int) - 127))

/-- The exact value of an MXTS8 element, in units of 2^-6 (R278). -/
def ts8Val (c : Nat) : Int :=
  let term := fun t : Nat =>
    let v : Int := if t % 8 = 7 then 0 else (2 ^ (6 - t % 8) : Nat)
    if t / 8 % 2 = 1 then -v else v
  term (c / 16) + term c

/-- Decode an MXTS8 element under its scale code to FP32 (R378). -/
def decodeTs8 (scale c : Nat) : Nat :=
  if scale = 255 then fp32.nanGen 7
  else fp32.round .rne ((Num.ofInt (ts8Val c)).scale ((scale : Int) - 133))

/-- The scale exponent X of a block without NaN, from the largest magnitude code of its FP32 values
(R290). -/
def scaleExp (f : FFmt) (m : Nat) : Int :=
  if m = 0 then -127
  else if m = fp32.top then 127
  else max (-127) (min 127 ((fp32.num m).log2 - f.emax))

/-- The scale code of a block of FP32 values (R290, R380): 0xFF where one is NaN. -/
def blockScale (f : FFmt) (vs : List Nat) : Nat :=
  if vs.any fp32.isNan then 255
  else (scaleExp f ((vs.map fp32.mag).foldl max 0) + 127).toNat

/-- Requantise a block of FP32 values (R290, R291): its scale code and its element codes; `mode`
rounds the element of an index. -/
def requantise (f : FFmt) (mode : Nat → Mode) (vs : List Nat) : Nat × List Nat :=
  let sc := blockScale f vs
  if sc = 255 then (255, vs.map fun _ => 0)
  else
    (sc, vs.zipIdx.map fun v =>
      match fp32.val v.1 with
      | .num x => f.roundSat (mode v.2) (x.scale (127 - (sc : Int)))
      | .inf n => f.signed n f.largest
      | .nan _ _ => 0)

/-- Element codes of `bits` bits packed as a little-endian bit string (R193). -/
def packCodes (bits : Nat) : List Nat → Nat
  | [] => 0
  | c :: cs => c % 2 ^ bits + 2 ^ bits * packCodes bits cs

/-- Element `i` of a packed block (R193). -/
def codeAt (bits block i : Nat) : Nat := block / 2 ^ (bits * i) % 2 ^ bits

/-! ## Fixed trees (R292) -/

/-- One level of a tree. -/
def treeLevel {α : Type} (op : α → α → α) : List α → List α
  | a :: b :: rest => op a b :: treeLevel op rest
  | xs => xs

/-- The node over 2^k leaves (R292). -/
def treeReduce {α : Type} (op : α → α → α) (dflt : α) : Nat → List α → α
  | 0, xs => xs.headD dflt
  | k + 1, xs => treeReduce op dflt k (treeLevel op xs)

/-- The inclusive prefix over the first `n` leaves (R292): the aligned blocks that the digits of `n`
name, from the left. -/
def treePrefix {α : Type} (op : α → α → α) (dflt : α) (n : Nat) (xs : List α) : α :=
  let blocks := [5, 4, 3, 2, 1, 0].foldl (fun (r : Nat × List α) k =>
    if n.testBit k then
      (r.1 + 2 ^ k, r.2 ++ [treeReduce op dflt k ((xs.drop r.1).take (2 ^ k))])
    else r) (0, [])
  match blocks.2 with
  | [] => dflt
  | b :: bs => bs.foldl op b

/-! ## Random numbers (R293) -/

/-- The constants of a round of the generator (R293). -/
def drawRounds : List (Nat × Nat × Word32) :=
  [(13, 17, 0x9E3779B9), (7, 25, 0x3C6EF372), (19, 11, 0xDAA66D2B), (5, 29, 0x78DDE6E4)]

/-- vrand_draw (R293). -/
def vrandDraw (seed : Word64) (lid : Word32) (d : Word64) : Vector Word32 4 :=
  let r := drawRounds.foldl (fun (x : Word32 × Word32 × Word32 × Word32) k =>
    let x0 := x.1 + x.2.1
    let x1 := x.2.1.rotateLeft k.1 ^^^ x0
    let x2 := x.2.2.1 + x.2.2.2
    let x3 := x.2.2.2.rotateLeft k.2.1 ^^^ x2
    (x0 ^^^ k.2.2, x3, x2, x1)) (seed.setWidth 32, (seed >>> 32).setWidth 32, lid, d.setWidth 32)
  #v[r.1, r.2.1, r.2.2.1, r.2.2.2]

/-- The logical lane id of a lane (R293). -/
def Warp.lid (w : Warp) (l : Nat) : Word32 :=
  BitVec.ofNat 32 (32 * (512 * w.place.bolt.toNat + 32 * w.place.gidx.toNat + w.place.widx.toNat) + l)

/-! ## Special functions (R372, R373)

The algebraic functions are computed exactly with a sticky bit.  The transcendental ones are computed
in fixed point with 400 bits after the point, far below any distance between an FP32 tie and a value
of theirs that is not exact; a sticky bit marks them inexact. -/

/-- The bits after the point. -/
def fixBits : Nat := 400
/-- One, in fixed point. -/
def fixOne : Int := (2 ^ fixBits : Nat)
/-- Half of pi, in fixed point. -/
def fixHalfPi : Int := 0x1921fb54442d18469898cc51701b839a252049c1114cf98e804177d4c76273644a29410f31c6809bbdf2a33679a7486366056
/-- The natural logarithm of 2, in fixed point. -/
def fixLn2 : Int := 0xb17217f7d1cf79abc9e3b39803f2f6af40f343267298b62d8a0d175b8baafa2be7b876206debac98559552fb4afa1b10ed2e

/-- A product in fixed point. -/
def fixMul (a b : Int) : Int := a * b / fixOne

/-- A number in fixed point. -/
def Num.fix (x : Num) : Int :=
  let k : Int := x.e + fixBits
  x.signed * (2 ^ k.toNat : Nat) / (2 ^ (-k).toNat : Nat)

/-- Round a fixed-point value that is not exact (R280). -/
def fixRound (v : Int) (k : Int) : Nat :=
  fp32.round .rne ⟨decide (v < 0), 2 * v.natAbs + 1, k - fixBits - 1⟩

/-- The greatest root whose square does not exceed a number. -/
def isqrt (n : Nat) : Nat :=
  (List.range (Nat.log2 n / 2 + 1)).foldr (fun i r => if (r + 2 ^ i) * (r + 2 ^ i) ≤ n then r + 2 ^ i else r) 0

/-- A quotient or root with a sticky bit: twice it, plus 1 where it is not exact. -/
def sticky (q : Nat) (exact : Bool) : Nat := if exact then 2 * q else 2 * q + 1

/-- 1/x of a number that is not zero. -/
def recipNum (x : Num) : Num :=
  let k := Nat.log2 x.m + 64
  ⟨x.neg, sticky (2 ^ k / x.m) (2 ^ k % x.m == 0), -x.e - k - 1⟩

/-- The square root of a number that is not below zero. -/
def sqrtNum (x : Num) : Num :=
  let k := 128 + (x.e % 2).toNat
  let n := x.m * 2 ^ k
  let r := isqrt n
  ⟨false, sticky r (r * r == n), (x.e - k) / 2 - 1⟩

/-- 1/sqrt(x) of a number above zero. -/
def rsqrtNum (x : Num) : Num :=
  let n := x.m * 2 ^ (x.e % 2).toNat
  let k := Nat.log2 n + 128
  let r := isqrt (2 ^ (2 * k) / n)
  ⟨false, sticky r (r * r * n == 2 ^ (2 * k)), -(x.e / 2) - k - 1⟩

/-- The sum of a power series with `n` more terms, from term `t`, the sum so far, and the next term
from a term and its number. -/
def series (next : Int → Nat → Int) : Nat → Nat → Int → Int → Int
  | 0, _, _, acc => acc
  | n + 1, k, t, acc => series next n (k + 1) (next t k) (acc + t)

/-- e^t for a fixed-point t of magnitude below 1. -/
def fixExp (t : Int) : Int := series (fun u k => fixMul u t / ((k : Int) + 1)) 110 0 fixOne 0

/-- 2^f for a fixed-point f of at least 0 and below 1. -/
def fixExp2 (f : Int) : Int := fixExp (fixMul f fixLn2)

/-- The natural logarithm of a fixed-point y of at least 1 and below 2: 2 artanh((y - 1)/(y + 1)). -/
def fixLn (y : Int) : Int :=
  let z := (y - fixOne) * fixOne / (y + fixOne)
  let zz := fixMul z z
  let r := (List.range 140).foldl (fun (r : Int × Int) (k : Nat) =>
    (r.1 + r.2 / (2 * (k : Int) + 1), fixMul r.2 zz)) (0, z)
  2 * r.1

/-- sin r for a fixed-point r of magnitude below 1. -/
def fixSin (r : Int) : Int :=
  let rr := fixMul r r
  series (fun u k => -(fixMul u rr / ((2 * (k : Int) + 2) * (2 * (k : Int) + 3)))) 60 0 r 0

/-- cos r for a fixed-point r of magnitude below 1. -/
def fixCos (r : Int) : Int :=
  let rr := fixMul r r
  series (fun u k => -(fixMul u rr / ((2 * (k : Int) + 1) * (2 * (k : Int) + 2)))) 60 0 fixOne 0

/-- 2^x (R372). -/
def exp2Num (x : Num) : Nat :=
  if x.m ≠ 0 ∧ 8 ≤ x.log2 then (if x.neg then 0 else fp32.top)
  else
    let v := x.fix
    let n := v / fixOne
    let f := v % fixOne
    if f = 0 then fp32.round .rne ⟨false, 1, n⟩ else fixRound (fixExp2 f) n

/-- log2 x of a number above zero (R372). -/
def log2Num (x : Num) : Nat :=
  let k := x.log2
  let y : Int := (x.m : Int) * fixOne / (2 ^ Nat.log2 x.m : Nat)
  if y = fixOne then fp32.round .rne (Num.ofInt k)
  else fixRound (k * fixOne + fixLn y * fixOne / fixLn2) 0

/-- The sine of a number, or its cosine where `quarter` is 1 (R372): the argument is reduced exactly
by multiples of half of pi. -/
def sinNum (x : Num) (quarter : Int) : Nat :=
  let v := x.fix
  let k := (2 * v + fixHalfPi) / (2 * fixHalfPi)
  let r := v - k * fixHalfPi
  let q := (k + quarter) % 4
  fixRound (if q = 0 then fixSin r else if q = 1 then fixCos r else if q = 2 then -fixSin r
    else -fixCos r) 0

/-- The hyperbolic tangent of a number that is not zero (R372). -/
def tanhNum (x : Num) : Nat :=
  if 5 ≤ x.log2 then fp32.signed x.neg 0x3F800000
  else
    let v := 2 * ({ x with neg := false } : Num).fix
    let n := v / fixLn2
    let ex := fixExp (v - n * fixLn2) * (2 ^ n.toNat : Nat)
    let t := (ex - fixOne) * fixOne / (ex + fixOne)
    fp32.signed x.neg (fixRound t 0)

/-- The functions of MAJ 0x1C (R372). -/
inductive Special where
  | rcp | rsq | sqrt | exp2 | log2 | sin | cos | tanh
  deriving DecidableEq, Repr

/-- A function of an operand that is an infinity (R373). -/
def Special.ofInf : Special → Bool → Nat
  | .rcp, n => fp32.signed n 0
  | .rsq, n | .sqrt, n | .log2, n =>
    if n then fp32.nanGen 6 else fp32.top
  | .exp2, n => if n then 0 else fp32.top
  | .sin, _ | .cos, _ => fp32.nanGen 6
  | .tanh, n => fp32.signed n 0x3F800000

/-- A function of an operand that is a zero (R373). -/
def Special.ofZero : Special → Bool → Nat
  | .rcp, n | .rsq, n => fp32.signed n fp32.top
  | .sqrt, n | .sin, n | .tanh, n => fp32.signed n 0
  | .exp2, _ | .cos, _ => 0x3F800000
  | .log2, _ => fp32.signed true fp32.top

/-- A function of a finite operand that is not zero (R372, R373). -/
def Special.ofNum (k : Special) (x : Num) : Nat :=
  match k with
  | .rcp => fp32.round .rne (recipNum x)
  | .rsq => if x.neg then fp32.nanGen 6 else fp32.round .rne (rsqrtNum x)
  | .sqrt => if x.neg then fp32.nanGen 6 else fp32.round .rne (sqrtNum x)
  | .exp2 => exp2Num x
  | .log2 => if x.neg then fp32.nanGen 6 else log2Num x
  | .sin => sinNum x 0
  | .cos => sinNum x 1
  | .tanh => tanhNum x

/-- A function of an FP32 operand (R372, R373). -/
def Special.apply (k : Special) (c : Nat) : Nat :=
  match fp32.val c with
  | .nan _ _ => fp32.quiet c
  | .inf n => if k = .rsq ∧ !n then 0 else k.ofInf n
  | .num x => if x.m = 0 then k.ofZero x.neg else k.ofNum x

end Sys2Proof.Machine
end

