-- ==== Sys2Proof/Machine/Scalar.lean ====
section
/-! DEFINITION. The scalar words of MAJ 0x01 to 0x0A but SCVT (R329 to R341), and the predicate words
and PART of MAJ 0x0B (R381, R382). -/

namespace Sys2Proof.Machine

/-! ## Scalar types (R330) -/

/-- The width of a scalar type (R330). -/
def scalarWidth : STy → Nat
  | .i64 => 64
  | .i32 | .u32 => 32

/-- The low bits of a result, extended as its type says (R330). -/
def scalarNorm (t : STy) (v : Word64) : Word64 :=
  match t with
  | .i64 => v
  | .i32 => (v.setWidth 32).signExtend 64
  | .u32 => (v.setWidth 32).zeroExtend 64

/-- A source as a number: two's complement for .i64 and .i32, unsigned for .u32 (R330). -/
def scalarInt (t : STy) (v : Word64) : Int :=
  match t with
  | .i64 => v.toInt
  | .i32 => (v.setWidth 32).toInt
  | .u32 => (v.setWidth 32).toNat

/-- A source with the bits above its width zero (R330). -/
def scalarLow (t : STy) (v : Word64) : Word64 :=
  match t with
  | .i64 => v
  | .i32 | .u32 => (v.setWidth 32).zeroExtend 64

/-- A number as a result of a type, wrapping (R330). -/
def scalarOfInt (t : STy) (v : Int) : Word64 := scalarNorm t (BitVec.ofInt 64 v)

/-- The shift count of a type (R332). -/
def scalarCount (t : STy) (b : Word64) : Nat := b.toNat % scalarWidth t

/-- The high half of the exact product (R332). -/
def scalarMulHigh (t : STy) (a b : Word64) : Word64 :=
  scalarOfInt t (scalarInt t a * scalarInt t b / (2 ^ scalarWidth t : Nat))

/-- The quotient, rounded towards zero; all ones for a divisor of zero (R333). -/
def scalarDiv (t : STy) (a b : Word64) : Word64 :=
  if scalarInt t b = 0 then scalarNorm t (BitVec.allOnes 64)
  else scalarOfInt t ((scalarInt t a).tdiv (scalarInt t b))

/-- The remainder, with the sign of the dividend; the dividend for a divisor of zero (R333). -/
def scalarRem (t : STy) (a b : Word64) : Word64 :=
  if scalarInt t b = 0 then scalarNorm t a
  else scalarOfInt t ((scalarInt t a).tmod (scalarInt t b))

/-- The lesser of two sources (R332). -/
def scalarMin (t : STy) (a b : Word64) : Word64 :=
  if scalarInt t b < scalarInt t a then scalarNorm t b else scalarNorm t a

/-- The greater of two sources (R332). -/
def scalarMax (t : STy) (a b : Word64) : Word64 :=
  if scalarInt t a < scalarInt t b then scalarNorm t b else scalarNorm t a

/-- The number of set bits of a word (R338, R366). -/
def popCount {n : Nat} (v : BitVec n) : Nat := (List.range n).countP v.getLsbD

/-- The number of zero bits above the highest set bit, or all of them (R338, R366). -/
def leadingZeros {n : Nat} (v : BitVec n) : Nat :=
  if v.toNat = 0 then n else n - 1 - Nat.log2 v.toNat

/-- A field of a word, zero- or sign-extended from its top bit (R341, R368). -/
def bitField (v pos len : Nat) (sx : Bool) : Int :=
  let f := v / 2 ^ pos % 2 ^ len
  if sx && f.testBit (len - 1) then (f : Int) - (2 ^ len : Nat) else f

/-- A word with a field replaced (R341). -/
def bitInsert (old v pos len : Nat) : Nat :=
  old - old / 2 ^ pos % 2 ^ len * 2 ^ pos + v % 2 ^ len * 2 ^ pos

/-! ## Shapes -/

/-- A scalar result: written to a scalar register when the guard is not empty (R329). -/
def State.writeS (s : State) (x : Ext) (d : SReg) (f : Warp → Word64) : State :=
  s.warpWord x fun s => s.modW fun w => w.sset d (f s.rd)

/-- Lanes of a predicate in the active mask: written when the guard is not empty (R331, R381). -/
def State.writeP (s : State) (x : Ext) (d : PReg) (f : Warp → Lanes) : State :=
  s.warpWord x fun s => s.modW fun w => w.pset d s.rd.ctl.am (f s.rd)

/-- A lane mask of all lanes or none. -/
def allLanes (b : Bool) : Lanes := if b then BitVec.allOnes 32 else 0

/-! ## MAJ 0x01 (R332 to R334) -/

/-- SADD: a + b (R332). -/
def execSadd (x : Ext) (t : STy) (d a b : SReg) (s : State) : Host.Outcome State Fault Refusal :=
  issueWord (.sadd x t d a b) s fun s => s.writeS x d fun r => scalarNorm t (r.sget a + r.sget b)

/-- SSUB: a - b (R332). -/
def execSsub (x : Ext) (t : STy) (d a b : SReg) (s : State) : Host.Outcome State Fault Refusal :=
  issueWord (.ssub x t d a b) s fun s => s.writeS x d fun r => scalarNorm t (r.sget a - r.sget b)

/-- SMUL: the low bits of a x b (R332). -/
def execSmul (x : Ext) (t : STy) (d a b : SReg) (s : State) : Host.Outcome State Fault Refusal :=
  issueWord (.smul x t d a b) s fun s => s.writeS x d fun r => scalarNorm t (r.sget a * r.sget b)

/-- SMULH: the high bits of the exact product (R332). -/
def execSmulh (x : Ext) (t : STy) (d a b : SReg) (s : State) : Host.Outcome State Fault Refusal :=
  issueWord (.smulh x t d a b) s fun s => s.writeS x d fun r => scalarMulHigh t (r.sget a) (r.sget b)

/-- SDIV: the quotient (R333). -/
def execSdiv (x : Ext) (t : STy) (d a b : SReg) (s : State) : Host.Outcome State Fault Refusal :=
  issueWord (.sdiv x t d a b) s fun s => s.writeS x d fun r => scalarDiv t (r.sget a) (r.sget b)

/-- SREM: the remainder (R333). -/
def execSrem (x : Ext) (t : STy) (d a b : SReg) (s : State) : Host.Outcome State Fault Refusal :=
  issueWord (.srem x t d a b) s fun s => s.writeS x d fun r => scalarRem t (r.sget a) (r.sget b)

/-- SAND: a AND b (R332). -/
def execSand (x : Ext) (t : STy) (d a b : SReg) (s : State) : Host.Outcome State Fault Refusal :=
  issueWord (.sand x t d a b) s fun s => s.writeS x d fun r => scalarNorm t (r.sget a &&& r.sget b)

/-- SOR: a OR b (R332). -/
def execSor (x : Ext) (t : STy) (d a b : SReg) (s : State) : Host.Outcome State Fault Refusal :=
  issueWord (.sor x t d a b) s fun s => s.writeS x d fun r => scalarNorm t (r.sget a ||| r.sget b)

/-- SXOR: a XOR b (R332). -/
def execSxor (x : Ext) (t : STy) (d a b : SReg) (s : State) : Host.Outcome State Fault Refusal :=
  issueWord (.sxor x t d a b) s fun s => s.writeS x d fun r => scalarNorm t (r.sget a ^^^ r.sget b)

/-- SSHL: a shifted left by b mod w (R332). -/
def execSshl (x : Ext) (t : STy) (d a b : SReg) (s : State) : Host.Outcome State Fault Refusal :=
  issueWord (.sshl x t d a b) s fun s => s.writeS x d fun r => scalarNorm t (r.sget a <<< scalarCount t (r.sget b))

/-- SSHR: a shifted right by b mod w, zeros entering (R332). -/
def execSshr (x : Ext) (t : STy) (d a b : SReg) (s : State) : Host.Outcome State Fault Refusal :=
  issueWord (.sshr x t d a b) s fun s => s.writeS x d fun r => scalarNorm t (scalarLow t (r.sget a) >>> scalarCount t (r.sget b))

/-- SSRA: a shifted right by b mod w, copies of bit w - 1 entering (R332). -/
def execSsra (x : Ext) (t : STy) (d a b : SReg) (s : State) : Host.Outcome State Fault Refusal :=
  issueWord (.ssra x t d a b) s fun s => s.writeS x d fun r => 
    scalarNorm t ((match t with
      | .i64 => r.sget a
      | .i32 | .u32 => ((r.sget a).setWidth 32).signExtend 64).sshiftRight (scalarCount t (r.sget b)))

/-- SMIN: the lesser of a and b (R332). -/
def execSmin (x : Ext) (t : STy) (d a b : SReg) (s : State) : Host.Outcome State Fault Refusal :=
  issueWord (.smin x t d a b) s fun s => s.writeS x d fun r => scalarMin t (r.sget a) (r.sget b)

/-- SMAX: the greater of a and b (R332). -/
def execSmax (x : Ext) (t : STy) (d a b : SReg) (s : State) : Host.Outcome State Fault Refusal :=
  issueWord (.smax x t d a b) s fun s => s.writeS x d fun r => scalarMax t (r.sget a) (r.sget b)

/-- SMAD: the low bits of a x b + c (R332). -/
def execSmad (x : Ext) (t : STy) (d a b e : SReg) (s : State) : Host.Outcome State Fault Refusal :=
  issueWord (.smad x t d a b e) s fun s => s.writeS x d fun r => scalarNorm t (r.sget a * r.sget b + r.sget e)

/-- SMOV: a, whole or extended from 32 bits (R334). -/
def execSmov (x : Ext) (t : STy) (d a : SReg) (s : State) : Host.Outcome State Fault Refusal :=
  issueWord (.smov x t d a) s fun s => s.writeS x d fun r => scalarNorm t (r.sget a)

/-- SMOV to an index register: sA[15:0] (R334). -/
def execSmovToIx (x : Ext) (d : IxReg) (a : SReg) (s : State) : Host.Outcome State Fault Refusal :=
  issueWord (.smovToIx x d a) s fun s => 
    s.warpWord x fun s => s.modW fun w => w.ixset d ((s.rd.sget a).setWidth 16)

/-- SMOV from an index register, zero-extended (R334). -/
def execSmovFromIx (x : Ext) (d : SReg) (a : IxReg) (s : State) : Host.Outcome State Fault Refusal :=
  issueWord (.smovFromIx x d a) s fun s => s.writeS x d fun r => (r.ixget a).zeroExtend 64

/-! ## Compare, select and count (R336 to R338) -/

/-- SCMP: the condition, to every lane of the active mask (R336). -/
def execScmp (x : Ext) (k : Cond) (t : STy) (d : PReg) (a b : SReg) (s : State) : Host.Outcome State Fault Refusal :=
  issueWord (.scmp x k t d a b) s fun s => s.writeP x d fun r =>
    allLanes (condTest k (decide (scalarInt t (r.sget a) < scalarInt t (r.sget b)))
      (scalarInt t (r.sget a) == scalarInt t (r.sget b)))

/-- SSEL: sA when pN holds, else sB (R337). -/
def execSsel (x : Ext) (n : PReg) (d a b : SReg) (s : State) : Host.Outcome State Fault Refusal :=
  issueWord (.ssel x n d a b) s fun s => s.writeS x d fun r =>
    if r.holds n then r.sget a else r.sget b

/-- SPOPC: the number of set bits (R338). -/
def execSpopc (x : Ext) (d a : SReg) (s : State) : Host.Outcome State Fault Refusal :=
  issueWord (.spopc x d a) s fun s => s.writeS x d fun r => BitVec.ofNat 64 (popCount (r.sget a))

/-- SCLZ: the number of leading zero bits (R338). -/
def execSclz (x : Ext) (d a : SReg) (s : State) : Host.Outcome State Fault Refusal :=
  issueWord (.sclz x d a) s fun s => s.writeS x d fun r => BitVec.ofNat 64 (leadingZeros (r.sget a))

/-! ## Immediates and bit fields (R339 to R341) -/

/-- SADDI: sA + imm (R339). -/
def execSaddi (x : Ext) (d a : SReg) (i : BitVec 31) (s : State) : Host.Outcome State Fault Refusal :=
  issueWord (.saddi x d a i) s fun s => s.writeS x d fun r => r.sget a + i.signExtend 64

/-- SLI: imm, sign-extended (R340). -/
def execSli (x : Ext) (d : SReg) (i : BitVec 37) (s : State) : Host.Outcome State Fault Refusal :=
  issueWord (.sli x d i) s fun s => s.writeS x d fun _ => i.signExtend 64

/-- SLIH: imm in the high half, the low half kept (R340). -/
def execSlih (x : Ext) (d : SReg) (i : BitVec 32) (s : State) : Host.Outcome State Fault Refusal :=
  issueWord (.slih x d i) s fun s => s.writeS x d fun r => i ++ (r.sget d).setWidth 32

/-- SBFX: a field of sA; `l` codes its length minus 1 (R341). -/
def execSbfx (x : Ext) (d a : SReg) (p l : BitVec 6) (sx : Bool) (s : State) : Host.Outcome State Fault Refusal :=
  issueWord (.sbfx x d a p l sx) s fun s => s.writeS x d fun r =>
    BitVec.ofInt 64 (bitField (r.sget a).toNat p.toNat (l.toNat + 1) sx)

/-- SBFI: the low bits of sA into a field of sD (R341). -/
def execSbfi (x : Ext) (d a : SReg) (p l : BitVec 6) (s : State) : Host.Outcome State Fault Refusal :=
  issueWord (.sbfi x d a p l) s fun s => s.writeS x d fun r =>
    BitVec.ofNat 64 (bitInsert (r.sget d).toNat (r.sget a).toNat p.toNat (l.toNat + 1))

/-! ## Predicates and the partition register (R381, R382) -/

/-- PAND (R381). -/
def execPand (x : Ext) (d a b : PReg) (s : State) : Host.Outcome State Fault Refusal :=
  issueWord (.pand x d a b) s fun s => s.writeP x d fun r => r.pget a &&& r.pget b

/-- POR (R381). -/
def execPor (x : Ext) (d a b : PReg) (s : State) : Host.Outcome State Fault Refusal :=
  issueWord (.por x d a b) s fun s => s.writeP x d fun r => r.pget a ||| r.pget b

/-- PXOR (R381). -/
def execPxor (x : Ext) (d a b : PReg) (s : State) : Host.Outcome State Fault Refusal :=
  issueWord (.pxor x d a b) s fun s => s.writeP x d fun r => r.pget a ^^^ r.pget b

/-- PNOT (R381). -/
def execPnot (x : Ext) (d a : PReg) (s : State) : Host.Outcome State Fault Refusal :=
  issueWord (.pnot x d a) s fun s => s.writeP x d fun r => ~~~(r.pget a)

/-- PMOV (R381). -/
def execPmov (x : Ext) (d a : PReg) (s : State) : Host.Outcome State Fault Refusal :=
  issueWord (.pmov x d a) s fun s => s.writeP x d fun r => r.pget a

/-- PPOPC: the lanes set in pA and the active mask (R381). -/
def execPpopc (x : Ext) (d : SReg) (a : PReg) (s : State) : Host.Outcome State Fault Refusal :=
  issueWord (.ppopc x d a) s fun s => s.writeS x d fun r =>
    BitVec.ofNat 64 (popCount (r.pget a &&& r.ctl.am))

/-- PART: the partition register (R382). -/
def execPart (x : Ext) (z : PartSz) (s : State) : Host.Outcome State Fault Refusal :=
  issueWord (.part x z) s fun s => 
    s.warpWord x fun s => s.modW fun w => { w with ctl := { w.ctl with part := z } }

end Sys2Proof.Machine
end

