-- ==== Sys2Proof/Machine/Lanes.lean ====
section
/-! DEFINITION. The shapes of the vector pipe: writing lanes and scale registers, the elements of a
lane (R360, R361), and register words with an uncorrectable error (R195, R271). -/

namespace Sys2Proof.Machine

/-! ## Writing registers -/

/-- Take marks off registers of the warp at issue that are written in full. -/
def State.heal (s : State) (p : RegPoison → Bool) : State :=
  { s with regPoison := s.regPoison.filter fun q => !p q }

/-- Write lanes of a vector register of the warp at issue (R361); the words written are sound. -/
def State.vput (s : State) (i : Nat) (lanes : Lanes) (f : Nat → Word32) : State :=
  let wid := s.w.place.wid
  (s.modW fun w => w.vset i lanes f).heal fun q =>
    match q with
    | .lane v r l => v == wid && r.toNat == i && lanes.getLsbD l.toNat
    | .scale _ _ | .acc _ _ _ _ => false

/-- Write a scale register of the warp at issue; it is sound. -/
def State.kput (s : State) (i : Nat) (v : Word64) : State :=
  let wid := s.w.place.wid
  (s.modW fun w => w.kset i v).heal fun q =>
    match q with
    | .scale x r => x == wid && r.toNat == i
    | .lane _ _ _ | .acc _ _ _ _ => false

/-! ## Register words with an uncorrectable error (R195, R271) -/

/-- The bad words that the warp at issue fetches: the lanes of some vector registers, and some scale
registers. -/
def State.badWords (s : State) (lanes : Lanes) (vs ks : List Nat) : List RegPoison :=
  s.regPoison.filter fun q =>
    match q with
    | .lane v r l => v == s.w.place.wid && vs.contains r.toNat && lanes.getLsbD l.toNat
    | .scale v r => v == s.w.place.wid && ks.contains r.toNat
    | .acc _ _ _ _ => false

/-- Whether a bad word lies in a lane. -/
def RegPoison.inLane (l : Nat) : RegPoison → Bool
  | .lane _ _ m => m.toNat == l
  | .scale _ _ | .acc _ _ _ _ => false

/-- The fault of a bad register word (R256, R271). -/
def RegPoison.fault (seq : Nat) (excl : Bool) : RegPoison → FaultRec
  | .lane _ r l => ⟨seq, 5, 0x18, BitVec.ofNat 64 (r.toNat + 2 ^ 8 * l.toNat), l,
      BitVec.twoPow 32 l.toNat, 1, 7, false, excl⟩
  | .scale _ r => ⟨seq, 5, 0x18, BitVec.ofNat 64 (r.toNat + 2 ^ 13), 0, 0, 1, 7, false, excl⟩
  | .acc _ t row col => ⟨seq, 5, 0x18,
      BitVec.ofNat 64 (col + 2 ^ 14 + t % 32 * 2 ^ 16 + row % 8 * 2 ^ 21), 0, 0, 2, 7, false, excl⟩

/-- Raise the faults of bad words in the warp at issue (R271); `excl` says that R254 excludes the instruction. -/
def State.regFault (s : State) (qs : List RegPoison) (excl : Bool := false) : State :=
  qs.foldl (fun s q => s.modW fun w => w.addFault (q.fault w.issued excl)) s

/-! ## Shapes of words -/

/-- The lanes of a lane-wise result: each active lane of vD is computed, and is zero where its lane of
a source is bad (R361, R271). -/
def State.vecWord (s : State) (x : Ext) (d : VOp) (src : List VOp) (f : Warp → Nat → Word32) :
    State :=
  let w := s.rd
  let bad := s.badWords (s.lanes x) (src.map (w.vidx x)) []
  (s.vput (w.vidx x d) (s.lanes x) fun l => if bad.any (RegPoison.inLane l) then 0 else f w l).regFault
    bad

/-- A predicate from a comparison of lanes: written in each active lane, and false where its lane of
a source is bad (R361, R271). -/
def State.cmpWord (s : State) (x : Ext) (d : PReg) (src : List VOp) (f : Warp → Nat → Bool) : State :=
  let w := s.rd
  let bad := s.badWords (s.lanes x) (src.map (w.vidx x)) []
  let v := laneMask ((List.range 32).filter fun l => f w l && !bad.any (RegPoison.inLane l))
  (s.modW fun w => w.pset d (s.lanes x) v).regFault bad

/-- The lanes of a result that fetches every lane of its sources: zero in every active lane where one
is bad (R271). -/
def State.crossWord (s : State) (x : Ext) (d : Nat) (fetched : Lanes) (src : List Nat)
    (f : Warp → Nat → Word32) : State :=
  let w := s.rd
  let bad := if s.lanes x = 0 then [] else s.badWords fetched src []
  (s.vput d (s.lanes x) fun l => if bad.isEmpty then f w l else 0).regFault bad

/-! ## Elements of a lane (R360) -/

/-- Combine the elements of `bits` bits of three lanes, each position on its own (R360). -/
def laneElems (bits : Nat) (f : Nat → Nat → Nat → Nat) (a b c : Word32) : Word32 :=
  BitVec.ofNat 32 (packCodes bits ((List.range (32 / bits)).map fun h =>
    f (codeAt bits a.toNat h) (codeAt bits b.toNat h) (codeAt bits c.toNat h)))

end Sys2Proof.Machine
end

