-- ==== Sys2Proof/Machine/Place.lean ====
section
/-! DEFINITION. Placing a bolt's groups on the cores of a ply (R116, R119, R122 to R125): free
resources, the assignment, private numbers, and the state in which groups and warps start. -/

namespace Sys2Proof.Machine

/-! ## What a launch fixes (R105) -/

/-- What a launch fixes for its warps (R105). -/
def Launch.env (l : Launch) : LaunchEnv where
  beam := l.beam
  ctx := l.ctx
  part := l.part
  code := l.desc.code
  vregs := l.desc.vreg.toNat * 8
  sregs := l.desc.sreg.toNat
  pregs := l.desc.preg.toNat
  accs := l.desc.acc.toNat
  scratch := l.desc.scratch.toNat * 256
  priv := l.desc.priv.toNat
  privBase := l.desc.privBase
  ordered := l.desc.attr.getLsbD 0
  idem := l.desc.attr.getLsbD 1
  persist := l.desc.attr.getLsbD 2
  versioned := l.desc.attr.getLsbD 3
  vdom := l.desc.vdom
  prio := l.desc.prio
  vwr := l.desc.vwr
  vlo := l.desc.vlo
  vhi := l.desc.vhi
  vply := l.desc.vply
  dents := l.desc.dents.toNat
  tag := l.tag.getD 0
  trace := l.desc.trace

/-- The warps of each group of a launch (R105). -/
def Launch.warps (l : Launch) : Nat := l.desc.warps.toNat + 1

/-- The groups of each bolt of a launch (R105). -/
def Launch.groups (l : Launch) : Nat := l.desc.groups.toNat + 1

/-- The number of bolts, or of units of work, of a launch (R116, R132). -/
def Launch.count (l : Launch) : Nat := l.ext.1 * l.ext.2.1 * l.ext.2.2

/-- The coordinate of a linear index (R116). -/
def Launch.coord (l : Launch) (i : Nat) : Coord :=
  ⟨BitVec.ofNat 32 (i % l.ext.1), BitVec.ofNat 32 (i / l.ext.1 % l.ext.2.1),
    BitVec.ofNat 32 (i / l.ext.1 / l.ext.2.1)⟩

/-! ## Free resources (R119) -/

/-- The warps that occupy slots of a core. -/
def State.onCore (s : State) (core : Nat) : List Warp :=
  s.warps.filter fun w => w.place.core == core && w.sched.state != .saved

/-- A core that holds no warp receives some: no active position of it has issued since it was empty (R147). -/
def State.openCore (s : State) (core : Nat) : State :=
  if (s.onCore core).isEmpty then { s with lastPos := s.lastPos.filter fun p => p.1 != core } else s

/-- The groups that hold scratch and accumulator tiles of a core. -/
def State.groupsOn (s : State) (core : Nat) : List Group :=
  s.groups.filter fun g => g.core == core && s.residentGroup g

/-- The scratch that a group holds. -/
def State.scratchOf (s : State) (g : Group) : Nat :=
  (s.launch? g.lid).elim 0 fun l => l.env.scratch

/-- The free slots, vector registers, scratch and accumulator tiles of a core (R119). -/
structure Room where
  core    : Nat
  slots   : List (BitVec 5)
  vregs   : Nat
  scratch : Nat
  accs    : Nat
  deriving DecidableEq, Repr

/-- The room of a core; `more` groups of one kind have been assigned to it already, and `inCluster`
to its cluster (R119, R122). -/
def State.room (s : State) (core : Nat) : Room where
  core := core
  slots := ((List.range 32).map (BitVec.ofNat 5)).filter fun k =>
    !(s.onCore core).any fun w => w.place.slot == k
  vregs := 4096 - ((s.onCore core).map fun w => w.env.vregs).sum
  scratch := 0x80000 - ((s.groupsOn core).map s.scratchOf).sum
  accs := 32 - ((s.groups.filter fun g =>
    coreCluster g.core == coreCluster core && s.residentGroup g).map fun g => g.accs.length).sum

/-- Whether a group of a launch fits a core (R119). -/
def Room.fits (r : Room) (l : Launch) : Bool :=
  decide (l.warps ≤ r.slots.length) && decide (l.warps * l.env.vregs ≤ r.vregs) &&
    decide (l.env.scratch ≤ r.scratch) && decide (l.env.accs ≤ r.accs)

/-- The room that is left once a group of a launch is assigned to a core. -/
def Room.take (r : Room) (l : Launch) (core : Nat) : Room :=
  if r.core = core then
    { r with
      slots := r.slots.drop l.warps
      vregs := r.vregs - l.warps * l.env.vregs
      scratch := r.scratch - l.env.scratch
      accs := r.accs - l.env.accs }
  else if coreCluster r.core = coreCluster core then { r with accs := r.accs - l.env.accs }
  else r

/-- The core that a group takes (R122): of those it fits, the one with the fewest occupied slots, and
then the lowest index. -/
def bestRoom (rs : List Room) (l : Launch) : Option Room :=
  (rs.filter fun r => r.fits l).foldl (fun o r =>
    match o with
    | none => some r
    | some q =>
      if q.slots.length < r.slots.length ∨ (q.slots.length = r.slots.length ∧ r.core < q.core) then
        some r
      else o) none

/-- Assign `n` groups of a launch (R122): the core and the slots of each, or none where one fits
nowhere. -/
def assign (l : Launch) : Nat → List Room → Option (List (Nat × List (BitVec 5)))
  | 0, _ => some []
  | n + 1, rs =>
    (bestRoom rs l).bind fun r =>
      (assign l n (rs.map fun q => q.take l r.core)).map fun as =>
        (r.core, r.slots.take l.warps) :: as

/-- The rooms of the cores of a ply. -/
def State.rooms (s : State) (d : Die) : List Room := (List.range 192).map fun i => s.room (d.val * 192 + i)

/-- Where `n` groups of a launch would go on a ply (R119, R122). -/
def State.assignOn (s : State) (l : Launch) (d : Die) (n : Nat) :
    Option (List (Nat × List (BitVec 5))) :=
  assign l n (s.rooms d)

/-! ## Private numbers (R123) -/

/-- The private numbers that the warps of a partition hold, and those that relaunches keep. -/
def State.numsHeld (s : State) (p : PartN) : List Nat :=
  ((s.warps.filter fun w => w.env.part == p && !w.exited).map fun w => w.place.num.toNat) ++
    ((s.groups.filter fun g => g.killed && (s.launch? g.lid).elim false fun l => l.part == p).flatMap
      fun g => g.nums.map BitVec.toNat)

/-- The `n` lowest private numbers of a partition that nobody holds (R123). -/
def State.freeNums (s : State) (p : PartN) (n : Nat) : List Nat :=
  let held := s.numsHeld p
  ((List.range (32 * 192 * (s.part p).plies)).filter fun k => !held.contains k).take n

/-! ## Starting (R125, R167) -/

/-- An iterator record of zeros. -/
def Iter.zero : Iter := ⟨0, Vector.replicate 4 ⟨false, 0, 0, 0⟩, false, false, 0⟩

/-- A tile-table entry that no TDEF has mapped. -/
def Tile.free : Tile where
  mapped := false
  counted := false
  arm := false
  state := .empty
  hmc := false
  fmt := 0
  head := 0
  count := 0
  rsv := []
  drops := 0
  rows := 0
  cols := 0
  pitch := 0
  base := 0
  holes := 0
  iter := Iter.zero
  loomRead := 0
  outRead := 0

/-- An accumulator tile at its start: every element +0.0 (R125). -/
def AccTile.zero : AccTile :=
  ⟨Vector.replicate 8 (Vector.replicate 128 0), Vector.replicate 8 0, Vector.replicate 128 0, false,
    false⟩

/-- The lane set of the lowest `n` lanes. -/
def lowLanes (n : Nat) : Lanes := BitVec.ofNat 32 (2 ^ n - 1)

/-- A group at its start (R125, R167): scratch, tiles and accumulators empty, every barrier at
generation 0 with every member included. -/
def Group.start (gid bid lid : Nat) (idx : BitVec 4) (core warps accs : Nat) (nums : List (BitVec 16))
    (replay : List Coord) (relaunch : Nat) : Group where
  gid := gid
  bid := bid
  lid := lid
  idx := idx
  core := core
  warps := warps
  scratch := []
  tiles := Vector.replicate 64 Tile.free
  accs := List.replicate accs AccTile.zero
  named := Vector.replicate 16 ⟨0, lowLanes warps, none, 0, false⟩
  boltLvl := Vector.replicate 8 ⟨lowLanes warps, none, 0, false⟩
  beamLvl := Vector.replicate 8 ⟨lowLanes warps, none, 0, false⟩
  fetches := []
  answered := []
  replay := replay
  arrivedBolt := false
  killed := false
  nums := nums
  relaunch := relaunch

/-- The bolt barriers of a bolt at its start (R167). -/
def boltBars (groups : Nat) : Vector BoltBar 8 :=
  Vector.replicate 8 ⟨0, BitVec.ofNat 16 (2 ^ groups - 1), none, 0, false⟩

/-- A warp at its start (R125). -/
def Warp.start (place : Place) (l : Launch) (c : Coord) (time : Nat) : Warp :=
  let pc : Word64 := l.desc.code + l.desc.entry.zeroExtend 64
  let s : Vector Word64 64 :=
    ((((Vector.replicate 64 (0 : Word64)).set 1 l.desc.args).set 2 (c.x.zeroExtend 64)).set 3
      (c.y.zeroExtend 64)).set 4 (c.z.zeroExtend 64)
  { Warp.free with
    place := place
    env := l.env
    sched := ⟨.pending, time, 0, false, none⟩
    regs := { Regs.zero with
      s := s.set 5 (BitVec.ofNat 64 (256 * place.gidx.toNat + place.widx.toNat)) }
    pc := pc
    region := ⟨pc, 0, 0, Control.start⟩ }

/-- Put a warp into the machine: at issue where no warp is, and among the others otherwise. -/
def State.addWarp (s : State) (w : Warp) : State :=
  if s.w.place.wid = 0 then { s with w := w } else { s with rest := s.rest ++ [w] }

/-- Place one group on a core (R122, R125), with its START records (R298): what its launch comes after is visible
there (R103, R232, R246). [DEDUCED, log 58] -/
def State.placeGroup (s : State) (l : Launch) (b : Bolt) (gid : Nat) (idx core : Nat)
    (slots : List (BitVec 5)) (nums : List Nat) (replay : List Coord) (relaunch reason : Nat) :
    State :=
  let nums := nums.map (BitVec.ofNat 16)
  let s := { (s.acquire core).openCore core with
    groups := s.groups ++
      [Group.start gid b.bid l.lid (BitVec.ofNat 4 idx) core l.warps l.env.accs nums replay relaunch] }
  (slots.zip nums).zipIdx.foldl (fun s x =>
    let (wid, s) := s.fresh
    let p : Place :=
      { wid := wid, gid := gid, bid := b.bid, lid := l.lid, core := core, slot := x.1.1
        widx := BitVec.ofNat 5 x.2, gidx := BitVec.ofNat 4 idx, bolt := b.index, num := x.1.2 }
    let w := Warp.start p l b.coord s.time
    (s.addWarp w).recordStart w reason) s

/-- Tell the reed that a launch has its first group on a ply (R41): JOIN, for a launch with slots. -/
def State.joinPly (s : State) (lid : Nat) (d : Die) : State :=
  if s.ownsSlot lid d then s.enqueue d lid 0 (.join lid d) else s

end Sys2Proof.Machine
end

