-- ==== Sys2Proof/Machine/MemInstr.lean ====
section
/-! DEFINITION. The memory words of MAJ 0x20 to 0x2A (R389 to R410): loads, stores, MX lines, atomics,
the holding buffers of ordered launches, fences, waits and monitors. -/

namespace Sys2Proof.Machine

/-! ## Holds of an access (R129, R157, R229) -/

/-- Hold the group where an earlier acquire has not returned (R229) or the counter is full (R157).
[DEDUCED, log 15] -/
def State.memUnless (s : State) (k : Counter) (f : State → State) : State :=
  if s.acquiring s.w.place.wid then s.retryWith .acquire
  else if s.w.counterFull k then s.retryWith (.counter k)
  else f s

/-- Hold an acquire that would be the first of its bolt (R129); otherwise it counts as an acquire of
the bolt. -/
def State.acqUnless (s : State) (acq : Bool) (f : State → State) : State :=
  if !acq then f s
  else if s.firstAcquireHeld s.w then s.retryWith .firstAcquire
  else f (s.noteAcquire s.w)

/-- The lanes of a memory word: those of its guard, or lane 0 for a warp-level word (R391). -/
def State.memLanes (s : State) (x : Ext) (scalar : Bool) : List Nat :=
  if s.lanes x = 0 then [] else if scalar then [0] else laneList (s.lanes x)

/-! ## Holding buffers (R401 to R403) -/

/-- An entry of the warp at issue, before its own fields are set. -/
def State.hentry (s : State) (w : Warp) (op lane pa : Nat) (va : Word64) : HEntry where
  core := w.place.core
  wid := w.place.wid
  gid := w.place.gid
  lid := w.place.lid
  bid := w.place.bid
  op := op
  atomic := false
  ord := .rlx
  aop := .xchg
  aty := .u32
  nr := false
  stale := false
  dvec := false
  pa := pa
  bolt := w.place.bolt
  epoch := w.epoch + 1
  group := w.place.gidx
  warp := w.place.widx
  lane := BitVec.ofNat 5 lane
  seq := 0
  mask := 0
  dreg := 0
  data := 0
  new := 0
  va := va
  order := op
  issue := s.w.issued
  spilled := none

/-- The store chunks of the performing lanes of a store: one entry per aligned 8-byte chunk, the
higher lane's byte kept (R224, R401). -/
def State.storeChunks (s : State) (w : Warp) (op : Nat) (rel : Bool) (es : List Elem) : List HEntry :=
  es.foldl (fun hs e =>
    match e.loc with
    | .phys a =>
      e.bytes.zipIdx.foldl (fun hs b =>
        let at_ := a + b.2
        let base := at_ / 8 * 8
        let put := fun h : HEntry =>
          { h with
            mask := h.mask ||| BitVec.twoPow 8 (at_ % 8)
            data := setByte h.data (at_ % 8) b.1 }
        if hs.any fun h => h.pa == base then hs.map fun h => if h.pa = base then put h else h
        else
          hs ++ [put { s.hentry w op e.lane.toNat base (e.va - BitVec.ofNat 64 (a % 8)) with
            ord := if rel then .rel else .rlx }]) hs
    | .scratch _ _ | .vault _ | .reed _ _ => hs) []

/-- A global store of an ordered launch is held (R129, R243, R401); where a release or a held acquire keeps it
back, it waits in flight to enter the buffer (R228, R229). [DEDUCED, log 35] -/
def State.holdStore (s : State) (w : Warp) (rel : Bool) (es : List Elem) : State :=
  let (id, s) := s.fresh
  let hs := (s.storeChunks w id rel es).map fun h => { h with seq := w.storeSeq }
  let o : Op := { s.newOp w id .store with
    rel := rel, space := Sp.g.frameCode, excl := false, elems := es, chunks := hs }
  let count := fun (s : State) (done : Bool) => s.modW fun w => { w with cnt := w.cnt.push .sc id done }
  if s.mayStart o then
    match (s.settleLoads o.wid o.seq es).hold hs with
    | none => s.retryWith (.holdingRoom hs.length)
    | some s => count s true
  else { count s hs.isEmpty with ops := s.ops ++ [o] }

/-- A global atomic of an ordered launch is held, one entry for each lane, and stays counted until
its flush (R244, R401). -/
def State.holdAtomic (s : State) (w : Warp) (o : AOp) (r : AOrd) (t : ATy) (nr dvec : Bool)
    (dreg : BitVec 8) (es : List Elem) : State :=
  let (id, s) := s.fresh
  let hs := es.filterMap fun e =>
    match e.loc with
    | .phys a => some { s.hentry w id e.lane.toNat a e.va with
        atomic := true
        ord := r
        aop := o
        aty := t
        nr := nr
        dvec := dvec
        seq := w.atomSeq
        dreg := dreg
        data := e.data
        new := if o == .cas then e.new else 0 }
    | .scratch _ _ | .vault _ | .reed _ _ => none
  match s.hold hs with
  | none => s.retryWith (.holdingRoom hs.length)
  | some s => s.modW fun w => { w with cnt := w.cnt.push (if nr then .sc else .lc) id hs.isEmpty }

/-! ## Loads (R389 to R392, R394) -/

/-- What a load writes at once: lanes of non-resident pages read zero, and the residency flags of its
lanes are recorded (R203, R392). -/
def State.loadFlags (s : State) (rp : PReg) (lanes : Lanes) (rs : List (Nat × Chk))
    (zero : Warp → Nat → Warp) (scalar : Bool) : State :=
  let z := zeroLanes rs
  let flags := if scalar then (if z.isEmpty then 0 else lanes) else laneMask z
  s.modW fun w => (z.foldl zero w).residency rp lanes flags

/-- A load of elements of one size (R391, R394); a lane of which a fetched word is bad loads nothing and reads zero
(R271). -/
def State.loadWord (s : State) (t : MTy) (sp : Sp) (acq scalar : Bool) (rp : PReg) (ls : List Nat)
    (addr : Nat → Word64) (tgt : Nat → Target) (zero : Warp → Nat → Warp) (bad : List RegPoison := []) : State :=
  if ls.isEmpty then s
  else
    s.memUnless .lc fun s => s.acqUnless acq fun s =>
      let w := s.rd
      let hurt := fun l => bad.any (RegPoison.inLane l)
      let s := (s.modW fun w => (ls.filter hurt).foldl zero w).regFault bad
      let (rs, s) := s.checkAll w sp .load t.bytes (ls.filter fun l => !hurt l) addr
      let s := s.pendFaults sp.frameCode false rs
      let lanes := if scalar then w.ctl.am else laneMask ls
      let s := s.loadFlags rp lanes rs zero scalar
      s.launchOp w .load acq false rp sp false
        (okElems t.bytes rs addr tgt (fun _ => 0) (fun _ => 0)) .lc

/-- The M-format address sA + OFF (R389). -/
def Warp.mBase (w : Warp) (a : SReg) (f : BitVec 20) : Word64 := w.sget a + f.signExtend 64

/-- LD: a scalar load (R394). -/
def execLd (x : Ext) (t : MTy) (sp : Sp) (o : Bool) (d a : SReg) (f : BitVec 20) (rp : PReg)
    (s : State) : Host.Outcome State Fault Refusal :=
  issueWord (.ld x t sp o d a f rp) s fun s =>
    s.loadWord t sp o true rp (s.memLanes x true) (fun _ => s.rd.mBase a f) (fun _ => .sreg d t)
      fun w _ => w.sset d 0

/-- The lanes of a list whose word of a vector register is sound, and the bad words fetched (R271).
[DEDUCED, log 21] -/
def State.soundLanes (s : State) (lanes : Lanes) (ls : List Nat) (i : Nat) :
    List Nat × List RegPoison :=
  let bad := s.badWords lanes [i] []
  (ls.filter fun l => !bad.any (RegPoison.inLane l), bad)

/-- VLD: a contiguous load of each active lane (R394). -/
def execVld (x : Ext) (t : MTy) (sp : Sp) (o : Bool) (d : VOp) (a : SReg) (f : BitVec 20) (rp : PReg)
    (s : State) : Host.Outcome State Fault Refusal :=
  issueWord (.vld x t sp o d a f rp) s fun s =>
    let r := s.rd
    let i := r.vidx x d
    s.loadWord t sp o false rp (s.memLanes x false) (fun l => mAddr sp (r.mBase a f) t.bytes l)
      (fun _ => .lane (BitVec.ofNat 8 i) t) fun w l => w.vset1 i l 0

/-- VLDG: a gather (R389, R394); a lane whose index is bad reads zero (R271). [DEDUCED, log 21] -/
def execVldg (x : Ext) (t : MTy) (sp : Sp) (o : Bool) (d i : VOp) (k : BitVec 2) (b : SReg) (rp : PReg)
    (s : State) : Host.Outcome State Fault Refusal :=
  issueWord (.vldg x t sp o d i k b rp) s fun s =>
    let r := s.rd
    let di := r.vidx x d
    s.loadWord t sp o false rp (s.memLanes x false)
      (fun l => gAddr (r.sget b) (r.lane (r.vidx x i) l) (2 ^ k.toNat))
      (fun _ => .lane (BitVec.ofNat 8 di) t) (fun w l => w.vset1 di l 0) (s.badWords (BitVec.allOnes 32) [r.vidx x i] [])

/-! ## Stores (R394) -/

/-- A store of elements of one size (R391, R394); in an ordered launch it counts among its warp's store instructions
(R478). -/
def State.storeElems (s : State) (sp : Sp) (rel : Bool) (rs : List (Nat × Chk)) (es : List Elem) :
    State :=
  let w := s.rd
  let excl := sp == .r
  let s := s.pendFaults sp.frameCode excl rs
  let s := if w.env.ordered then s.modW fun w => { w with storeSeq := w.storeSeq + 1 } else s
  if w.env.ordered && sp == .g then s.holdStore w rel es
  else s.launchOp w .store false rel 0 sp excl es .sc

/-- A store of elements of one size (R391, R394). -/
def State.storeWord (s : State) (t : MTy) (sp : Sp) (rel : Bool) (ls : List Nat) (addr : Nat → Word64)
    (data : Nat → Word64) : State :=
  if ls.isEmpty then s
  else
    s.memUnless .sc fun s =>
      let (rs, s) := s.checkAll s.rd sp .store t.bytes ls addr
      s.storeElems sp rel rs (okElems t.bytes rs addr (fun _ => .none) data (fun _ => 0))

/-- ST: a scalar store (R394). -/
def execSt (x : Ext) (t : MTy) (sp : Sp) (o : Bool) (d a : SReg) (f : BitVec 20) (s : State) :
    Host.Outcome State Fault Refusal :=
  issueWord (.st x t sp o d a f) s fun s =>
    s.storeWord t sp o (s.memLanes x true) (fun _ => s.rd.mBase a f) fun _ => s.rd.sget d

/-- The data that lanes of a vector register store; a bad word stores zero (R271, R390). -/
def laneData (w : Warp) (i : Nat) (bad : List RegPoison) (l : Nat) : Word64 :=
  if bad.any (RegPoison.inLane l) then 0 else (w.lane i l).zeroExtend 64

/-- VST: a contiguous store of each active lane (R394). -/
def execVst (x : Ext) (t : MTy) (sp : Sp) (o : Bool) (d : VOp) (a : SReg) (f : BitVec 20) (s : State) :
    Host.Outcome State Fault Refusal :=
  issueWord (.vst x t sp o d a f) s fun s =>
    let r := s.rd
    let i := r.vidx x d
    let bad := s.badWords (s.lanes x) [i] []
    (s.regFault bad (sp == .r)).storeWord t sp o (s.memLanes x false)
      (fun l => mAddr sp (r.mBase a f) t.bytes l) (laneData r i bad)

/-- VSTS: a scatter (R389, R394); a lane whose index is bad stores nothing (R271). [DEDUCED, log 21] -/
def execVsts (x : Ext) (t : MTy) (sp : Sp) (o : Bool) (d i : VOp) (k : BitVec 2) (b : SReg)
    (s : State) : Host.Outcome State Fault Refusal :=
  issueWord (.vsts x t sp o d i k b) s fun s =>
    let r := s.rd
    let di := r.vidx x d
    let (ls, badI) := s.soundLanes (if s.lanes x = 0 then 0 else BitVec.allOnes 32)
      (s.memLanes x false) (r.vidx x i)
    let bad := s.badWords (s.lanes x) [di] []
    (s.regFault (badI ++ bad) (sp == .r)).storeWord t sp o ls
      (fun l => gAddr (r.sget b) (r.lane (r.vidx x i) l) (2 ^ k.toNat)) (laneData r di bad)

/-! ## MX lines (R395 to R397) -/

/-- The blocks per MX line of a format (R193). -/
def lineBlocks (f : FFmt) : Nat :=
  match f.bits with
  | 4 => 15
  | 6 => 10
  | _ => 7

/-- The bytes of a block of a format (R193). -/
def blockBytes (f : FFmt) : Nat := 4 * f.bits

/-- The line of block `j` of a register, and the block's place in it (R395): `a` names the line and
the starting block. -/
def mxPlace (f : FFmt) (a : Word64) (j : Nat) : Word64 × Nat :=
  let p := a.toNat % 256 + j
  (BitVec.ofNat 64 (a.toNat / 256 * 256 + 256 * (p / lineBlocks f)), p % lineBlocks f)

/-- The block whose data a lane holds, if it holds any (R395). -/
def mxBlockOf (f : FFmt) (n l : Nat) : Option Nat :=
  let j := 4 * l / blockBytes f
  if j < n then some j else none

/-- The address of the four line bytes of a lane (R395). [DEDUCED, log 19] -/
def mxLaneAddr (f : FFmt) (a : Word64) (l : Nat) : Word64 :=
  let j := 4 * l / blockBytes f
  let p := mxPlace f a j
  p.1 + BitVec.ofNat 64 (16 + blockBytes f * p.2 + (4 * l - blockBytes f * j))

/-- The address of the scale slot of a block (R193, R395). -/
def mxScaleAddr (f : FFmt) (a : Word64) (j : Nat) : Word64 :=
  let p := mxPlace f a j
  p.1 + BitVec.ofNat 64 p.2

/-- The fates of the scale slots of the blocks that lanes touch, each with a lane of its block. -/
def State.checkScales (s : State) (w : Warp) (sp : Sp) (acc : Access) (f : FFmt) (a : Word64)
    (blocks : List (Nat × Nat)) : List (Nat × Nat × Chk) × State :=
  blocks.foldl (fun (r : List (Nat × Nat × Chk) × State) b =>
    let c := r.2.resolve w sp acc b.2 (mxScaleAddr f a b.1) 1 false
    (r.1 ++ [(b.1, b.2, c.1)], c.2)) ([], s)

/-- The blocks that lanes hold data of, each with its first such lane. -/
def mxTouched (f : FFmt) (n : Nat) (ls : List Nat) : List (Nat × Nat) :=
  (List.range n).filterMap fun j => (ls.find? fun l => mxBlockOf f n l == some j).map fun l => (j, l)

/-- The elements of scale slots that passed their checks. -/
def scaleElems (f : FFmt) (a : Word64) (rs : List (Nat × Nat × Chk)) (tgt : Nat → Target)
    (data new : Nat → Word64) : List Elem :=
  rs.filterMap fun r =>
    match r.2.2 with
    | .ok loc home va => some
        ⟨BitVec.ofNat 5 r.2.1, loc, 1, mxScaleAddr f a r.1, va, tgt r.1, data r.1, new r.1, 0, home, .waiting⟩
    | _ => none

/-- An element that is zero without an access: it goes with the others of its load (R203, R396). -/
def zeroElem (l : Nat) (a : Word64) (t : Target) : Elem :=
  Elem.zero ⟨BitVec.ofNat 5 l, .scratch 0 0, 0, a, a, t, 0, 0, 0, none, .waiting⟩

/-- The misaligned fault of every lane of an MX access whose starting block does not exist (R395). -/
def badStart (a : Word64) (ls : List Nat) : List (Nat × Chk) := ls.map fun l => (l, .bad 1 0x13 a)

/-- VLDMX: one MX register image and its scales (R395, R396); what it writes as zero is written as it returns (R156). -/
def execVldmx (x : Ext) (t : MxF) (sp : Sp) (o : Bool) (d : VOp) (a : SReg) (f : BitVec 20) (rp : PReg)
    (s : State) : Host.Outcome State Fault Refusal :=
  issueWord (.vldmx x t sp o d a f rp) s fun s =>
    let ls := s.memLanes x false
    if ls.isEmpty then s
    else s.memUnless .lc fun s => s.acqUnless o fun s =>
      let w := s.rd
      let i := w.vidx x d
      let fm := mxFmt t
      let n := mxBlocks t
      let at_ := w.mBase a f
      let slot := fun j : Nat => Target.scale (BitVec.ofNat 8 i) (BitVec.ofNat 3 j)
      let lane : Target := .lane (BitVec.ofNat 8 i) .u32
      let spare := (((List.range 8).filter fun j => decide (n ≤ j)).map fun j => zeroElem (ls.headD 0) at_ (slot j)) ++
        (ls.filter fun l => (mxBlockOf fm n l).isNone).map fun l => zeroElem l at_ lane
      if lineBlocks fm ≤ at_.toNat % 256 then
        ((s.pendFaults sp.frameCode false (badStart at_ ls)).modW fun v => v.residency rp (laneMask ls) 0).launchOp w
            .load o false rp sp false spare .lc
      else
        let data := ls.filter fun l => (mxBlockOf fm n l).isSome
        let (rs, s) := s.checkAll w sp .load 4 data (mxLaneAddr fm at_)
        let (ks, s) := s.checkScales w sp .load fm at_ (mxTouched fm n data)
        let s := s.pendFaults sp.frameCode false rs
        let s := s.loadFlags rp (laneMask ls) rs (fun w _ => w) false
        let gone := (zeroLanes rs).map (fun l => zeroElem l at_ lane) ++ ks.filterMap fun k =>
          match k.2.2 with
          | .zero _ => some (zeroElem k.2.1 at_ (slot k.1))
          | _ => none
        let es := okElems 4 rs (mxLaneAddr fm at_) (fun _ => lane) (fun _ => 0) (fun _ => 0)
        let sc := scaleElems fm at_ ks slot (fun _ => 0) fun j =>
          (laneMask (data.filter fun l => mxBlockOf fm n l == some j)).zeroExtend 64
        s.launchOp w .load o false rp sp false (es ++ sc ++ gone ++ spare) .lc

/-- VSTMX: one MX register image and its scales into MX lines (R395, R397). -/
def execVstmx (x : Ext) (t : MxF) (sp : Sp) (o : Bool) (d : VOp) (a : SReg) (f : BitVec 20)
    (s : State) : Host.Outcome State Fault Refusal :=
  issueWord (.vstmx x t sp o d a f) s fun s =>
    let ls := s.memLanes x false
    if ls.isEmpty then s
    else s.memUnless .sc fun s =>
      let w := s.rd
      let i := w.vidx x d
      let fm := mxFmt t
      let n := mxBlocks t
      let at_ := w.mBase a f
      if lineBlocks fm ≤ at_.toNat % 256 then s.storeElems sp o (badStart at_ ls) []
      else
        let data := ls.filter fun l => (mxBlockOf fm n l).isSome
        let bad := s.badWords (laneMask data) [i] [i]
        let s := s.regFault bad (sp == .r)
        let (rs, s) := s.checkAll w sp .store 4 data (mxLaneAddr fm at_)
        let failed := rs.filterMap fun r =>
          match r.2 with
          | .ok _ _ _ => none
          | _ => mxBlockOf fm n r.1
        let (ks, s) := s.checkScales w sp .store fm at_
          ((mxTouched fm n data).filter fun b => !failed.contains b.1)
        let k : Word64 := if s.scaleBad w.place.wid i then 0 else w.kget i
        let es := okElems 4 rs (mxLaneAddr fm at_) (fun _ => .none) (laneData w i bad) fun _ => 0
        let sc := scaleElems fm at_ ks (fun j => .scale (BitVec.ofNat 8 i) (BitVec.ofNat 3 j))
          (fun j => BitVec.ofNat 64 (codeAt 8 k.toNat j)) fun _ => 0
        s.storeElems sp o rs (es ++ sc)

/-! ## Atomics (R398 to R401) -/

/-- The new value of an atomic, and whether it is written (R399). -/
def atomNew (o : AOp) (t : ATy) (old b c : Nat) : Nat × Bool :=
  match t, o with
  | .f32, .add => (fp32.add (old % 2 ^ 32) (b % 2 ^ 32), true)
  | .f32, .min => (fp32.fmin (old % 2 ^ 32) (b % 2 ^ 32), true)
  | .f32, .max => (fp32.fmax (old % 2 ^ 32) (b % 2 ^ 32), true)
  | _, _ => atomInt o t old b c

/-- A floating-point atomic on the reed window or the remote aperture faults (R35, R57, R400). -/
def floatChk (sp : Sp) (a : Word64) : Chk → Chk
  | .ok (.phys pa) h va => if isRemote pa then .bad 4 0x10 va else .ok (.phys pa) h va
  | .ok loc h va => if sp = .r then .bad 3 0x15 a else .ok loc h va
  | c => c

/-- An atomic of the lanes of a list (R391, R399 to R401). -/
def State.atomWord (s : State) (o : AOp) (r : AOrd) (t : ATy) (sp : Sp) (nr dvec : Bool)
    (dreg : BitVec 8) (ls : List Nat) (addr : Nat → Word64) (tgt : Nat → Target)
    (data new : Nat → Word64) : State :=
  if ls.isEmpty then s
  else
    let k : Counter := if nr then .sc else .lc
    let acq := r == .acq || r == .ar
    let rel := r == .rel || r == .ar
    s.memUnless k fun s =>
      let w := s.rd
      let held := w.env.ordered && sp == .g
      s.acqUnless (acq && !held) fun s =>
        let (rs, s) := s.checkAll w sp .store t.bytes ls addr
        let rs := if t == .f32 then rs.map fun c => (c.1, floatChk sp (addr c.1) c.2) else rs
        let s := s.pendFaults sp.frameCode true rs
        let es := okElems t.bytes rs addr (fun l => if nr then .none else tgt l) data new
        let s := s.modW fun w => { w with atomSeq := w.atomSeq + 1 }
        if held then s.holdAtomic w o r t nr dvec dreg es
        else s.launchOp w (.atomic o t !nr) acq rel 0 sp true es k

/-- ATOM: a scalar atomic (R398, R399). -/
def execAtom (x : Ext) (o : AOp) (r : AOrd) (t : ATy) (sp : ASp) (nr : Bool) (d a : SReg)
    (f : BitVec 12) (e : SReg) (s : State) : Host.Outcome State Fault Refusal :=
  issueWord (.atom x o r t sp nr d a f e) s fun s =>
    let w := s.rd
    s.atomWord o r t sp.toSp nr false (d.zeroExtend 8) (s.memLanes x true)
      (fun _ => w.sget a + f.signExtend 64) (fun _ => .sreg d t.image) (fun _ => w.sget d)
      fun _ => w.sget e

/-- A lane of a vector register, or of a pair as its low and high words (R398). -/
def Warp.wide (w : Warp) (pair : Bool) (i l : Nat) : Word64 :=
  if pair then (w.lane (i + 1) l).zeroExtend 64 <<< 32 ||| (w.lane i l).zeroExtend 64
  else (w.lane i l).zeroExtend 64

/-- VATOM: an atomic of each active lane (R398 to R400); a lane whose index or operand is bad does
nothing but deliver zero (R271). -/
def execVatom (x : Ext) (o : AOp) (r : AOrd) (t : ATy) (sp : ASp) (nr : Bool) (d i : VOp) (b : SReg)
    (e : VOp) (s : State) : Host.Outcome State Fault Refusal :=
  issueWord (.vatom x o r t sp nr d i b e) s fun s =>
    let w := s.rd
    let di := w.vidx x d
    let ei := w.vidx x e
    let pair := t == .i64
    let n := if pair then 2 else 1
    let ops := (List.range n).map (di + ·) ++
      (if o == .cas then (List.range n).map (ei + ·) else [])
    let bad := s.badWords (if s.lanes x = 0 then 0 else BitVec.allOnes 32) [w.vidx x i] [] ++
      s.badWords (s.lanes x) ops []
    let hit := fun l => bad.any (RegPoison.inLane l)
    let ls := (s.memLanes x false).filter fun l => !hit l
    let dead := s.lanes x &&& laneMask ((List.range 32).filter hit)
    let s := if nr then s else
      (List.range n).foldl (fun s j => s.vput (di + j) dead fun _ => 0) s
    (s.regFault bad true).atomWord o r t sp.toSp nr true (BitVec.ofNat 8 di) ls
      (fun l => gAddr (w.sget b) (w.lane (w.vidx x i) l) 1)
      (fun _ => if pair then .lanePair (BitVec.ofNat 8 di) else .lane (BitVec.ofNat 8 di) t.image)
      (w.wide pair di) (w.wide pair ei)

/-! ## Fences, waits and monitors (R405 to R410) -/

/-- The release part of a fence of the warp at issue: while earlier accesses are not complete it waits in
flight, and no later store, atomic or release of the warp performs before it (R228, R231). -/
def State.startFence (s : State) : State :=
  if s.releaseMet s.rd then s
  else
    let (id, s) := s.fresh
    s.putOp (s.newOp s.rd id .fence)

/-- FENCE: its acquire part holds it until earlier loads and returning atomics have returned (R231, R406); its
release part waits while the warp issues on (R228). [DEDUCED, log 59] -/
def execFence (x : Ext) (r : AOrd) (s : State) : Host.Outcome State Fault Refusal :=
  issueWord (.fence x r) s fun s => s.warpWord x fun s =>
    let acq := r == .acq || r == .ar
    s.unless (!acq || s.acquireMet s.rd) (.fence r) fun s => s.acqUnless acq fun s =>
      let s := if r == .rel || r == .ar then s.startFence else s
      if acq then s.acquire s.w.place.core else s

/-- WAIT: held until the counters meet its immediates (R158, R406), and, where it covers a held atomic, until the
warp's epoch has been flushed (R244). -/
def execWait (x : Ext) (l c : BitVec 6) (k t : BitVec 4) (s : State) :
    Host.Outcome State Fault Refusal :=
  issueWord (.wait x l c k t) s fun s => s.warpWord x fun s =>
    s.unless (s.rd.waitMet l c k t) (.wait l c k t) fun s =>
      s.unless (!s.covering || s.flushed) .flush fun s => s

/-- MWADDR (R407): the address, with SP in bits [63:61] and W64 in bit 60. -/
def watchWord (w64 : Bool) (sp : Sp) (a : Word64) : Word64 :=
  (a &&& 0x0FFF_FFFF_FFFF_FFFF) ||| BitVec.ofNat 64 (sp.code * 2 ^ 61 + w64.toNat * 2 ^ 60)

/-- MWATCH: reads a word at its point of coherence and records its address and value (R407); it waits
for the warp's own accesses to that word that are in flight (R225), for the stores of its core that it has read there
(R227), and for queued atomics on a reed word (R34). -/
def execMwatch (x : Ext) (w64 : Bool) (sp : Sp) (a : SReg) (f : BitVec 29) (s : State) :
    Host.Outcome State Fault Refusal :=
  issueWord (.mwatch x w64 sp a f) s fun s => s.warpWord x fun s =>
    let w := s.rd
    let n := if w64 then 8 else 4
    let at_ := w.sget a + f.signExtend 64
    if s.acquiring w.place.wid || s.heldAcquire w.place.wid s.w.issued then s.retryWith .acquire
    else
      match s.resolve w sp .load 0 at_ n true with
      | (.ok loc home va, s) =>
        let e := watchElem loc home n at_ va
        let mine := s.ops.any fun o =>
          ((o.wid == w.place.wid && o.writes) || o.seen.contains w.place.wid) && elemsOverlap o.waiting [e]
        if mine || s.queuedAtomic (coreDie w.place.core) e ||
            !s.loadsReadable w.place.wid (s.w.issued + 1) [e] then s.retryWith .behind
        else
          let s := s.settleLoads w.place.wid (s.w.issued + 1) [e]
          match s.elemPoison w.place.core e with
          | some q =>
            (s.watchBad w e q s.w.issued sp true).modWarp w.place.wid fun w => { w with mwAddr := 0 }
          | none =>
            match s.pointRead w loc n with
            | (.ok v, s) => s.modW fun w => { w with mwAddr := watchWord w64 sp at_, mwOld := BitVec.ofNat 64 v }
            | (.error late, s) => s.modW fun w =>
              { w.addFault { faultRec w.issued sp.frameCode true 0 4 0x10 va with remoteTo := late } with mwAddr := 0 }
      | (.zero _, s) => s.modW fun w =>
        { w with
          mwAddr := watchWord w64 sp at_
          mwOld := 0
          rmask := w.rmask ||| w.ctl.am }
      | (.bad order cause at_, s) =>
        (s.pendFaults sp.frameCode true [(0, .bad order cause at_)]).modW fun w => { w with mwAddr := 0 }

/-- MWAIT: completes, as an acquire, once the watched word differs from the value recorded, or at once
where nothing is watched (R408). -/
def execMwait (x : Ext) (s : State) : Host.Outcome State Fault Refusal :=
  issueWord (.mwait x) s fun s => s.warpWord x fun s =>
    let w := s.rd
    if w.mwAddr == 0 then s.acquire w.place.core
    else
      let (changed, s) := if w.busy == .woken then (true, s) else s.watchChanged w s.w.issued
      s.unless changed .mwait fun s =>
        (s.acquire w.place.core).modW fun w => { w with busy := .none, watched := [] }

/-- PGREQ: asks for a page and is held until its record has been posted or dropped (R205, R409). -/
def execPgreq (x : Ext) (a b : SReg) (s : State) : Host.Outcome State Fault Refusal :=
  issueWord (.pgreq x a b) s fun s => s.warpWord x fun s =>
    s.modW fun w =>
      { w with busy := .pgreq (s.rd.sget a &&& 0xFFFF_FFFF_FFFF_0000) (s.rd.sget b) }

/-- PGPREF: fills the TLB with a valid and resident translation, without fault (R206, R409). -/
def execPgpref (x : Ext) (a : SReg) (f : BitVec 29) (s : State) : Host.Outcome State Fault Refusal :=
  issueWord (.pgpref x a f) s fun s => s.warpWord x fun s =>
    (s.translate s.rd.xctx .load (s.rd.sget a + f.signExtend 64) true).2.oneHit s.tlb

/-- OFLUSH: in an ordered launch, held until the warp's epoch has been flushed (R410). -/
def execOflush (x : Ext) (s : State) : Host.Outcome State Fault Refusal :=
  issueWord (.oflush x) s fun s => s.warpWord x fun s => s.unless s.flushed .flush fun s => s

end Sys2Proof.Machine
end

