-- ==== Sys2Proof/Machine/MemEvents.lean ====
section
/-! DEFINITION. The events of the memory pipeline: loads return, stores register, atomics perform
(R157, R227, R400), epochs of held atomics flush (R244, R245), remote accesses are acknowledged or
time out (R58, R59), sweeps run (R209 to R211), page requests are posted (R205), and watched words are
read again (R408). -/

namespace Sys2Proof.Machine

/-! ## Loads, stores and atomics -/

/-- Whether an earlier reed load of a warp has not returned: the reed loads of a warp never go back in
dent order (R34, R238). -/
def State.earlierReedLoad (s : State) (o : Op) : Bool :=
  o.isReed && (s.opsOf o.wid).any fun p => p.kind == .load && p.isReed && p.open && decide (p.seq < o.seq)

/-- The elements of a returning atomic that have performed and are not written yet, in some lanes,
are written (R157). -/
def State.returnAtomic (s : State) (o : Op) (lanes : Lanes) : State :=
  let back := fun e : Elem => e.state == .performed && lanes.getLsbD e.lane.toNat
  let s := (o.elems.filter back).foldl (fun s e => s.deliver o.wid e e.old.toNat) s
  s.modOp o.id fun o => { o with elems := o.elems.filter fun e => !back e }

/-- The waiting elements of an operation in some lanes, with those that go together with them, where all of
these meet a test. -/
def State.chosen (s : State) (o : Op) (lanes : Lanes) (ok : Elem → Bool) : List Elem :=
  o.waiting.filter fun e =>
    (s.together o e).any (fun f => lanes.getLsbD f.lane.toNat) && (s.together o e).all ok

/-- LOAD_RETURN (R157): elements of a load, or of a returning atomic that has performed, are written
in some lanes. [DEDUCED, log 34] -/
def execLoadReturn (op : Nat) (lanes : BitVec 32) (s : State) : Host.Outcome State Fault Refusal :=
  .next (match s.ops.find? fun o => o.id == op with
    | none => s
    | some o =>
      match o.kind with
      | .load =>
        if s.earlierReedLoad o then s
        else
          let es := s.chosen o lanes (s.readable o)
          (s.returnElems o fun e => es.contains e).tidyOp op
      | .atomic _ _ true => (s.returnAtomic o lanes).tidyOp op
      | .atomic _ _ false | .store | .arrive _ _ | .fence => s)

/-- Whether an element of a store may register: no store written into the same L1 before it has an
element in flight on the same bytes, no earlier atomic of its warp waits on them (R225, R227), and it does
not lie in the remote aperture. [DEDUCED, log 34] -/
def State.mayRegister (s : State) (o : Op) (e : Elem) : Bool :=
  !s.passed o e &&
  (match e.loc with
    | .phys pa => !isRemote pa
    | .reed _ _ => false
    | .scratch _ _ | .vault _ => !s.vaultDown e.loc) &&
  o.l1.elim false (fun t =>
    !s.ops.any fun p =>
      p.kind == .store && p.core == o.core && p.l1.elim false (fun u => decide (u < t)) &&
        elemsOverlap p.waiting [e]) &&
  (s.opsOf o.wid).all fun p => !(p.isAtomic && decide (p.seq < o.seq) && elemsOverlap p.waiting [e])

/-- The registration of a store's element reaches the home: its core owns the words, and no other core
does (R227). -/
def State.registered (s : State) (o : Op) (e : Elem) : State :=
  match e.loc with
  | .phys pa => if o.priv.isNone then (s.l1Revoke pa e.size).l1Fill o.core pa e.size true none
    else s.l1Revoke pa e.size
  | .scratch _ _ | .vault _ | .reed _ _ => s

/-- The bytes of a store's element as it registers: they reach their home, but for those of a private store, which stay
in the L1 of its core while its warp is there (R178). -/
def State.storeRun (s : State) (o : Op) (x : Loc) (bs : List Byte) : State :=
  match x, o.priv with
  | .phys pa, some wid =>
    if (s.warp? wid).elim false fun w => w.sched.state != .saved then
      (s.soundBy o.id x bs.length).l1Store o.core wid pa bs
    else (((s.putHomeBy o.id x bs).mirror pa bs)).l1Drop o.core pa bs.length
  | .phys pa, none => ((s.l1Yield pa bs.length).putHomeBy o.id x bs).mirror pa bs
  | _, _ => s.storeHome o.id x bs

/-- One element of a store performs at its home (R227, R236, R237); of the lanes of one store the
highest is kept (R224). [DEDUCED, log 34] -/
def State.register (s : State) (o : Op) (e : Elem) : State :=
  ((((o.runs e).foldl (fun s r => s.storeRun o r.1 r.2) s).registered o e).modOp o.id fun o =>
    o.performed e 0)

/-- REGISTRATION_COMPLETE (R227): elements of a store perform in some lanes; what has waited to leave and no
longer has to leaves. [DEDUCED, log 34] -/
def execRegistrationComplete (op : Nat) (lanes : BitVec 32) (s : State) :
    Host.Outcome State Fault Refusal :=
  .next (match s.ops.find? fun o => o.id == op with
    | none => s
    | some o =>
      if o.kind != .load && o.l1.isNone then s.startAll
      else if o.kind != .store then s
      else ((s.chosen o lanes (s.mayRegister o)).foldl (fun s e => s.register o e) s).tidyOp op)

/-- Whether an element of an atomic may perform: no earlier store or atomic of its warp on its bytes is in
flight, nor a store of its core that its warp has read (R225, R227, R400), and it is not a reed element. -/
def State.mayPerform (s : State) (o : Op) (e : Elem) : Bool :=
  o.l1.isSome && !s.passed o e &&
  (match e.loc with
    | .reed _ _ => false
    | .phys pa => !isRemote pa || o.returns
    | .scratch _ _ | .vault _ => !s.vaultDown e.loc) &&
  s.ops.all fun p =>
    !(((p.wid == o.wid && decide (p.seq < o.seq) && p.writes) || p.seen.contains o.wid) &&
      elemsOverlap p.waiting [e])

/-- One element of an atomic performs (R399, R400); on a word with an uncorrectable error it delivers
zero and a fault (R272, R273). [DEDUCED, log 17] -/
def State.performAtomic (s : State) (o : Op) (e : Elem) : State :=
  match o.kind with
  | .atomic op t _ =>
    match e.loc, s.poisonAt e.loc e.size with
    | .scratch g _, some _ => s.scratchKill g
    | _, some q =>
      (s.modOp o.id fun o => o.performed e 0).opFault o e 5 0x19 e.wordVa q.struct false
    | .phys pa, none =>
      if isRemote pa then
        match s.accepted with
        | (false, s) => s.rejectElem o e
        | (true, s) =>
          let (i, s) := s.draw
          s.modOp o.id fun o => o.performed e (BitVec.ofNat 64
            ((Config.remoteData i).toNat % 256 ^ t.bytes))
      else
        let s := s.l1Recall none pa t.bytes
        let old := leVal (s.homeBytes e.loc t.bytes)
        let r := atomNew op t old e.data.toNat e.new.toNat
        let s := if r.2 then ((s.l1Yield pa t.bytes).putHome e.loc (leBytes t.bytes r.1)).mirror pa (leBytes t.bytes r.1) else s
        (((s.l1Revoke pa t.bytes).l1Drop o.core pa t.bytes)).modOp o.id fun o => o.performed e (BitVec.ofNat 64 old)
    | _, none =>
      let (bs, s) := s.readHome e.loc t.bytes
      let old := leVal bs
      let r := atomNew op t old e.data.toNat e.new.toNat
      let s := if r.2 then s.storeHome 0 e.loc (leBytes t.bytes r.1) else s
      s.modOp o.id fun o => o.performed e (BitVec.ofNat 64 old)
  | .load | .store | .arrive _ _ | .fence => s

/-- ATOMIC_PERFORM (R400): elements of an atomic perform in some lanes, lower lanes first. -/
def execAtomicPerform (op : Nat) (lanes : BitVec 32) (s : State) :
    Host.Outcome State Fault Refusal :=
  .next (match s.ops.find? fun o => o.id == op with
    | none => s
    | some o =>
      let es := o.elems.filter fun e => e.state == .waiting && lanes.getLsbD e.lane.toNat
      let behind := fun e : Elem => o.elems.any fun f =>
        f.state == .waiting && decide (f.lane.toNat < e.lane.toNat) &&
          !lanes.getLsbD f.lane.toNat && elemsOverlap [f] [e]
      ((es.filter fun e => s.mayPerform o e && !behind e).foldl (fun s e => s.performAtomic o e)
        s).tidyOp op)

/-! ## The remote aperture (R56 to R59) -/

/-- The peers have answered an operation, all of its elements at once [DESIGN CHOICE, log 60] (R56, R58): the remote elements of a store, or of an atomic that returns
nothing, have performed there or have been rejected. -/
def State.opAnswered (s : State) (o : Op) : State :=
  if o.l1.isSome && o.writes && !o.returns then
    ((o.waiting.filter Elem.remote).foldl (fun s e =>
      match s.accepted with
      | (true, s) => s.modOp o.id fun o => o.performed e 0
      | (false, s) => s.rejectElem o e) s).tidyOp o.id
  else s

/-- The peer gives an operation no answer (R59): the page-protection fault is marked as a time-out, and what a
load or a returning atomic would deliver is the old value or zero, freely.  What has not been sent goes nowhere.  All the
remote elements of an operation time out at once. [DESIGN CHOICE, log 60] -/
def State.opTimedOut (s : State) (o : Op) : State :=
  if o.outstanding then
    ((o.waiting.filter Elem.remote).foldl (fun s e =>
      let s := (s.opFault o e 4 0x10 e.va 0 true).dropElem o e
      let (i, s) := s.draw
      if o.returns && Config.timeoutZero i then s.deliver o.wid e 0 else s) s).tidyOp o.id
  else s

/-! ## Held entries (R244, R245, R404) -/

/-- Count the hit of a held entry's new translation: one for its instruction, at the last of its entries that uses
the cached entry (R213). -/
def State.heldHit (s : State) (l : Launch) (e : HEntry) : State :=
  let asid := (s.ctx l.beam l.ctx).asid
  match s.tlb.find? fun x => bitOf x.w0 62 && x.covers l.part asid x.level e.va.toNat with
  | none => s
  | some x =>
    if s.held.any fun h => h != e && h.op == e.op && h.stale && x.covers l.part asid x.level h.va.toNat then s
    else
      { s with
        tlb := s.tlb.map fun y =>
          if y = x then { y with hits := if y.hits = 255 then 255 else y.hits + 1 } else y }

/-- The translation of a held entry: its own, or, once a sweep has made it stale, a new one (R404); an
entry that fails is discarded, and its fault is pending in its warp or fails its launch; so does a floating-point
atomic whose page lies with a peer now (R57, R400). -/
def State.heldPa (s : State) (e : HEntry) : Option Nat × State :=
  if !e.stale then (some e.pa, s)
  else
    match s.launch? e.lid with
    | none => (none, s)
    | some l =>
      let c : XCtx :=
        { beam := l.beam, ctx := l.ctx, part := l.part, link := dieBeam (coreDie e.core)
          die := some (coreDie e.core)
          shadow := if l.env.versioned then some l.env.vdom else none }
      let fail := fun (s : State) (cause : BitVec 8) =>
        if (s.warp? e.wid).elim false fun w => !w.exited then
          s.modWarp e.wid fun w =>
            w.addFault (faultRec e.issue 0 true e.lane.toNat 4 cause e.va)
        else s.modLaunch e.lid fun l => { l with faulted := true }
      match s.translate c .store e.va false with
      | (.ok pa home, s) =>
        if e.atomic && e.aty == .f32 && isRemote pa then (none, fail s 0x10)
        else
          let (at_, s) := (s.heldHit l e).atHome pa home
          (some at_, s)
      | (.protect, s) => (none, fail s 0x10)
      | (.nonres, s) => (none, fail s 0x11)

/-- Where a held atomic delivers its old value (R399). -/
def HEntry.target (e : HEntry) : Target :=
  if e.nr then .none
  else if !e.dvec then .sreg (e.dreg.setWidth 6) e.aty.image
  else if e.aty == .i64 then .lanePair e.dreg
  else .lane e.dreg e.aty.image

/-- An operation of a held entry, before its elements are set. -/
def State.heldOp (s : State) (e : HEntry) (kind : OpKind) : State × Op :=
  let (t, s) := s.fresh
  let p := s.partOf e.lid
  (s, ⟨e.op, e.wid, e.gid, e.bid, e.lid, e.core, p, e.issue, kind, e.acquires, e.releases, 0, 0, Sp.g.frameCode, true,
    [], (s.part p).sweeps, some t, [], [], []⟩)

/-- Send a held entry's access to its peer (R57, R58): its element is in flight until the peer has answered. -/
def State.sendHeld (s : State) (e : HEntry) (kind : OpKind) (el : Elem) : State :=
  let s :=
    if s.ops.any fun o => o.id == e.op then s
    else
      let (s, o) := s.heldOp e kind
      { s with ops := s.ops ++ [o] }
  let s := s.modOp e.op fun o => { o with elems := o.elems ++ [el] }
  (s.ops.find? fun o => o.id == e.op).elim s fun o => s.sendElem { o with elems := [el] } el

/-- One held atomic leaves the buffer at its flush (R245): it performs at its home, where a word with an uncorrectable
error gives zero and a fault (R273), or is sent to its peer. -/
def State.flushAtomic (s : State) (e : HEntry) : State :=
  let n := e.aty.bytes
  let (pa, s) := s.heldPa e
  let el : Elem := ⟨e.lane, .phys (pa.getD 0), n, e.va, e.va, e.target, e.data, e.new, 0, none, .waiting⟩
  let s := { s with held := s.held.filter fun h => h != e }
  let s :=
    match pa with
    | none => s
    | some pa =>
      if isRemote pa then s.sendHeld e (.atomic e.aop e.aty (!e.nr)) el
      else
        match s.poisonAt (.phys pa) n with
        | some q =>
          let (s, o) := s.heldOp e (.atomic e.aop e.aty (!e.nr))
          (s.opFault o el 5 0x19 el.wordVa q.struct false).deliver e.wid el 0
        | none =>
          let s := s.l1Recall none pa n
          let old := leVal (s.homeBytes (.phys pa) n)
          let r := atomNew e.aop e.aty old e.data.toNat e.new.toNat
          let s := if r.2 then ((s.l1Yield pa n).putHome (.phys pa) (leBytes n r.1)).mirror pa (leBytes n r.1) else s
          let s := s.lineRequest (some (coreDie e.core)) (s.homeOf pa)
          ((s.l1Revoke pa n).l1Drop e.core pa n).deliver e.wid el old
  let s := if e.acquires then s.acquire e.core else s
  if (s.held.any fun h => h.atomic && h.op == e.op) || s.ops.any fun o => o.id == e.op then s
  else s.finish e.wid e.op

/-- The held atomics of a bolt's epoch, in the order in which they flush (R245). -/
def State.epochEntries (s : State) (bid epoch : Nat) : List HEntry :=
  sortBy HEntry.before (s.held.filter fun e => e.atomic && e.bid == bid && e.epoch == epoch)

/-- Whether the next epoch of a bolt can flush (R244): every warp of the bolt has passed its flush point or
exited, and every bolt of lower index has retired. -/
def State.epochReady (s : State) (b : Bolt) : Bool :=
  let e := b.flushed + 1
  (s.launch? b.lid).elim false (fun l => l.env.ordered && decide (b.index.toNat ≤ l.retired)) &&
    (b.save == .resident || b.save == .named) &&
    (s.boltWarps b.bid).all (fun w => w.exited || decide (e ≤ w.epoch)) &&
    ((s.boltWarps b.bid).any (fun w => !w.exited) || s.held.any fun h => h.atomic && h.bid == b.bid)

/-- Whether a held atomic can perform in its place in the flush (R228, R245): no earlier release of its warp
waits, and, where it is a release itself, every earlier access of its warp is complete; the held atomics of
its own epoch are ordered by the keys alone. [DEDUCED, log 35] -/
def State.entryReady (s : State) (h : HEntry) : Bool :=
  (s.opsOf h.wid).all (fun o => decide (h.issue ≤ o.seq) || !(o.isRelease || h.releases)) &&
    !(h.releases && s.seenOpen h.wid)

/-- Whether an atomic of a bolt's flush is on its way to its peer (R58, R245): the next waits for it. -/
def State.flushing (s : State) (bid : Nat) : Bool :=
  s.ops.any fun o => o.bid == bid && o.isAtomic && o.waiting.any Elem.remote

/-- The held atomics of an epoch perform one after another, as far as each can (R245). -/
def State.flushEntries (s : State) : List HEntry → State
  | [] => s
  | h :: hs => if s.entryReady h && !s.flushing h.bid then (s.flushAtomic h).flushEntries hs else s

/-- Whether an element of a load in flight lies on the bytes of a held atomic; where a sweep has made its translation
stale, the virtual addresses tell. -/
def HEntry.meets (h : HEntry) (e : Elem) : Bool :=
  e.inMemory &&
    (if h.stale then decide (h.va.toNat < e.va.toNat + e.size) && decide (e.va.toNat < h.va.toNat + h.aty.bytes)
     else e.loc.overlap e.size (.phys h.pa) h.aty.bytes)

/-- The elements of loads in flight that the flush of an epoch comes after (R244): a load of a warp, before its flush
point, that reads the bytes of an atomic of its own in the epoch returns what stood there before the flush.
[DEDUCED, log 35] -/
def State.beforeFlush (s : State) (es : List HEntry) (wid : Nat) : List Elem :=
  let mine := es.filter fun h => h.wid == wid
  ((s.opsOf wid).filter fun o => o.kind == .load).flatMap fun o => o.waiting.filter fun e => mine.any fun h => h.meets e

/-- One past the issue number of the last operation of a warp in flight. -/
def State.afterOps (s : State) (wid : Nat) : Nat := (s.opsOf wid).foldl (fun n o => max n (o.seq + 1)) 0

/-- The warps of some held entries, each once. -/
def heldWarps (es : List HEntry) : List Nat := (es.map HEntry.wid).eraseDups

/-- EPOCH_FLUSH (R244, R245): the held atomics of a bolt's next epoch perform in key order, as far as the
releases among them need not wait; the epoch is flushed once none is left.  The bolt has made its first
acquire where one of them is an acquire; what waited for them then performs (R228, R446). -/
def execEpochFlush (k : Nat) (s : State) : Host.Outcome State Fault Refusal :=
  .next (match s.bolt? k with
    | none => s
    | some b =>
      let es := s.epochEntries k (b.flushed + 1)
      let first := fun wid => s.beforeFlush es wid
      if s.epochReady b && (heldWarps es).all fun wid => s.loadsReadable wid (s.afterOps wid) (first wid) then
        let s := (heldWarps es).foldl (fun s wid => s.settleLoads wid (s.afterOps wid) (first wid)) s
        let s := s.flushEntries es
        let left := s.epochEntries k (b.flushed + 1)
        let s := s.freeSpills (s.partOf b.lid) ((es.filterMap HEntry.spilled).map Prod.fst)
        let s := s.modBolt k fun b =>
          { b with
            flushed := if left.isEmpty && !s.flushing k then b.flushed + 1 else b.flushed
            acquired := b.acquired || es.any fun e => e.acquires && !left.contains e }
        if es.isEmpty then s else s.startAll
      else s)

/-- The held stores of a bolt leave the buffers. -/
def State.freeHeld (s : State) (es : List HEntry) : State :=
  let s := { s with held := s.held.filter fun e => !es.contains e }
  match es with
  | [] => s
  | e :: _ => s.freeSpills (s.partOf e.lid) ((es.filterMap HEntry.spilled).map Prod.fst)

/-- The held stores of a bolt are translated for its retirement, where a sweep has made them stale (R404), in the order
of their keys (R478). -/
def State.settleHeld (s : State) (bid : Nat) : State :=
  (s.keyStores bid).foldl (fun s e =>
    if !e.stale then s
    else
      match s.heldPa e with
      | (none, s) => s.freeHeld [e]
      | (some pa, s) =>
        { s with held := s.held.map fun h => if h = e then { h with pa := pa, stale := false } else h }) s

/-- Send the held stores of a bolt that lie with a peer, in the order of their keys (R478): its retirement waits for the
peer's answers (R58). [DEDUCED, log 60] -/
def State.sendStores (s : State) (bid : Nat) : State :=
  let es := (s.keyStores bid).filter fun e => isRemote e.pa
  (es.foldl (fun s e => (e.last es).runs.foldl (fun s r =>
    let va := e.va + (r.1.addr - BitVec.ofNat 64 e.pa)
    s.sendHeld e .store ⟨e.lane, r.1, r.2.length, va, va, .none, BitVec.ofNat 64 (leVal r.2), 0, 0, none, .waiting⟩)
      s) s).freeHeld es

/-- The held stores of a bolt perform as one step at its retirement, in the order of their keys, but of two that write
one byte the one that entered the buffers later stands (R129, R243, R404, R478). -/
def State.performHeld (s : State) (bid : Nat) : State :=
  let es := s.keyStores bid
  let lines := (es.map fun e => (coreDie e.core, e.pa / 128)).eraseDups
  let s := lines.foldl (fun s x => s.lineRequest (some x.1) (s.homeOf (128 * x.2))) s
  ((es.map fun e => e.last es).foldl (fun s e =>
    let s := s.l1Yield e.pa 8
    let s := if e.mask == 255#8 then s.putHome (.phys e.pa) (leBytes 8 e.data.toNat)
      else e.runs.foldl (fun s r => s.putHomeBy e.op r.1 r.2) s
    let s := e.runs.foldl (fun s r => s.mirrorAt r.1 r.2) s
    (s.l1Revoke e.pa 8).l1Drop e.core e.pa 8) s).freeHeld es

/-! ## Sweeps (R209 to R211) -/

/-- Begin a sweep of a partition (R209): its L1s write back and drop their words, its TLBs are emptied, and
every held entry's translation becomes stale (R404). -/
def State.beginSweep (s : State) (id : Nat) (p : PartN) : State :=
  let mine := fun e : HEntry => (s.launch? e.lid).elim false (fun l => l.part == p) && !e.stale
  let n := (s.held.filter mine).length
  let s := (s.l1Part p).tlbDrop fun e => e.part == p
  let s := s.modPart p fun r => { r with sweeps := r.sweeps + 1 }
  { s with
    held := s.held.map fun e => if mine e then { e with stale := true } else e
    sweeps := s.sweeps.map fun w =>
      if w.id = id then
        { w with running := true, cutAcc := BitVec.ofNat 32 (min 0xFFFFFFFF (w.cutAcc.toNat + n)) }
      else w }

/-- Begin the next sweep of a partition in which none runs. -/
def State.nextSweep (s : State) (p : PartN) : State :=
  if s.sweeps.any fun w => w.part == p && w.running then s
  else
    match s.sweeps.find? fun w => w.part == p with
    | some w => s.beginSweep w.id p
    | none => s

/-- Ask for a sweep of a partition: sweeps of one partition run one after another. -/
def State.requestSweep (s : State) (p : PartN) (who : SweepFor) : Nat × State :=
  let (id, s) := s.fresh
  let s := { s with sweeps := s.sweeps ++ [(⟨id, p, who, false, 0, 0, [], []⟩ : Sweep)] }
  (id, s.nextSweep p)

/-- The elements of an operation that a sweep may meet (R210): those in memory that have not performed; one that
has left for its peer has arrived. -/
def Op.returnable (o : Op) : List Elem :=
  o.waiting.filter fun e => e.inMemory && !(e.remote && o.l1.isSome)

/-- Whether an operation holds a translation from before the latest sweep of its partition, and has neither performed with
it nor been returned (R209, R210). -/
def State.oldOp (s : State) (o : Op) : Bool :=
  decide (o.sweep < (s.part o.part).sweeps) && o.waiting.any Elem.inMemory

/-- Whether a sweep may return elements of an operation (R210): what has left for a peer is answered first. -/
def State.returns (s : State) (o : Op) : Bool :=
  s.oldOp o && !(o.l1.isSome && o.waiting.any Elem.remote)

/-- The partition of a copy. -/
def State.copyPart (s : State) (c : Copy) : Option PartN :=
  ((s.group? c.gid).bind fun g => s.launch? g.lid).map fun l => l.part

/-- Whether the next unit of a copy holds a translation from before the latest sweep of its partition. -/
def State.oldUnit (s : State) (c : Copy) : Bool :=
  (s.copyPart c).elim false fun p => c.xlat.sweep?.elim false fun k => decide (k < (s.part p).sweeps)

/-- Whether a copy has such a unit before it, or on its way to a peer (R209). -/
def State.oldCopy (s : State) (c : Copy) : Bool :=
  s.oldUnit c || (s.copyPart c).elim false fun p => c.sent.elim false fun x => decide (x.2 < (s.part p).sweeps)

/-- The report word of a sweep (R211). -/
def Sweep.report (w : Sweep) : Word64 := BitVec.ofNat 64 (lay [(32, w.cutCpy.toNat), (0, w.cutAcc.toNat)])

/-- SWEEP_COMPLETE (R209, R211, R242, R456): once no access or copy holds an older translation, the
sweep completes, and frames that only older translations have named together are no longer kept identical (R220); a TFENCE then writes its report and completes as an acquire. -/
def execSweepComplete (p : PartN) (s : State) : Host.Outcome State Fault Refusal :=
  .next (match s.sweeps.find? fun w => w.part == p && w.running with
    | none => s
    | some w =>
      if s.ops.any (fun o => o.part == p && s.oldOp o) ||
          s.copies.any (fun c => s.copyPart c == some p && s.oldCopy c) then s
      else
        let s := { s with sweeps := s.sweeps.filter fun v => v.id != w.id }
        let s := s.dropTwins fun x => x.part == p && decide (x.sweep < (s.part p).sweeps)
        let s :=
          match w.who with
          | .stream _ _ _ => s
          | .tfence wid =>
            match s.warp? wid with
            | none => s
            | some v =>
              match v.busy with
              | .sweep id d =>
                if id = w.id then
                  (s.modWarp wid fun v => { v.sset d w.report with busy := .none }).acquire v.place.core
                else s
              | .none | .pgreq _ _ | .woken => s
        s.nextSweep p)

/-- Add to the report of the running sweep of a partition (R211), which has visited the slices of what it returns
(R210). -/
def State.cut (s : State) (p : PartN) (acc : Nat) (copy : Option Nat) (at_ : List Loc) : State :=
  { s with
    sweeps := s.sweeps.map fun w =>
      if w.part = p ∧ w.running then
        { w with
          visited := (at_.filterMap s.sliceAt).foldl (fun vs v => if vs.contains v then vs else v :: vs) w.visited
          cutAcc := BitVec.ofNat 32 (min 0xFFFFFFFF (w.cutAcc.toNat + acc))
          cutCpy :=
            match copy with
            | some c => if c ∈ w.cut ∨ w.cutCpy = 0xFFFFFFFF then w.cutCpy else w.cutCpy + 1
            | none => w.cutCpy
          cut := copy.elim w.cut fun c => if c ∈ w.cut then w.cut else c :: w.cut }
      else w }

/-- Residency flags of a warp, in its image too while it is saved (R203, R261). -/
def State.flagLanes (s : State) (wid : Nat) (rp : PReg) (lanes : Lanes) : State :=
  let s := s.modWarp wid fun w => w.residency rp lanes lanes
  match s.warp? wid with
  | none => s
  | some w => (s.savedFrame w).elim s fun base =>
      { s with
        mem := putWords s.mem base
          [(0x30, 4, w.rmask.toNat), (0x80 + 4 * rp.toNat, 4, (w.pget rp).toNat)] }

/-- One element of an operation is translated again (R210); in the remote aperture a floating-point atomic faults
(R57), and an access that has left its warp goes on to the peer.  A non-resident element of a load is zero, and flags its
lane, or the lanes of the block whose scale it is (R203, R396). [DEDUCED, log 20] -/
def State.returnRequest (s : State) (o : Op) (e : Elem) : State :=
  match s.warp? o.wid with
  | none => s
  | some w =>
    match s.resolveVa w (if o.kind == .load then .load else .store) e.va true with
    | (.ok loc home _, s) =>
      let f := { e with loc := loc, home := home }
      if o.isF32 && f.remote then s.rejectElem o e
      else
        let s := s.modOp o.id fun o => { o with elems := o.elems.map fun g => if e.same g then f else g }
        if f.remote && o.l1.isSome then s.sendElem { o with elems := o.elems.map fun g => if e.same g then f else g } f
        else s
    | (.zero _, s) =>
      let lanes :=
        match e.tgt with
        | .sreg _ _ => o.am
        | .none | .lane _ _ | .lanePair _ => BitVec.twoPow 32 e.lane.toNat
        | .scale _ _ => e.new.setWidth 32
      let s := s.flagLanes o.wid o.rp lanes
      if o.elems.any Elem.isScale then
        s.modOp o.id fun o => { o with elems := o.elems.map fun g => if e.same g then g.zero else g }
      else (s.deliver o.wid e 0).dropElem o e
    | (.bad order cause a, s) => (s.opFault o e order cause a 0 false).dropElem o e

/-- A store that waits to enter the holding buffer has been translated again: its entries follow (R210, R401). -/
def State.rechunk (s : State) (id : Nat) : State :=
  match s.ops.find? fun o => o.id == id with
  | none => s
  | some o =>
    match o.chunks, s.warp? o.wid with
    | old :: _, some w =>
      let hs := (s.storeChunks w o.id o.rel o.waiting).map fun h =>
        { h with core := old.core, epoch := old.epoch, seq := old.seq, order := old.order, issue := old.issue }
      s.modOp id fun o => { o with chunks := hs }
    | _, _ => s

/-- REQUEST_RETURN (R210, R211): the elements of an operation, or the next unit of a copy, that hold a
retired translation arrive after their slice's visit and are translated again; a request that is sent again counts again
(R305). -/
def execRequestReturn (op : Nat) (s : State) : Host.Outcome State Fault Refusal :=
  .next (match s.ops.find? fun o => o.id == op with
    | some o =>
      if s.returns o then
        let es := o.returnable
        let s := (s.cut o.part es.length none (es.map Elem.loc))
        let s := if o.kind == .load then s.askHomes o es else s
        let s := s.modOp op fun o => { o with asked := [] }
        let s := (es.foldl (fun s e => s.returnRequest o e) s).oneHit s.tlb
        let n := (s.part o.part).sweeps
        let s := (s.modOp op fun o => { o with sweep := n }).rechunk op
        let s := if o.kind == .load || o.l1.isNone then s
          else (s.ops.find? fun p => p.id == op).elim s fun p => s.askHomes p p.returnable
        s.tidyOp op
      else s
    | none =>
      match s.copies.find? fun c => c.id == op with
      | some c =>
        if s.oldUnit c then
          let s := (s.copyPart c).elim s fun p => s.cut p 0 (some op) c.xlat.locs
          { s with copies := s.copies.map fun c => if c.id = op then { c with xlat := .none } else c }
        else s
      | none => s)

/-! ## Page requests (R205) -/

/-- Send an MSI-X vector to the port of a partition; vector 0 sends nothing (R82, R205). -/
def State.sendVector (s : State) (p : PartN) (vec : BitVec 6) : State :=
  if vec = 0 then s else s.emit (.msix (Fin.ofNat 2 (s.part p).port.toNat) vec)

/-- A page request is dropped because the queue cannot be written (R205). -/
def State.pgqFail (s : State) (w : Warp) : State :=
  let k := s.ctx w.env.beam w.env.ctx
  (s.modCtx w.env.beam w.env.ctx fun c => { c with pgqf := true }).sendVector w.env.part k.vec

/-- Post the record of a page request, or drop it (R205). -/
def State.postPage (s : State) (w : Warp) (va notify : Word64) : State :=
  let k := s.ctx w.env.beam w.env.ctx
  let c : XCtx := { w.xctx with shadow := none }
  let base : Word64 := BitVec.ofNat 64 (k.pgqBase.toNat * 2 ^ 12)
  let cap := (2 ^ (12 + k.pgqSize.toNat) - 64) / 32
  match s.translate c .store base true with
  | (.ok h home, s) =>
    if isRemote h then s.pgqFail w
    else
    let (h, s) := s.atHome h home
    let posted := cellWord s.mem h 4
    let dropped := cellWord s.mem (h + 4) 4
    let drop := fun s : State =>
      s.putShared (h + 4) (leBytes 4 (min 0xFFFFFFFF (dropped + 1)))
    if (posted + 2 ^ 32 - cellWord s.mem (h + 8) 4) % 2 ^ 32 = cap then drop s
    else
      match s.translate c .store (base + BitVec.ofNat 64 (0x40 + 32 * (posted % cap))) true with
      | (.ok r home, s) =>
        if isRemote r then (drop s).pgqFail w
        else
        let (r, s) := s.atHome r home
        (s.putShared r (leBytes 8 va.toNat ++ leBytes 8 notify.toNat ++ leBytes 4 posted ++ leBytes 2 w.place.core ++
          leBytes 10 w.place.slot.toNat)).putShared h (leBytes 4 (posted + 1))
      | (.protect, s) => (drop s).pgqFail w
      | (.nonres, s) => (drop s).pgqFail w
  | (.protect, s) => s.pgqFail w
  | (.nonres, s) => s.pgqFail w

/-- PGREQ_POST (R205): the record of a warp's page request is posted or dropped, and its PGREQ
completes. -/
def execPgreqPost (wid : Nat) (s : State) : Host.Outcome State Fault Refusal :=
  .next (match s.warp? wid with
    | none => s
    | some w =>
      match w.busy with
      | .pgreq va notify => ((s.postPage w va notify).oneHit s.tlb).modWarp wid fun w => { w with busy := .none }
      | .none | .sweep _ _ | .woken => s)

/-! ## MWAIT (R408) -/

/-- MWAIT_REREAD (R408): the watched word of a warp that waits is read again. -/
def execMwaitReread (wid : Nat) (s : State) : Host.Outcome State Fault Refusal :=
  .next (match s.warp? wid with
    | none => s
    | some w =>
      if w.sched.hold == some .mwait then
        let (changed, s) := s.watchChanged w w.mwaitSeq
        if changed then s.modWarp wid fun w => { w with busy := .woken } else s
      else s)

end Sys2Proof.Machine
end

