-- ==== Sys2Proof/Machine/Engine.lean ====
section
/-! DEFINITION. The accesses that the command processor and the collective engine make for a context
(R500, R103, R66): translated through the context's tables, checked as a warp's access is, and
performed at their home. -/

namespace Sys2Proof.Machine

/-- Whose tables an engine uses for a context (R500); it makes no shadow access (R219). -/
def State.cpCtx (s : State) (b : Beam) (c : CtxN) : XCtx where
  beam := b
  ctx := c
  part := Fin.ofNat 8 (s.ctx b c).part.toNat
  link := b
  die := none
  shadow := none

/-- Where an engine's access lies, or the cause of its fault (R256): misaligned, page protection, or a
page that is not resident, which is a fault for it (R500). [DEDUCED, log 34] -/
def State.engineAt (s : State) (x : XCtx) (acc : Access) (va : Word64) (align : Nat) :
    Except (BitVec 8) Nat × State :=
  if va.toNat % align ≠ 0 then (.error 0x13, s)
  else
    match s.translate x acc va false with
    | (.ok pa home, s) =>
      let s := home.elim s fun h => s.lineRequest none h
      let (at_, s) := s.atHome pa home
      (.ok at_, s)
    | (.protect, s) => (.error 0x10, s)
    | (.nonres, s) => (.error 0x11, s)

/-- `n` bytes at a physical address as an engine reads them, those of a peer as it answers (R57); or the cause of its
fault: a poisoned word (R194), or a peer that rejects the access or gives no answer (R56, R59). -/
def State.physBytes (s : State) (b : Beam) (pa n : Nat) : Except (BitVec 8) (List Byte) × State :=
  if isRemote pa then
    match s.askRemote b pa n with
    | (some bs, s) => (.ok bs, s)
    | (none, s) => (.error 0x10, s)
  else if (s.poisonAt (.phys pa) n).isSome then (.error 0x19, s)
  else (.ok (cellBytes s.mem pa n), s)

/-- Send an engine's access to a peer, which answers it before the engine goes on (R58); the cause of its fault, if
any. [DEDUCED, log 60] -/
def State.tellPeer (s : State) (send : State → State) : Option (BitVec 8) × State :=
  match (send s).accepted with
  | (true, s) => (none, s)
  | (false, s) => (some 0x10, s)

/-- Write bytes at a physical address, or send them to a peer. -/
def State.putPhys (s : State) (b : Beam) (pa : Nat) (bs : List Byte) : Option (BitVec 8) × State :=
  if isRemote pa then s.tellPeer fun s => s.sendStore b pa bs else (none, s.putShared pa bs)

/-- An engine reads `n` bytes that lie in one page. -/
def State.engineRead (s : State) (x : XCtx) (va : Word64) (n align : Nat) :
    Except (BitVec 8) (List Byte) × State :=
  match s.engineAt x .load va align with
  | (.error e, s) => (.error e, s)
  | (.ok pa, s) =>
    s.physBytes x.link pa n

/-- An engine writes bytes that lie in one page; the cause of its fault, if any. -/
def State.engineWrite (s : State) (x : XCtx) (va : Word64) (align : Nat) (bs : List Byte) :
    Option (BitVec 8) × State :=
  match s.engineAt x .store va align with
  | (.error e, s) => (some e, s)
  | (.ok pa, s) => s.putPhys x.link pa bs

/-- An engine reads one little-endian word. -/
def State.engineWord (s : State) (x : XCtx) (va : Word64) (n : Nat) : Except (BitVec 8) Nat × State :=
  match s.engineRead x va n n with
  | (.ok bs, s) => (.ok (leVal bs), s)
  | (.error e, s) => (.error e, s)

/-! ## Whole pages (R113, R221) -/

/-- The pieces of a page copy: each source address and length of at most 4 KiB that crosses no granule of the source or of
the page, with its offset in the page. -/
def pagePieces (src size : Nat) : List (Nat × Nat × Nat) :=
  let m := src % 4096
  (List.range (size / 4096)).flatMap fun i =>
    let o := i * 4096
    if m = 0 then [(src + o, 4096, o)]
    else [(src + o, 4096 - m, o), (src + o + (4096 - m), m, o + (4096 - m))]

/-- The poison of a range of memory is gone. -/
def State.clearPoison (s : State) (pa n : Nat) : State :=
  { s with poison := s.poison.filter fun q => !(Loc.phys pa).overlap n q.loc 8 }

/-- Copy a range of physical memory, where it can be read. -/
def State.copyPhys (s : State) (b : Beam) (src dst n : Nat) : Option State :=
  if isRemote src || isRemote dst then
    match s.physBytes b src n with
    | (.ok bs, s) =>
      match s.putPhys b dst bs with
      | (none, s) => some s
      | (some _, _) => none
    | (.error _, _) => none
  else if (s.poisonAt (.phys src) n).isSome then none
  else
    let s := (((s.l1Recall none src n).l1Yield dst n).clearPoison dst n).l1Revoke dst n
    some { s with mem := cellCopy s.mem src dst n }

/-- Write zeros over a range of physical memory. -/
def State.zeroPhys (s : State) (b : Beam) (dst n : Nat) : Option State :=
  if isRemote dst then
    match s.putPhys b dst (List.replicate n 0) with
    | (none, s) => some s
    | (some _, _) => none
  else
    let s := ((s.l1Yield dst n).clearPoison dst n).l1Revoke dst n
    some { s with mem := cellClear s.mem dst n }

end Sys2Proof.Machine
end

