-- ==== Sys2Proof/Machine/Command.lean ====
section
/-! DEFINITION. The streams of the command processors (R93 to R113, R500): the ring, when commands begin
and complete, control flow, launches, signals, fences, version domains (R217 to R222) and page
service. -/

namespace Sys2Proof.Machine

/-! ## Completion of commands (R101, R102) -/

/-- Whether a command that has begun has completed: nothing that it waits for remains (R102). -/
def State.cmdDone (s : State) (b : Beam) (k : Cmd) : Bool :=
  match k.wait with
  | .launch lid => (s.launch? lid).isNone
  | .coll id => !(s.beam b).links.colls.any fun c => c.id == id
  | .sweep id => !s.sweeps.any fun w => w.id == id
  | .waitv _ _ _ _ => false
  | .domain _ _ _ _ _ => false

/-- The commands of a stream that have begun and not completed. -/
def State.openCmds (s : State) (b : Beam) (c : CtxN) : List Cmd :=
  (s.ctx b c).cmds.filter fun k => !s.cmdDone b k

/-- A command has begun: it is remembered until it completes. -/
def State.addCmd (s : State) (b : Beam) (c : CtxN) (off : BitVec 20) (w : CmdWait) : State :=
  let (id, s) := s.fresh
  let old := s.openCmds b c
  s.modCtx b c fun k => { k with cmds := old ++ [⟨id, off, Fin.ofNat 8 k.part.toNat, w⟩] }

/-- A command is complete. -/
def State.dropCmd (s : State) (b : Beam) (c : CtxN) (id : Nat) : State :=
  s.modCtx b c fun k => { k with cmds := k.cmds.filter fun x => x.id != id }

/-- Replace what a command waits for. -/
def State.setWait (s : State) (b : Beam) (c : CtxN) (id : Nat) (w : CmdWait) : State :=
  s.modCtx b c fun k => { k with cmds := k.cmds.map fun x => if x.id = id then { x with wait := w } else x }

/-! ## Halts (R111) -/

/-- The stream halts with an error at a command, and its MSI-X vector is sent (R111); a stream that has
halted keeps its first error. [DEDUCED, log 38] -/
def State.haltStream (s : State) (b : Beam) (c : CtxN) (err : BitVec 8) (off : BitVec 20) : State :=
  let k := s.ctx b c
  if k.halted then s
  else
    (s.modCtx b c fun k => { k with halted := true, err := err, errOff := off }).sendVector
      (Fin.ofNat 8 k.part.toNat) k.vec

/-! ## The ring (R97 to R100) -/

/-- The size of a context's ring in bytes (R97). -/
def Context.ringBytes (k : Context) : Nat := 2 ^ (12 + k.ringSize.toNat)

/-- The offset of a ring so many bytes further on (R97). -/
def Context.ringOff (k : Context) (off n : Nat) : Nat := (off + n) % k.ringBytes

/-- The doubleword of a ring at an offset; none where its read faults (R500). -/
def State.ringWord (s : State) (b : Beam) (c : CtxN) (off : Nat) : Option Word64 × State :=
  let k := s.ctx b c
  match s.engineWord (s.cpCtx b c) (BitVec.ofNat 64 (k.ringBase.toNat * 2 ^ 12 + off)) 8 with
  | (.ok n, s) => (some (BitVec.ofNat 64 n), s)
  | (.error _, s) => (none, s)

/-- The lengths that a command may have, in doublewords; none where the OPC is not assigned (R100). -/
def cmdLens : Nat → Option (List Nat)
  | 0x00 => some [1, 2, 3, 4]
  | 0x01 | 0x0B | 0x0C | 0x0D | 0x0F => some [2]
  | 0x02 | 0x03 | 0x08 | 0x09 => some [3]
  | 0x04 | 0x05 | 0x06 | 0x07 | 0x0A | 0x0E => some [1]
  | _ => none

/-- The bits of ARG that the table names for a command (R100). -/
def cmdArg : Nat → Nat
  | 0x01 | 0x02 | 0x0A | 0x0B => 0x1
  | 0x03 | 0x08 => 0x1E
  | 0x06 => 0xFFFFFFFF
  | 0x09 => 0x3F0F
  | 0x0C | 0x0D | 0x0E => 0xF
  | 0x0F => 0xFFFF
  | _ => 0

/-- Whether ARG is legal for a command (R100, R110). -/
def argOk (opc : Nat) (arg : Word64) : Bool :=
  Nat.land arg.toNat (cmdArg opc) == arg.toNat &&
    (if opc == 0x03 || opc == 0x08 then decide (bitsOf arg 3 1 ≤ 5)
     else if opc == 0x09 then
      decide (bitsOf arg 1 0 ≤ 1) && !(bitOf arg 3 && bitsOf arg 13 8 == 0)
     else true)

/-- Whether a command is a waiting command (R101). [DEDUCED, log 37] -/
def isWaiting (opc : Nat) (arg : Word64) : Bool :=
  match opc with
  | 0x03 | 0x09 | 0x0A | 0x0C | 0x0D | 0x0E => true
  | 0x01 | 0x02 | 0x0B => !bitOf arg 0
  | _ => false

/-- A command at the head of a stream: its ring offset, its OPC and ARG, its operands, the offset of the
command after it, and whether the stream came to it by skipping. -/
structure CmdWord where
  off     : BitVec 20
  opc     : Nat
  arg     : Word64
  d1      : Word64
  d2      : Word64
  next    : BitVec 20
  skipped : Bool
  deriving DecidableEq, Repr

/-- What stands at the head of a stream: nothing that can begin, an error of the ring or of the command's
form, a command that is skipped over, or a command. -/
inductive Head where
  | none
  | bad (err : BitVec 8)
  | skip (opc : Nat) (next : BitVec 20) (depth : Nat)
  | cmd (w : CmdWord)
  deriving DecidableEq, Repr

/-- The depth of a skip past a command (R108); none where the command ends the skip: the ENDIF or ENDLOOP of the level
that is skipped, or the ELSE of an IF whose condition failed. -/
def skipPast (top : Option Nest) (opc depth : Nat) : Option Nat :=
  match opc with
  | 0x03 | 0x06 => some (depth + 1)
  | 0x05 | 0x07 => if depth = 0 then none else some (depth - 1)
  | 0x04 => if depth = 0 && top == some (.cond false) then none else some depth
  | _ => some depth

/-- The operands of a command, and its check of ARG (R99, R100). [DEDUCED, log 37] -/
def State.cmdAt (s : State) (b : Beam) (c : CtxN) (opc len : Nat) (arg : Word64) (skipped : Bool) :
    Head × State :=
  let k := s.ctx b c
  let at_ := fun i => k.ringOff k.head.toNat (8 * i)
  if !argOk opc arg then (.bad 0x01, s)
  else
    let (d1, s) := if 2 ≤ len ∧ opc ≠ 0 then s.ringWord b c (at_ 1) else (some 0, s)
    let (d2, s) := if 3 ≤ len ∧ opc ≠ 0 then s.ringWord b c (at_ 2) else (some 0, s)
    match d1, d2 with
    | some d1, some d2 =>
      (.cmd ⟨k.head, opc, arg, d1, d2, BitVec.ofNat 20 (at_ len), skipped⟩, s)
    | _, _ => (.bad 0x0E, s)

/-- What stands at the head of a stream (R98, R99, R100, R108). [DEDUCED, log 37] -/
def State.peek (s : State) (b : Beam) (c : CtxN) : Head × State :=
  let k := s.ctx b c
  let avail := (k.tail.toNat + k.ringBytes - k.head.toNat % k.ringBytes) % k.ringBytes
  if !k.en || k.halted || (s.beam b).halted || avail < 8 then (.none, s)
  else
    match s.ringWord b c (k.ringOff k.head.toNat 0) with
    | (none, s) => (.bad 0x0E, s)
    | (some h, s) =>
      let opc := bitsOf h 63 56
      let len := bitsOf h 55 52
      let arg : Word64 := BitVec.ofNat 64 (bitsOf h 51 0)
      match cmdLens opc with
      | none => (.bad 0x01, s)
      | some ls =>
        if !ls.contains len then (.bad 0x01, s)
        else if avail < 8 * len then (.none, s)
        else
          match k.skip with
          | none => s.cmdAt b c opc len arg false
          | some d =>
            match skipPast k.nest.head? opc d with
            | some d => (.skip opc (BitVec.ofNat 20 (k.ringOff k.head.toNat (8 * len))) d, s)
            | none => s.cmdAt b c opc len (if opc = 0x04 then 0 else arg) true

/-- The stream halts at a command that has not begun: HEAD stays at it. [DEDUCED, log 37] -/
def State.rejectCmd (s : State) (b : Beam) (c : CtxN) (w : CmdWord) (err : BitVec 8) : State :=
  (s.modCtx b c fun k => { k with head := w.off }).haltStream b c err w.off

/-- A stream reaches a command of one OPC (R94, R98 to R101, R108): it is skipped over, halts the stream,
waits, or begins. [DEDUCED, log 37] -/
def State.begin (s : State) (b : Beam) (c : CtxN) (opc : Nat) (eff : CmdWord → State → State) : State :=
  match s.peek b c with
  | (.none, _) => s
  | (.bad err, t) => t.haltStream b c err (s.ctx b c).head
  | (.skip o next d, t) =>
    if o = opc then t.modCtx b c fun k => { k with head := next, skip := some d } else s
  | (.cmd w, t) =>
    if w.opc ≠ opc then s
    else if isWaiting opc w.arg && !(t.openCmds b c).isEmpty then s
    else if isWaiting opc w.arg && (s.ctx b c).faulted then t.rejectCmd b c w 0x0C
    else eff w (t.modCtx b c fun k => { k with head := w.next, skip := Option.none })

/-! ## Command words in memory (R100) -/

/-- The value of the word that a command names: 32 bits, or 64 with W64. -/
def State.cmdWord (s : State) (x : XCtx) (va : Word64) (w64 : Bool) : Option Nat × State :=
  match s.engineWord x va (if w64 then 8 else 4) with
  | (.ok n, s) => (some n, s)
  | (.error _, s) => (none, s)

/-- Whether a word meets the condition of a command (R100). -/
def condMet (arg : Word64) (v : Nat) (operand : Word64) : Bool :=
  (streamCond (BitVec.ofNat 3 (bitsOf arg 3 1)) v
    (if bitOf arg 4 then operand.toNat else operand.toNat % 2 ^ 32)).getD false

/-! ## Control flow (R108) -/

/-- Open a level of nesting. -/
def State.pushNest (s : State) (b : Beam) (c : CtxN) (n : Nest) (skip : Bool) : State :=
  s.modCtx b c fun k => { k with nest := n :: k.nest, skip := if skip then some 0 else none }

/-- CLOBUSO_NOP: completes at once (R100, R102). -/
def execClobusoNop (b : Beam) (c : CtxN) (s : State) : Host.Outcome State Fault Refusal :=
  .next (s.begin b c 0x00 fun _ s => s)

/-- IF: runs on, or skips to the matching ELSE or ENDIF (R108). -/
def execCIf (b : Beam) (c : CtxN) (s : State) : Host.Outcome State Fault Refusal :=
  .next (s.begin b c 0x03 fun w s =>
    if 8 ≤ (s.ctx b c).nest.length then s.rejectCmd b c w 0x09
    else
      match s.cmdWord (s.cpCtx b c) w.d1 (bitOf w.arg 4) with
      | (none, s) => s.rejectCmd b c w 0x0A
      | (some v, s) => s.pushNest b c (.cond false) (!condMet w.arg v w.d2))

/-- ELSE: begins the second body after a skip, and otherwise skips to ENDIF (R108). -/
def execCElse (b : Beam) (c : CtxN) (s : State) : Host.Outcome State Fault Refusal :=
  .next (s.begin b c 0x04 fun w s =>
    match (s.ctx b c).nest with
    | .cond false :: ns =>
      s.modCtx b c fun k =>
        { k with nest := .cond true :: ns, skip := if w.skipped then none else some 0 }
    | _ => s.rejectCmd b c w 0x09)

/-- ENDIF: closes an IF (R108). -/
def execCEndif (b : Beam) (c : CtxN) (s : State) : Host.Outcome State Fault Refusal :=
  .next (s.begin b c 0x05 fun w s =>
    match (s.ctx b c).nest with
    | .cond _ :: ns => s.modCtx b c fun k => { k with nest := ns }
    | _ => s.rejectCmd b c w 0x09)

/-- LOOP: runs its body COUNT times, or skips it (R108). -/
def execCLoop (b : Beam) (c : CtxN) (s : State) : Host.Outcome State Fault Refusal :=
  .next (s.begin b c 0x06 fun w s =>
    if 8 ≤ (s.ctx b c).nest.length then s.rejectCmd b c w 0x09
    else s.pushNest b c (.loop w.next (w.arg.setWidth 32)) (w.arg.setWidth 32 == 0#32))

/-- ENDLOOP: goes back to the body, or closes the LOOP (R108). -/
def execCEndloop (b : Beam) (c : CtxN) (s : State) : Host.Outcome State Fault Refusal :=
  .next (s.begin b c 0x07 fun w s =>
    match (s.ctx b c).nest with
    | .loop body left :: ns =>
      if left.toNat ≤ 1 then s.modCtx b c fun k => { k with nest := ns }
      else s.modCtx b c fun k => { k with nest := .loop body (left - 1) :: ns, head := body }
    | _ => s.rejectCmd b c w 0x09)

/-! ## WAITV and SIGNAL (R109, R110) -/

/-- One read of a WAITV's word (R109): it completes the WAITV, goes on waiting, or halts the stream. -/
def State.pollWaitv (s : State) (b : Beam) (c : CtxN) (k : Cmd) : State :=
  match k.wait with
  | .waitv va operand w64 cond =>
    match s.cmdWord (s.cpCtx b c) va w64 with
    | (none, s) => (s.dropCmd b c k.id).haltStream b c 0x0A k.off
    | (some v, s) =>
      if (streamCond cond v (if w64 then operand.toNat else operand.toNat % 2 ^ 32)).getD false then
        s.dropCmd b c k.id
      else s
  | .launch _ | .coll _ | .sweep _ | .domain _ _ _ _ _ => s

/-- Read the words of every WAITV of a stream that waits. -/
def State.pollAll (s : State) (b : Beam) (c : CtxN) : State :=
  (s.ctx b c).cmds.foldl (fun s k => s.pollWaitv b c k) s

/-- WAITV: begins, and reads its word for the first time (R109). -/
def execWaitv (b : Beam) (c : CtxN) (s : State) : Host.Outcome State Fault Refusal :=
  .next (s.begin b c 0x08 fun w s =>
    let id := s.serial
    let s := s.addCmd b c w.off (.waitv w.d1 w.d2 (bitOf w.arg 4) (BitVec.ofNat 3 (bitsOf w.arg 3 1)))
    ((s.ctx b c).cmds.find? fun k => k.id == id).elim s fun k => s.pollWaitv b c k)

/-- WAITV_READ: the word of a WAITV is read again (R109). -/
def execWaitvRead (b : Beam) (c : CtxN) (s : State) : Host.Outcome State Fault Refusal :=
  .next (if (s.beam b).halted then s else s.pollAll b c)

/-- SIGNAL performs at its word (R110): it writes, or adds as one atomic access, at the word's home or at a peer;
the cause of its fault, if any. -/
def State.signal (s : State) (b : Beam) (op pa n : Nat) (d : Word64) : Option (BitVec 8) × State :=
  if op = 0 then s.putPhys b pa (leBytes n (d.toNat % 256 ^ n))
  else if isRemote pa then
    s.tellPeer fun s => s.sendRemote b pa (.atomic .add (if n = 8 then .i64 else .u32) false d 0)
  else
    match s.physBytes b pa n with
    | (.error c, s) => (some c, s)
    | (.ok old, s) => s.putPhys b pa (leBytes n ((leVal old + d.toNat) % 256 ^ n))

/-- SIGNAL: writes or adds to a word, and then sends an MSI-X vector (R110). -/
def execSignal (b : Beam) (c : CtxN) (s : State) : Host.Outcome State Fault Refusal :=
  .next (s.begin b c 0x09 fun w s =>
    let n := if bitOf w.arg 2 then 8 else 4
    match s.engineAt (s.cpCtx b c) .store w.d1 n with
    | (.error _, s) => s.rejectCmd b c w 0x0A
    | (.ok pa, s) =>
      let op := bitsOf w.arg 1 0
      match s.signal b op pa n w.d2 with
      | (some _, s) => s.rejectCmd b c w 0x0A
      | (none, s) =>
        if bitOf w.arg 3 then
          s.sendVector (Fin.ofNat 8 (s.ctx b c).part.toNat) (BitVec.ofNat 6 (bitsOf w.arg 13 8))
        else s)

/-- FENCE: completes at once, or after a sweep of the partition where T = 1 (R102). -/
def execClobusoFence (b : Beam) (c : CtxN) (s : State) : Host.Outcome State Fault Refusal :=
  .next (s.begin b c 0x0A fun w s =>
    if bitOf w.arg 0 then
      let (id, s) := s.requestSweep (Fin.ofNat 8 (s.ctx b c).part.toNat) (.stream b c s.serial)
      s.addCmd b c w.off (.sweep id)
    else s)

/-! ## Launches (R104 to R107) -/

/-- A field of the descriptor: bits of the word at a byte offset. -/
def descField (bs : List Byte) (off hi lo : Nat) : Nat :=
  leVal ((bs.drop off).take 8) / 2 ^ lo % 2 ^ (hi - lo + 1)

/-- The descriptor of a launch from its bytes (R105). -/
def Desc.ofBytes (bs : List Byte) : Desc :=
  let f := descField bs
  { code := BitVec.ofNat 64 (f 0x00 63 0)
    entry := BitVec.ofNat 32 (f 0x08 31 0)
    trace := f 0x0C 8 8 == 1
    vdom := BitVec.ofNat 4 (f 0x0C 7 4)
    attr := BitVec.ofNat 4 (f 0x0C 3 0)
    grid := ⟨BitVec.ofNat 32 (f 0x10 31 0), BitVec.ofNat 32 (f 0x14 31 0), BitVec.ofNat 32 (f 0x18 31 0)⟩
    warps := BitVec.ofNat 5 (f 0x1C 8 4)
    groups := BitVec.ofNat 4 (f 0x1C 3 0)
    acc := BitVec.ofNat 6 (f 0x20 31 26)
    preg := BitVec.ofNat 5 (f 0x20 25 21)
    sreg := BitVec.ofNat 7 (f 0x20 20 14)
    vreg := BitVec.ofNat 6 (f 0x20 5 0)
    scratch := BitVec.ofNat 12 (f 0x24 11 0)
    priv := BitVec.ofNat 32 (f 0x28 31 0)
    privBase := BitVec.ofNat 64 (f 0x30 63 0)
    vwr := f 0x38 20 20 == 1
    vhi := BitVec.ofNat 6 (f 0x38 19 14)
    vlo := BitVec.ofNat 6 (f 0x38 13 8)
    vply := BitVec.ofNat 8 (f 0x38 7 0)
    affinity := BitVec.ofNat 8 (f 0x40 31 24)
    heat := BitVec.ofNat 8 (f 0x40 23 16)
    prio := BitVec.ofNat 2 (f 0x40 9 8)
    dents := BitVec.ofNat 7 (f 0x40 6 0)
    args := BitVec.ofNat 64 (f 0x48 63 0) }

/-- Whether every reserved bit of a descriptor is zero (R105). -/
def descReserved (bs : List Byte) : Bool :=
  let z := fun off hi lo => descField bs off hi lo == 0
  z 0x0C 31 9 && z 0x1C 31 9 && z 0x20 13 6 && z 0x24 31 12 && z 0x2C 31 0 && z 0x38 31 21 &&
    z 0x3C 31 0 && z 0x40 15 10 && z 0x40 7 7 && z 0x44 31 0 && (bs.drop 0x50).all fun b => b == 0

/-- Whether every field of a descriptor lies in its limits (R105). -/
def Desc.inLimits (d : Desc) : Bool :=
  d.code.toNat % 256 == 0 && d.entry.toNat % 12 == 0 && decide (d.acc.toNat ≤ 32) &&
    decide (1 ≤ d.preg.toNat ∧ d.preg.toNat ≤ 16) && decide (1 ≤ d.sreg.toNat ∧ d.sreg.toNat ≤ 64) &&
    decide (1 ≤ d.vreg.toNat ∧ d.vreg.toNat ≤ 32) && decide (d.scratch.toNat ≤ 2048) &&
    d.privBase.toNat % 2 ^ 16 == 0 && decide (d.vhi.toNat ≤ 47) && decide (d.vlo.toNat ≤ 47) &&
    decide (d.dents.toNat ≤ 64)

/-- The dies of a partition. -/
def State.partDies (s : State) (p : PartN) : List Die := (List.finRange 8).filter fun d => s.dieIn p d

/-- The dies of a partition that a descriptor's affinity names (R105, R106). -/
def State.affinityDies (s : State) (p : PartN) (d : Desc) : List Die :=
  (s.partDies p).filter fun e => d.affinity.getLsbD e.val

/-- The slots of a partition's pool on a beam (R27). -/
def State.pool (s : State) (b : Beam) (p : PartN) : List (Fin 64) :=
  (List.finRange 64).filter fun i =>
    let r : ReedSlot := (s.beam b).reed.slots[i]
    r.assigned && r.part.toNat == p.val

/-- The dents that a launch asks for on a beam (R28). -/
def State.dentsOn (s : State) (p : PartN) (d : Desc) (b : Beam) : Nat :=
  d.dents.toNat * ((s.affinityDies p d).filter fun e => dieBeam e == b).length

/-- Why a launch is rejected: the lowest code that applies (R106, R111). -/
def State.descError (s : State) (p : PartN) (bs : List Byte) (d : Desc) : Option (BitVec 8) :=
  if !descReserved bs || !d.inLimits then some 0x03
  else if 2 ^ 19 < (d.warps.toNat + 1) * d.vreg.toNat * 8 * 128 ∨
      2 ^ 15 < (d.warps.toNat + 1) * d.vreg.toNat * 8 * 8 then some 0x04
  else if (s.affinityDies p d).isEmpty ||
      (List.finRange 8).any (fun e => d.vply.getLsbD e.val && !s.dieIn p e) then some 0x05
  else if d.attr.getLsbD 0 && d.attr.getLsbD 2 then some 0x06
  else if d.attr.getLsbD 3 &&
      !(match (s.part p).doms[d.vdom.toNat]'(by have := d.vdom.isLt; omega) with
        | .open _ => true
        | .closed | .closing _ => false) then some 0x07
  else if [(0 : Beam), 1].any fun b => decide ((s.pool b p).length < s.dentsOn p d b) then some 0x08
  else none

/-- The lowest slot tag that no launch of a command processor holds (R107). -/
def State.freeTag (s : State) (b : Beam) : Option (BitVec 8) :=
  ((List.range 127).map fun i => BitVec.ofNat 8 (128 * b.val + i)).find? fun t =>
    !s.launches.any fun l => l.beam == b && l.tag == some t

/-- Give a free tag to the launch of a command processor that was queued first of those that wait for one, whatever its
priority (R107). [DESIGN CHOICE, log 40] -/
def State.giveTag (s : State) (b : Beam) : State :=
  match s.freeTag b, s.launches.find? fun l => l.beam == b && l.tag.isNone with
  | some t, some l => s.modLaunch l.lid fun l => { l with tag := some t }
  | _, _ => s

/-- The slots of a pool that no launch owns (R28). -/
def State.freeSlots (s : State) (b : Beam) (p : PartN) : List (Fin 64) :=
  (s.pool b p).filter fun i => !((s.beam b).reed.slots[i]).owned

/-- Whether a partition's reed regions have been cleared on every beam where it has one (R39); a region that gets a size
only after the partition's first launch is cleared before the next. [DEDUCED, DESIGN CHOICE, log 40] -/
def State.regionsClear (s : State) (p : PartN) : Bool :=
  [(0 : Beam), 1].all fun b =>
    let r : ReedRegion := (s.beam b).reed.regions[p]
    r.cleared || r.size == 0 || !(s.partDies p).any fun d => dieBeam d == b

/-- Whether a launch can be given its dent slots now (R28, R39, R107). [DEDUCED, log 40] -/
def State.slotsReady (s : State) (l : Launch) : Bool :=
  !l.slots && l.tag.isSome && s.regionsClear l.part &&
    [(0 : Beam), 1].all fun b => decide (s.dentsOn l.part l.desc b ≤ (s.freeSlots b l.part).length)

/-- Give one ply of a launch its slots: the lowest of the pool that no launch owns (R28). -/
def State.takeSlots (s : State) (l : Launch) (d : Die) : State :=
  let b := dieBeam d
  ((s.freeSlots b l.part).take l.desc.dents.toNat).foldl (fun s (i : Fin 64) =>
    s.modReed b fun r =>
      { r with
        slots := r.slots.set i
          { r.slots[i] with owned := true, ply := BitVec.ofNat 2 d.val, ltag := l.tag.getD 0, lid := l.lid } })
    s

/-- SLOT_ALLOCATION (R28): a launch is given the dent slots of every ply of its affinity at once, the plies in the order
of their dies. [DESIGN CHOICE, log 40] -/
def State.allocSlots (s : State) (lid : Nat) : State :=
  match s.launch? lid with
  | none => s
  | some l =>
    if s.slotsReady l then
      ((s.affinityDies l.part l.desc).foldl (fun s d => s.takeSlots l d) s).modLaunch lid fun l =>
        { l with slots := true }
    else s

/-- A launch that the command processor has validated (R104). -/
def Launch.new (lid : Nat) (b : Beam) (c : CtxN) (p : PartN) (d : Desc) (ext : Nat × Nat × Nat) :
    Launch where
  lid := lid
  beam := b
  ctx := c
  part := p
  desc := d
  ext := ext
  tag := none
  slots := false
  next := 0
  retired := 0
  ripe := false
  starving := false
  woke := none
  chosen := []
  faulted := false
  stopped := false
  age := lid

/-- Queue a validated launch, and remember its command (R104, R107, R28); one with no bolts is complete
at once.  While the beam link is down, a launch of a partition with plies on both beams is stopped as it comes (R53,
R84). [DEDUCED, log 40] -/
def State.queueLaunch (s : State) (b : Beam) (c : CtxN) (off : BitVec 20) (d : Desc)
    (ext : Nat × Nat × Nat) : State :=
  if ext.1 * ext.2.1 * ext.2.2 = 0 then s
  else
    let (lid, s) := s.fresh
    let p : PartN := Fin.ofNat 8 (s.ctx b c).part.toNat
    let cut := s.dev.linkDown && (s.part p).size == 3
    let s := { s with launches := s.launches ++ [{ Launch.new lid b c p d ext with stopped := cut }] }
    ((s.giveTag b).allocSlots lid).addCmd b c off (.launch lid)

/-- The launch of a command once its descriptor and, for LAUNCHI, its extents have been read. -/
def State.launchWith (s : State) (b : Beam) (c : CtxN) (w : CmdWord) (bs : List Byte)
    (ext : Nat × Nat × Nat) : State :=
  let d := Desc.ofBytes bs
  match s.descError (Fin.ofNat 8 (s.ctx b c).part.toNat) bs d with
  | some e => s.rejectCmd b c w e
  | none => s.queueLaunch b c w.off d ext

/-- The extents of a descriptor's own grid (R105). -/
def Desc.extents (d : Desc) : Nat × Nat × Nat :=
  (d.grid.x.toNat + 1, d.grid.y.toNat + 1, d.grid.z.toNat + 1)

/-- LAUNCH: reads and validates its descriptor, and queues the launch (R104, R106). -/
def execLaunch (b : Beam) (c : CtxN) (s : State) : Host.Outcome State Fault Refusal :=
  .next (s.begin b c 0x01 fun w s =>
    match s.engineRead (s.cpCtx b c) w.d1 128 128 with
    | (.error _, s) => s.rejectCmd b c w 0x02
    | (.ok bs, s) => s.launchWith b c w bs (Desc.ofBytes bs).extents)

/-- LAUNCHI: as LAUNCH, with extents read from memory (R104). -/
def execLaunchi (b : Beam) (c : CtxN) (s : State) : Host.Outcome State Fault Refusal :=
  .next (s.begin b c 0x02 fun w s =>
    match s.engineRead (s.cpCtx b c) w.d1 128 128 with
    | (.error _, s) => s.rejectCmd b c w 0x02
    | (.ok bs, s) =>
      match s.engineRead (s.cpCtx b c) w.d2 12 16 with
      | (.error _, s) => s.rejectCmd b c w 0x02
      | (.ok g, s) =>
        s.launchWith b c w bs (leVal (g.take 4), leVal ((g.drop 4).take 4), leVal (g.drop 8)))

/-- Whether a send queue holds an entry of a launch (R30, R102). -/
def State.queued (s : State) (lid : Nat) : Bool :=
  (List.finRange 8).any fun d => (s.ply d).queue.any fun e => e.lid == lid

/-- Whether a launch owns dent slots. -/
def State.ownsAny (s : State) (lid : Nat) : Bool :=
  [(0 : Beam), 1].any fun b => (s.beam b).reed.slots.any fun r => r.owned && r.lid == lid

/-- Whether everything of a launch but the return of its slots is done (R102, R30). -/
def State.workDone (s : State) (l : Launch) : Bool :=
  decide (l.count ≤ l.next) && !(s.bolts.any fun b => b.lid == l.lid) &&
    !(s.groups.any fun g => g.lid == l.lid) && !(s.warps.any fun w => w.place.lid == l.lid) &&
    !(s.held.any fun e => e.lid == l.lid) &&
    !(s.ops.any fun o => o.lid == l.lid && o.writes) && !s.queued l.lid

/-- A launch is complete: its tag is free again, and its stream learns whether it faulted (R101, R102,
R107). [DEDUCED, log 40] -/
def State.completeLaunch (s : State) (l : Launch) : State :=
  let s := { s with launches := s.launches.filter fun m => m.lid != l.lid }
  let s := s.modReed 0 fun r => { r with bars := r.bars.filter fun x => x.lid != l.lid }
  let s := s.modReed 1 fun r => { r with bars := r.bars.filter fun x => x.lid != l.lid }
  let s := if l.faulted then s.modCtx l.beam l.ctx fun k => { k with faulted := true } else s
  s.giveTag l.beam

/-- LAUNCH_COMPLETE (R102): a launch whose work is done and whose slots are returned completes. -/
def execLaunchComplete (l : Nat) (s : State) : Host.Outcome State Fault Refusal :=
  .next (match s.launch? l with
    | none => s
    | some m => if s.workDone m && !s.ownsAny l then s.completeLaunch m else s)

/-! ## Version domains (R112, R217 to R222) -/

/-- The state of a domain. -/
def State.dom (s : State) (p : PartN) (v : BitVec 4) : DomState :=
  (s.part p).doms[v.toNat]'(by have := v.isLt; omega)

/-- Set the state of a domain. -/
def State.setDom (s : State) (p : PartN) (v : BitVec 4) (x : DomState) : State :=
  s.modPart p fun r => { r with doms := r.doms.set v.toNat x (by have := v.isLt; omega) }

/-- OPEN: records the flag word and opens the domain (R112, R220). [DEDUCED, log 39] -/
def execCOpen (b : Beam) (c : CtxN) (s : State) : Host.Outcome State Fault Refusal :=
  .next (s.begin b c 0x0C fun w s =>
    let p : PartN := Fin.ofNat 8 (s.ctx b c).part.toNat
    let v : BitVec 4 := w.arg.setWidth 4
    match s.cmdWord (s.cpCtx b c) w.d1 true with
    | (none, s) => s.rejectCmd b c w 0x0A
    | (some _, s) =>
      if s.dom p v = .closed then
        (s.setDom p v (.open w.d1)).dropTwins fun x => x.part == p && x.dom == v
      else s.rejectCmd b c w 0x0B)

/-- The flag word of a domain that is not closed. -/
def DomState.flag : DomState → Option Word64
  | .closed => none
  | .open f => some f
  | .closing f => some f

/-- A COMMIT or ABORT begins (R221): the domain closes, and the command waits for its launches; on a
domain that is closing already, COMMIT does not flip again (R222). -/
def State.beginClose (s : State) (b : Beam) (c : CtxN) (w : CmdWord) (commit : Bool) : State :=
  let p : PartN := Fin.ofNat 8 (s.ctx b c).part.toNat
  let v : BitVec 4 := w.arg.setWidth 4
  let again : Bool :=
    match s.dom p v with
    | .closing _ => true
    | .closed | .open _ => false
  match (s.dom p v).flag with
  | none => s.rejectCmd b c w 0x0B
  | some f =>
    (s.setDom p v (.closing f)).addCmd b c w.off
      (.domain v (if commit ∧ w.d1 ≠ 0 then some w.d1 else none) commit (if commit && !again then some f else none)
        .launches)

/-- Whether a versioned launch of a domain is queued or running (R221). -/
def State.domainBusy (s : State) (p : PartN) (v : BitVec 4) : Bool :=
  s.launches.any fun l => l.part == p && l.desc.attr.getLsbD 3 && l.desc.vdom == v

/-- The versioned leaves of a domain that a table of a level reaches, with their level and the address of
their entry (R221). -/
def State.domLeaves (s : State) (p : PartN) (v : BitVec 4) : List Nat → Nat → List (Nat × Nat)
  | [], _ => []
  | l :: ls, base =>
    (List.range (levelSize l)).flatMap fun i =>
      let a := base + 16 * i
      let e := s.pteAt a
      if !s.inPmem p a 16 || !e.v then []
      else if e.leaf then (if l ≤ 2 && e.ver && e.vdom == v then [(l, a)] else [])
      else if l == 0 || !tableOk l e then []
      else s.domLeaves p v ls e.next

/-- Refresh the page of one leaf (R221): copy the current frame over the shadow frame, granule by granule at the homes that
the leaf names (R103, R212), and clear SD. -/
def State.refreshLeaf (s : State) (p : PartN) (x : Nat × Nat) : Option State :=
  let e := s.pteAt x.2
  if !e.sd then some s
  else if !s.leafOk p x.1 e then none
  else
    let g := (s.part p).vgen.getLsbD e.vdom.toNat
    let src := if g then e.frame1 else e.frame0
    let dst := if g then e.frame0 else e.frame1
    ((List.range (2 ^ levelShift x.1 / 4096)).foldl (fun (o : Option State) i => o.bind fun s =>
      let (a, s) := s.leafAt p e (src + 4096 * i)
      let (d, s) := s.leafAt p e (dst + 4096 * i)
      s.copyPhys 0 a d 4096) (some s)).map fun s =>
        s.putShared (x.2 + 8) (leBytes 8 ((s.pteAt x.2).w1 &&& ~~~(1#64 <<< 59)).toNat)

/-- Refresh a domain: every versioned leaf of it in the tables of every enabled context of the partition
(R221); the second part is false where a copy met a fault (R222). -/
def State.refreshDomain (s : State) (p : PartN) (v : BitVec 4) : State × Bool :=
  let roots := [(0 : Beam), 1].flatMap fun b =>
    ((List.finRange 16).filter fun c =>
      (s.ctx b c).en && (s.ctx b c).part.toNat == p.val && !(s.ctx b c).root.getLsbD 0).map fun c =>
      (s.ctx b c).root.toNat * 2 ^ 12
  (roots.flatMap fun r => s.domLeaves p v [4, 3, 2, 1, 0] r).foldl (fun (r : State × Bool) x =>
    if r.2 then (r.1.refreshLeaf p x).elim (r.1, false) fun t => (t, true) else r) (s, true)

/-- The next phase of a COMMIT or ABORT that has begun (R221, R222). [DEDUCED, log 39] -/
def State.closeStep (s : State) (b : Beam) (c : CtxN) (k : Cmd) (v : BitVec 4) (out : Option Word64)
    (commit : Bool) (flag : Option Word64) (ph : DomPhase) : State :=
  let p := k.part
  let x : XCtx := { s.cpCtx b c with part := p }
  let go := fun (s : State) (ph : DomPhase) => s.setWait b c k.id (.domain v out commit flag ph)
  let fail := fun s : State => (s.dropCmd b c k.id).haltStream b c 0x0A k.off
  match ph with
  | .launches =>
    if s.domainBusy p v then s
    else
      match flag with
      | none => go s (.refresh 2)
      | some f =>
        match s.cmdWord x f true with
        | (none, s) => fail s
        | (some 0, s) =>
          let s := s.modPart p fun r => { r with vgen := r.vgen ^^^ BitVec.twoPow 16 v.toNat }
          let (id, s) := s.requestSweep p (.stream b c k.id)
          go s (.flip id)
        | (some _, s) => go s (.refresh 2)
  | .flip id => if s.sweeps.any fun w => w.id == id then s else go s (.refresh 1)
  | .refresh r =>
    match s.refreshDomain p v with
    | (s, false) => fail s
    | (s, true) =>
      let (id, s) := s.requestSweep p (.stream b c k.id)
      go s (.last id r)
  | .last id r =>
    if s.sweeps.any fun w => w.id == id then s
    else
      let close := fun s : State => (s.setDom p v .closed).dropCmd b c k.id
      match out with
      | none => close s
      | some va =>
        match s.engineWrite x va 8 (leBytes 8 r.toNat) with
        | (some _, s) => fail s
        | (none, s) => close s

/-- Go on with the COMMIT or ABORT of a stream that has begun, or begin the next. [DEDUCED, log 39] -/
def State.closeEvent (s : State) (b : Beam) (c : CtxN) (opc : Nat) (commit : Bool) : State :=
  match (s.ctx b c).cmds.findSome? fun k =>
      match k.wait with
      | .domain v out cm flag ph => if cm = commit then some (k, v, out, flag, ph) else none
      | .launch _ | .coll _ | .sweep _ | .waitv _ _ _ _ => none with
  | some (k, v, out, flag, ph) =>
    if (s.beam b).halted then s else s.closeStep b c k v out commit flag ph
  | none => s.begin b c opc fun w s => s.beginClose b c w commit

/-- COMMIT: closes a domain and flips its generation where the flag word is zero (R112, R221); each of
its phases is one event. -/
def execCommit (b : Beam) (c : CtxN) (s : State) : Host.Outcome State Fault Refusal :=
  .next (s.closeEvent b c 0x0D true)

/-- ABORT: closes a domain and discards its step (R112, R221). -/
def execAbort (b : Beam) (c : CtxN) (s : State) : Host.Outcome State Fault Refusal :=
  .next (s.closeEvent b c 0x0E false)

/-! ## Page service (R113) -/

/-- Fill one frame of the page of a leaf from its source, or with zeros, granule by granule at the homes that the leaf names
(R103, R212). -/
def State.fillFrame (s : State) (x : XCtx) (e : Pte) (frame size : Nat) (src : Option Nat) : Option State :=
  match src with
  | none => (List.range (size / 4096)).foldl (fun (o : Option State) i => o.bind fun s =>
      let (d, s) := s.leafAt x.part e (frame + 4096 * i)
      s.zeroPhys x.link d 4096) (some s)
  | some va =>
    (pagePieces va size).foldl (fun (o : Option State) y =>
      o.bind fun s =>
        match s.engineAt x .load (BitVec.ofNat 64 y.1) 1 with
        | (.error _, _) => none
        | (.ok pa, s) =>
          let (d, s) := s.leafAt x.part e (frame + y.2.2)
          s.copyPhys x.link pa d y.2.1) (some s)

/-- Make the page of one entry resident (R113): the STATUS of the entry, or none where its source
faults. [DEDUCED, log 39] -/
def State.pageIn (s : State) (x : XCtx) (va : Word64) (src : Option Nat) : Option (Nat × State) :=
  match s.walkFrom x va.toNat false with
  | (.fault, _) => some (2, s)
  | (.leaf l a e, _) =>
    if e.res then some (1, s)
    else
      let size := 2 ^ levelShift l
      ((s.fillFrame x e e.frame0 size src).bind fun s =>
        if e.ver then s.fillFrame x e e.frame1 size src else some s).map fun s =>
          (0, s.putShared a (leBytes 8 ((s.pteAt a).w0 ||| (1#64 <<< 61)).toNat))

/-- The entries of a PAGE list in order (R113); the second part is false where an access has faulted.  An entry names the
page that holds its VA, aligned or not, and its bytes without a meaning are ignored. [DEDUCED, DESIGN CHOICE, log 39] -/
def State.pageList (s : State) (x : XCtx) (list : Word64) : Nat → Nat → State × Bool
  | 0, _ => (s, true)
  | n + 1, i =>
    let at_ := list + BitVec.ofNat 64 (32 * i)
    match s.engineRead x at_ 32 32 with
    | (.error _, s) => (s, false)
    | (.ok bs, s) =>
      let va : Word64 := BitVec.ofNat 64 (leVal (bs.take 8))
      let src := if ((bs.drop 16).headD 0).getLsbD 0 then some (leVal ((bs.drop 8).take 8)) else none
      match (if bitsOf va 63 57 ≠ 0 then some (2, s) else s.pageIn x va src) with
      | none => (s, false)
      | some (st, s) =>
        match s.engineWrite x (at_ + 24) 1 [BitVec.ofNat 8 st] with
        | (some _, s) => (s, false)
        | (none, s) => s.pageList x list n (i + 1)

/-- PAGE: makes the listed pages resident, and then sweeps the partition (R113). -/
def execPage (b : Beam) (c : CtxN) (s : State) : Host.Outcome State Fault Refusal :=
  .next (s.begin b c 0x0F fun w s =>
    match s.pageList (s.cpCtx b c) w.d1 (bitsOf w.arg 15 0) 0 with
    | (s, false) => s.rejectCmd b c w 0x0A
    | (s, true) =>
      let (id, s) := s.requestSweep (Fin.ofNat 8 (s.ctx b c).part.toNat) (.stream b c s.serial)
      s.addCmd b c w.off (.sweep id))

/-! ## What CTX_STATUS shows (R98) -/

/-- Whether a stream waits: its next command is a waiting command behind others, or a WAITV polls (R98,
R101). -/
def State.streamWaits (s : State) (b : Beam) (c : CtxN) : Bool :=
  ((s.ctx b c).cmds.any fun k =>
    match k.wait with
    | .waitv _ _ _ _ => true
    | .launch _ | .coll _ | .sweep _ | .domain _ _ _ _ _ => false) ||
  match (s.peek b c).1 with
  | .cmd w => isWaiting w.opc w.arg && !(s.openCmds b c).isEmpty
  | .none | .bad _ | .skip _ _ _ => false

/-- CTX_STATUS.STATE (R98). -/
def State.streamState (s : State) (b : Beam) (c : CtxN) : StreamState :=
  let k := s.ctx b c
  if k.halted then .halted
  else if s.streamWaits b c then .waiting
  else if k.head == k.tail && (s.openCmds b c).isEmpty then .idle
  else .running

end Sys2Proof.Machine
end

