-- ==== Sys2Proof/Machine/Reed.lean ====
section
/-! DEFINITION. The reed of a beam (R25 to R51): dents pass and are applied to the mirrors, tokens count
beam barriers, slots are allocated and returned, regions are cleared, and a waking ply catches up. -/

namespace Sys2Proof.Machine

/-! ## Dents pass (R25, R26, R29, R33) -/

/-- The first entry of a ply's queue that has not been sent (R33). -/
def Ply.unsent (p : Ply) : Option QEntry := p.queue.find? fun e => !e.sent

/-- The die of a ply of a beam. -/
def beamDie (b : Beam) (ply : BitVec 2) : Die := Fin.ofNat 8 (4 * b.val + ply.toNat)

/-- The plies of a beam. -/
def beamDies (b : Beam) : List Die := (List.finRange 8).filter fun d => dieBeam d == b

/-- A logged dent passes with a slot tag: it takes the next DSN of the beam (R25, R26). -/
def State.logDent (s : State) (b : Beam) (tag : BitVec 8) (d : Die) (k : DentKind) (id : Nat) : State :=
  s.modReed b fun r =>
    { r with passed := r.passed ++ [⟨r.head + r.passed.length + 1, tag, d, k, id, false⟩] }

/-- What the ply that owns a slot sends in it (R29, R33): its next queue entry, where that is of the
slot's launch. [DEDUCED, log 22] A token has a dent, and so a DSN, of its own: it never rides in that of a write
or an atomic. [DESIGN CHOICE, log 42] -/
def State.sendSlot (s : State) (b : Beam) (r : ReedSlot) : State :=
  if !r.owned then s
  else
    let d := beamDie b r.ply
    match (s.ply d).unsent with
    | some e =>
      if e.lid = r.lid then
        let s := s.modPly d fun p =>
          { p with queue := p.queue.map fun q => if q.id = e.id then { q with sent := true } else q }
        (s.logDent b r.ltag d e.kind e.id).count d .dents 1
      else s
    | none => s

/-- The slot whose dent passes next (R25). -/
def Reed.slotNow (r : Reed) : Fin 64 := ⟨r.slotCtr.toNat, by have := r.slotCtr.isLt; omega⟩

/-- Whether a region-clear dent can pass now (R39): a launch of the partition waits for it, some ply of the beam
is in run or doze, and the next slot is the lowest of the pool that no launch owns. -/
def State.mayClear (s : State) (b : Beam) (p : PartN) : Bool :=
  let r : ReedRegion := (s.beam b).reed.regions[p]
  (s.beam b).reed.calOk && !r.cleared && r.size != 0 && s.launches.any (fun l => l.part == p) &&
    (s.freeSlots b p).head? == some (s.beam b).reed.slotNow &&
    (beamDies b).any fun d => (s.ply d).state == .run || (s.ply d).state == .doze

/-- The control dent that clears a partition's region passes (R25, R39): its slot tag is 0xFF, and it names the
region as it is now. -/
def State.sendClear (s : State) (b : Beam) (p : PartN) : State :=
  let r : ReedRegion := (s.beam b).reed.regions[p]
  let k : DentKind := .clear p (r.base.toNat * 2 ^ 16) (r.size.toNat * 2 ^ 16)
  (s.logDent b 0xFF (Fin.ofNat 8 (4 * b.val)) k 0).modReed b fun x =>
    { x with regions := x.regions.set p { r with cleared := true } }

/-- The dent of the next slot of the frame passes (R25). -/
def State.passSlot (s : State) (b : Beam) : State :=
  let r := (s.beam b).reed
  let s :=
    match (List.finRange 8).find? fun p => s.mayClear b p with
    | some p => s.sendClear b p
    | none => s.sendSlot b r.slots[r.slotNow]
  s.modReed b fun r => { r with slotCtr := r.slotCtr + 1 }

/-- DENT_PASS (R25): the dent of the next slot of the frame passes; none does before calibration
(R47). -/
def execDentPass (b : Beam) (s : State) : Host.Outcome State Fault Refusal :=
  .next (if (s.beam b).reed.calOk then s.passSlot b else s)

/-! ## Dents are applied (R32) -/

/-- The bytes of a block that a write dent changes, as offsets and bytes. -/
def dentBytes (mask : BitVec 256) (data : BitVec 2048) : List (Nat × Byte) :=
  (List.range 256).filterMap fun i =>
    if mask.getLsbD i then some (i, BitVec.ofNat 8 (data.toNat / 256 ^ i)) else none

/-- Whether a write covers every byte of the word of a mirror at an offset of its block (R194). -/
def coversWord (mask : BitVec 256) (at_ : Nat) : Bool := (List.range 8).all fun i => mask.getLsbD (at_ + i)

/-- A dent's change to one mirror (R32, R35); a word that it writes whole is sound (R194). -/
def Ply.applyDent (p : Ply) (k : DentKind) : Ply :=
  match k with
  | .write blk mask data =>
    { p with
      mirror := (dentBytes mask data).foldl (fun m x => cellSet m (256 * blk + x.1) x.2) p.mirror
      mirrorBad := p.mirrorBad.filter fun w => !(w / 256 == blk && coversWord mask (w % 256)) }
  | .atomic blk off o t b c _ _ =>
    let a := 256 * blk + off
    let r := atomNew o t (cellWord p.mirror a t.bytes) b.toNat c.toNat
    { p with
      mirror := if r.2 then cellPut p.mirror a (leBytes t.bytes r.1) else p.mirror
      mirrorBad := p.mirrorBad.filter fun w => !(w == a && t.bytes == 8) }
  | .clear _ base size =>
    { p with
      mirror := cellClear p.mirror base size
      mirrorBad := p.mirrorBad.filter fun w => decide (w < base) || decide (base + size ≤ w) }
  | .join _ _ | .leave _ _ | .arrive _ _ _ _ _ => p

/-- Apply a logged dent to a mirror: APPLIED names it (R45, R51). -/
def Ply.applyLogged (p : Ply) (d : Dent) : Ply := { p.applyDent d.kind with applied := d.dsn }

/-- The old value of a reed atomic goes to the lane that waits for it: the value in its sender's mirror,
or zero and a fault where that word has an uncorrectable error (R35, R272). -/
def State.answerAtomic (s : State) (d : Dent) : State :=
  match d.kind with
  | .atomic blk off _ t _ _ op lane =>
    match s.ops.find? fun o => o.id == op with
    | none => s
    | some o =>
      match o.elems.find? fun e => e.lane.toNat == lane && e.state == .waiting with
      | none => s
      | some e =>
        let old := cellWord (s.ply d.die).mirror (256 * blk + off) t.bytes
        match s.elemPoison o.core e with
        | some q =>
          ((s.modOp op fun o => o.performed e 0).opFault o e 5 0x19
            (e.va + (q.loc.addr - e.loc.addr)) q.struct false).tidyOp op
        | none => (s.modOp op fun o => o.performed e (BitVec.ofNat 64 old)).tidyOp op
  | .write _ _ _ | .clear _ _ _ | .join _ _ | .leave _ _ | .arrive _ _ _ _ _ => s

/-! ## Beam-barrier tokens (R41) -/

/-- The counts of a launch's beam barriers, which its first JOIN begins. -/
def Reed.withBars (r : Reed) (lid : Nat) : Reed :=
  if r.bars.any fun b => b.lid == lid then r
  else { r with bars := r.bars ++ (List.range 8).map fun n => ⟨lid, BitVec.ofNat 3 n, 0, 0, 0⟩ }

/-- What a token does to one barrier's sets: an ARRIVE, whose dent shows the parity of its generation, counts for
that generation alone (R25, R41). [DEDUCED, log 42] -/
def BeamBar.token (x : BeamBar) (k : DentKind) : BeamBar :=
  let bit := fun d : Die => BitVec.twoPow 8 d.val
  match k with
  | .join lid d => if x.lid = lid then { x with joined := x.joined ||| bit d, arrived := x.arrived &&& ~~~(bit d) } else x
  | .leave lid d =>
    if x.lid = lid then { x with joined := x.joined &&& ~~~(bit d), arrived := x.arrived &&& ~~~(bit d) } else x
  | .arrive lid n d gen _ =>
    if x.lid = lid ∧ x.n = n ∧ x.gen = gen then { x with arrived := x.arrived ||| (bit d &&& x.joined) } else x
  | .write _ _ _ | .atomic _ _ _ _ _ _ _ _ | .clear _ _ _ => x

/-- The launch of a token. -/
def DentKind.tokenOf : DentKind → Option Nat
  | .join lid _ => some lid
  | .leave lid _ => some lid
  | .arrive lid _ _ _ _ => some lid
  | .write _ _ _ | .atomic _ _ _ _ _ _ _ _ | .clear _ _ _ => none

/-- Whether a generation of a barrier completes: some ply is joined, and every joined ply has arrived. -/
def BeamBar.over (x : BeamBar) : Bool := x.joined != 0 && (x.joined &&& ~~~x.arrived) == 0

/-- A generation of a beam barrier completes: its number rises, and each resident group of the launch on
the beam goes on with its next membership (R41, R444). -/
def State.turnBeam (s : State) (b : Beam) (lid : Nat) (n : BitVec 3) : State :=
  let i : Fin 8 := ⟨n.toNat, by have := n.isLt; omega⟩
  let s := s.modReed b fun r =>
    { r with bars := r.bars.map fun x =>
        if x.lid = lid ∧ x.n = n then { x with gen := x.gen + 1, arrived := 0 } else x }
  { s with
    groups := s.groups.map fun g =>
      if g.lid = lid ∧ dieBeam (coreDie g.core) = b ∧ s.residentGroup g then
        { g with beamLvl := g.beamLvl.set i (g.beamLvl[i]).turn }
      else g }

/-- The plies whose members of a barrier have all exited arrive at the next generation of it (R41, R445). -/
def State.arriveAgain (s : State) (b : Beam) (lid : Nat) (n : BitVec 3) : State :=
  (beamDies b).foldl (fun s d => s.settleBeam lid d (Fin.ofNat 8 n.toNat)) s

/-- Count a token, and complete the generations that it completes (R41). -/
def State.countToken (s : State) (b : Beam) (k : DentKind) : State :=
  match k.tokenOf with
  | none => s
  | some lid =>
    let s := s.modReed b fun r => { r.withBars lid with bars := (r.withBars lid).bars.map fun x => x.token k }
    ((s.beam b).reed.bars.filter fun x => x.lid == lid && x.over).foldl (fun s x =>
      (s.turnBeam b lid x.n).arriveAgain b lid x.n) s

/-- The dents that the log keeps (R44): the last 4,096, and those that a ply which replays still needs, in
its catch-up buffer (R45). -/
def State.trimLog (s : State) (b : Beam) (log : List Dent) : List Dent :=
  let low := (beamDies b).foldl (fun n d =>
    if (s.ply d).wake = .replay then min n (s.ply d).applied else n) ((s.beam b).reed.head - 4096)
  log.filter fun e => decide (low < e.dsn)

/-- A dent is applied to every current mirror and to the stack log, and leaves its sender's queue, all at
once (R32). [DEDUCED, log 42] -/
def State.applyDent (s : State) (b : Beam) (d : Dent) : State :=
  let s := s.answerAtomic d
  let s := (beamDies b).foldl (fun s e =>
    if (s.ply e).listen then s.modPly e fun p => p.applyLogged d else s) s
  let s := s.modPly d.die fun p => { p with queue := p.queue.filter fun q => q.id != d.id || d.id == 0 }
  let s := s.modReed b fun r => { r with head := d.dsn, passed := r.passed.filter fun e => e.dsn != d.dsn }
  let s := s.modReed b fun r => { r with log := s.trimLog b (r.log ++ [d]) }
  (s.countToken b d.kind).startAll

/-- DENT_APPLY (R32): the oldest dent that has passed is applied. -/
def execDentApply (b : Beam) (s : State) : Host.Outcome State Fault Refusal :=
  .next (match (s.beam b).reed.passed with
    | d :: _ => s.applyDent b d
    | [] => s)

/-! ## Regions and slots (R28, R30, R39) -/

/-- REGION_CLEAR (R39): the control dent that clears a partition's region passes, where the next slot of the frame is
its own. -/
def execRegionClear (b : Beam) (p : PartN) (s : State) : Host.Outcome State Fault Refusal :=
  .next (if s.mayClear b p then s.passSlot b else s)

/-- SLOT_ALLOCATION (R28): a launch that waits for its dent slots is given them all at once. -/
def execSlotAllocation (l : Nat) (s : State) : Host.Outcome State Fault Refusal := .next (s.allocSlots l)

/-- SLOT_RETURN (R30): the slots of a launch whose work is done are returned. -/
def execSlotReturn (l : Nat) (s : State) : Host.Outcome State Fault Refusal :=
  .next (match s.launch? l with
    | none => s
    | some m =>
      if s.workDone m then
        let give := fun r : Reed =>
          { r with slots := r.slots.map fun x =>
              if x.owned && x.lid == l then { x with owned := false, ply := 0, ltag := 0, lid := 0 } else x }
        (s.modReed 0 give).modReed 1 give
      else s)

/-! ## Waking (R21, R45, R46) -/

/-- Whether a sleeping ply has been asked to wake, to run or to doze (R21). -/
def Ply.wakes (p : Ply) : Option (BitVec 2) :=
  if p.state = .sleep then (if p.pend = 3 then some 0 else if p.pend = 1 then some 1 else none) else none

/-- The dents that a ply has missed (R45). [DEDUCED, log 57] -/
def State.missed (s : State) (d : Die) : List Dent :=
  (s.beam (dieBeam d)).reed.log.filter fun e => decide ((s.ply d).applied < e.dsn)

/-- LISTENER_LOCK (R45): a waking ply locks onto the reed and reads the head: it replays the log where that
still holds all it missed, soundly (R273), and copies a mirror otherwise. [DEDUCED, log 57] -/
def execListenerLock (d : Die) (s : State) : Host.Outcome State Fault Refusal :=
  .next (match (s.ply d).wakes with
    | none => s
    | some nxt =>
      let gap := (s.beam (dieBeam d)).reed.head - (s.ply d).applied
      let whole := decide (gap ≤ 4096) && (s.missed d).all fun e => !e.bad
      s.modPly d fun p => { p with state := .trans nxt, wake := if whole then .replay else .copying })

/-- A ply's mirror is current: it reaches the state it was asked for (R21, R22). -/
def Ply.awake (p : Ply) : Ply :=
  match p.state with
  | .trans nxt =>
    { p with
      listen := true
      wake := .none
      state := if nxt = 0 then .run else .doze
      pend := if (nxt = 0 ∧ p.pend = 3) ∨ (nxt = 1 ∧ p.pend = 1) then 0 else p.pend }
  | .run | .doze | .sleep => p

/-- LOG_REPLAY (R45): the missed dents have been replayed, and those buffered meanwhile applied; a bad
dent turns the replay into a copy (R273). [DEDUCED, log 57] -/
def execLogReplay (d : Die) (s : State) : Host.Outcome State Fault Refusal :=
  .next (if (s.ply d).wake = .replay then
      let ds := s.missed d
      if ds.any Dent.bad then s.modPly d fun p => { p with wake := .copying }
      else
        let s := ds.foldl (fun s e => s.modPly d fun p => p.applyLogged e) s
        s.modPly d Ply.awake
    else s)

/-- The ply whose mirror is copied (R46): the lowest of the beam in run or doze, and otherwise a sleeping
one that has applied every dent. [DEDUCED, log 57] -/
def State.copySource (s : State) (d : Die) : Option Die :=
  let others := (beamDies (dieBeam d)).filter fun e => e != d
  match others.find? fun e => (s.ply e).state == .run || (s.ply e).state == .doze with
  | some e => some e
  | none => others.find? fun e =>
      ((s.ply e).listen || (s.ply e).state == .sleep) &&
        (s.ply e).applied == (s.beam (dieBeam d)).reed.head

/-- MIRROR_COPY (R45, R46): the mirror of another ply has been copied, with the live dents applied.
[DEDUCED, log 57] -/
def execMirrorCopy (d : Die) (s : State) : Host.Outcome State Fault Refusal :=
  .next (if (s.ply d).wake = .copying then
      match s.copySource d with
      | none => s
      | some e =>
        let from_ := s.ply e
        s.modPly d fun p =>
          { p.awake with mirror := from_.mirror, mirrorBad := from_.mirrorBad, applied := from_.applied }
    else s)

end Sys2Proof.Machine
end

