-- ==== Sys2Proof/Machine/Power.lean ====
section
/-! DEFINITION. Ply states, clocks and heat (R17 to R24): requests, entry to doze and sleep, wakes, clock
steps and the publication of heat indices.  How long each takes is not modelled. -/

namespace Sys2Proof.Machine

/-! ## Requests (R20, R21) -/

/-- What keeps a ply in run (R20): a resident group, a loom or shuttle operation, a held ordered-mode
retirement (those of a saved bolt stand in its images, R261), or an entry in its send queue. A held retirement is an
entry of a holding buffer: a finished bolt that has none keeps no ply in run. [DESIGN CHOICE, log 63] -/
def State.plyBusy (s : State) (d : Die) : Bool :=
  (s.groups.any fun g => coreDie g.core == d && s.residentGroup g) ||
    (s.looms.any fun x => clusterDie x.1 == d && !x.2.reqs.isEmpty) ||
    (s.copies.any fun c => clusterDie c.cluster == d && c.running) ||
    (s.held.any fun e => coreDie e.core == d && !s.boltSaved e.bid) ||
    !(s.ply d).queue.isEmpty

/-- A request replaces any pending request of a ply (R21); one for the state in which the ply rests leaves
nothing pending. -/
def Ply.request (p : Ply) (nxt : BitVec 2) : Ply :=
  let here : Bool :=
    match p.state with
    | .run => nxt == 0
    | .doze => nxt == 1
    | .sleep => nxt == 2
    | .trans _ => false
  { p with pend := if here then 0 else if nxt = 0 then 3 else nxt }

/-- AUTO_DOZE (R21): a running ply that has been idle long enough requests doze. While another request is pending
it makes none, so that it replaces nothing that software asked for. [DESIGN CHOICE, log 63] -/
def execAutoDoze (d : Die) (s : State) : Host.Outcome State Fault Refusal :=
  .next (
    let p := s.ply d
    if p.autoDoze != 0 && p.state == .run && p.pend == 0 &&
        !(s.groups.any fun g => coreDie g.core == d && s.residentGroup g) then
      s.modPly d fun p => p.request 1
    else s)

/-- PLY_STATE_ENTRY (R20): a pending doze or sleep begins once nothing keeps the ply in run, and completes once
what its L1s hold has performed: they have been written back and invalidated, and in sleep its listener is off. -/
def execPlyStateEntry (d : Die) (s : State) : Host.Outcome State Fault Refusal :=
  .next (
    let p := s.ply d
    match p.state with
    | .trans nxt =>
      if p.wake == .none && (nxt == 1 || nxt == 2) && !(s.ops.any fun o => coreDie o.core == d) then
        let s := s.l1Flush fun w => coreDie w.core == d
        let s := { s with l1 := s.l1.filter fun w => coreDie w.core != d }
        s.modPly d fun p =>
          { p with
            state := if nxt = 1 then .doze else .sleep
            listen := nxt == 1
            pend := if p.pend = nxt then 0 else p.pend }
      else s
    | .run =>
      if (p.pend == 1 || p.pend == 2) && !s.plyBusy d then s.modPly d fun p => { p with state := .trans p.pend }
      else s
    | .doze => if p.pend == 2 && !s.plyBusy d then s.modPly d fun p => { p with state := .trans 2 } else s
    | .sleep => s)

/-- DOZE_WAKE (R22): a dozing ply that was asked to run powers up, and then reaches run. -/
def execDozeWake (d : Die) (s : State) : Host.Outcome State Fault Refusal :=
  .next (s.modPly d fun p =>
    match p.state with
    | .doze => if p.pend = 3 then { p with state := .trans 0 } else p
    | .trans nxt => if nxt = 0 ∧ p.wake = .none then p.awake else p
    | .run | .sleep => p)

/-! ## Clocks and heat (R17, R18) -/

/-- CLOCK_STEP_DOWN (R17): a block of a ply at its limit lowers its clock, which changes only time. -/
def execClockStepDown (d : Die) (s : State) : Host.Outcome State Fault Refusal :=
  .next (s.modPly d fun p => { p with slowed := p.slowed + 1, throttle := true })

/-- CLOCK_STEP_UP (R17): a block raises its clock by a step; THROTTLE clears once all are nominal. -/
def execClockStepUp (d : Die) (s : State) : Host.Outcome State Fault Refusal :=
  .next (s.modPly d fun p => { p with slowed := p.slowed - 1, throttle := decide (1 < p.slowed) })

/-- The heat index of a temperature in thousandths of a degree Celsius (R18): twice what it exceeds 25 °C by, rounded
down and clamped to 0 to 255. [DESIGN CHOICE, log 63] -/
def heatIndex (t : Int) : BitVec 8 := BitVec.ofInt 8 (max 0 (min 255 (2 * (t - 25000) / 1000)))

/-- The hottest of a ply's sensors. -/
def hottest (t : Int × List Int) : Int := t.2.foldl max t.1

/-- HEAT_PUBLISH (R18): every ply publishes the heat index of the hottest of its sensors, all at once. -/
def execHeatPublish (t : Vector (Int × List Int) 8) (s : State) : Host.Outcome State Fault Refusal :=
  .next (if s.dev.ready then
      (List.finRange 8).foldl (fun s d => s.modPly d fun p => { p with heat := heatIndex (hottest t[d]) }) s
    else s)

end Sys2Proof.Machine
end

