-- ==== Sys2Proof/Machine/HostRegs.lean ====
section
/-! DEFINITION. The register apertures of the host ports (R73 to R80): which register an access names, who
sees it, what it reads as, how a narrow write is completed, and what a write does. -/

namespace Sys2Proof.Machine

/-! ## The register map (R75) -/

/-- The registers of a context (R95). -/
inductive CtxReg where
  | bind | ring | root | pgq | tail | head | status | errOff
  deriving DecidableEq, Repr

/-- The registers that an aperture shows, and the byte arrays of a host block. -/
inductive Reg where
  | mchk | hostErr | fwPage | attestCtl | nonce | quote | akcert | flashWin
  | bootStatus | bootCtl
  | part (p : PartN) | pmem (p : PartN) | heatb (p : PartN) | vgen (p : PartN) | l2wb (p : PartN)
  | trapv (p : PartN) | tfbase (p : PartN) | preempt (p : PartN) | psave (p : PartN) | gkill (p : PartN)
  | plyStatus (d : Die) | plyCtl (d : Die) | plyReed (d : Die) | schedCtl (d : Die)
  | reedStatus (b : Beam) | reedHead (b : Beam) | reedSlot (b : Beam) (n : Fin 64)
  | reedRegion (b : Beam) (p : PartN)
  | rwin (b : Beam) (n : Fin 32) | reexp (b : Beam) (n : Fin 32) | linkId (b : Beam) | collStatus (b : Beam)
  | rwinTimeout (b : Beam)
  | ctx (b : Beam) (c : CtxN) (r : CtxReg)
  | traceCtl (d : Die) | traceBuf (d : Die) | traceStat (d : Die) | cntCtl (d : Die)
  | counter (d : Die) (k : Fin 9)
  deriving DecidableEq, Repr

/-- The element of an array of registers that an offset lies in: its index and the offset in it. -/
def arrayAt (off base stride n : Nat) : Option (Nat × Nat) :=
  if base ≤ off ∧ off < base + stride * n then some ((off - base) / stride, (off - base) % stride) else none

/-- A register of one of a few offsets. -/
def pick (off : Nat) (rs : List (Nat × Nat × Reg)) : Option (Reg × Nat × Nat) :=
  (rs.find? fun r => decide (r.1 ≤ off) && decide (off < r.1 + r.2.1)).map fun r => (r.2.2, r.2.1, off - r.1)

/-- The register of a host block at an offset: the register, its width in bytes, and the offset in it. -/
def hostReg (off : Nat) : Option (Reg × Nat × Nat) :=
  pick off [(0x0, 4, .mchk), (0x4, 4, .hostErr), (0x10, 4, .fwPage), (0x100, 4, .attestCtl),
    (0x200, 0x20, .nonce), (0x400, 0x1A0, .quote), (0x600, 0x100, .akcert), (0x8000, 0x8000, .flashWin)]

/-- The register of the device block at an offset. -/
def deviceReg (off : Nat) : Option (Reg × Nat × Nat) :=
  let arr := fun (base stride width : Nat) (f : PartN → Reg) =>
    (arrayAt off base stride 8).bind fun x => if x.2 < width then some (f (Fin.ofNat 8 x.1), width, x.2) else none
  (pick off [(0x0, 4, .bootStatus), (0x4, 4, .bootCtl)]).orElse fun _ =>
  (arr 0x100 4 4 .part).orElse fun _ => (arr 0x200 8 8 .pmem).orElse fun _ =>
  (arr 0x300 8 8 .heatb).orElse fun _ => (arr 0x380 4 4 .vgen).orElse fun _ =>
  (arr 0x400 8 8 .l2wb).orElse fun _ => (arr 0x500 16 8 .trapv).orElse fun _ =>
  (if 0x508 ≤ off then arr 0x508 16 8 .tfbase else none).orElse fun _ => (arr 0x580 8 8 .preempt).orElse fun _ =>
  (arr 0x600 8 8 .psave).orElse fun _ => arr 0x680 8 8 .gkill

/-- The register of a ply block at an offset. -/
def plyReg (d : Die) (off : Nat) : Option (Reg × Nat × Nat) :=
  pick off [(0x0, 4, .plyStatus d), (0x4, 4, .plyCtl d), (0x8, 8, .plyReed d), (0x10, 4, .schedCtl d)]

/-- The register of a reed block at an offset. -/
def reedReg (b : Beam) (off : Nat) : Option (Reg × Nat × Nat) :=
  (pick off [(0x0, 4, .reedStatus b), (0x8, 8, .reedHead b)]).orElse fun _ =>
  ((arrayAt off 0x100 4 64).map fun x => (.reedSlot b (Fin.ofNat 64 x.1), 4, x.2)).orElse fun _ =>
  (arrayAt off 0x200 4 8).map fun x => (.reedRegion b (Fin.ofNat 8 x.1), 4, x.2)

/-- The register of a link block at an offset. -/
def linkReg (b : Beam) (off : Nat) : Option (Reg × Nat × Nat) :=
  (pick off [(0x300, 4, .linkId b), (0x308, 4, .collStatus b), (0x310, 4, .rwinTimeout b)]).orElse fun _ =>
  ((arrayAt off 0x0 8 32).map fun x => (.rwin b (Fin.ofNat 32 x.1), 8, x.2)).orElse fun _ =>
  (arrayAt off 0x100 8 32).map fun x => (.reexp b (Fin.ofNat 32 x.1), 8, x.2)

/-- The register of a command processor block at an offset (R95). -/
def cpReg (b : Beam) (off : Nat) : Option (Reg × Nat × Nat) :=
  (arrayAt off 0x1000 0x100 16).bind fun x =>
    let c : CtxN := Fin.ofNat 16 x.1
    pick x.2 [(0x00, 4, .ctx b c .bind), (0x08, 8, .ctx b c .ring), (0x10, 8, .ctx b c .root),
      (0x18, 8, .ctx b c .pgq), (0x20, 4, .ctx b c .tail), (0x24, 4, .ctx b c .head),
      (0x28, 4, .ctx b c .status), (0x2C, 4, .ctx b c .errOff)]

/-- The register of a trace and counter block at an offset (R301, R304). -/
def traceReg (d : Die) (off : Nat) : Option (Reg × Nat × Nat) :=
  (pick off [(0x0, 4, .traceCtl d), (0x8, 8, .traceBuf d), (0x10, 4, .traceStat d), (0x18, 4, .cntCtl d)]).orElse
    fun _ => (arrayAt off 0x1000 8 9).map fun x => (.counter d (Fin.ofNat 9 x.1), 8, x.2)

/-- The register at an offset of an aperture (R75). -/
def regAt (off : Nat) : Option (Reg × Nat × Nat) :=
  if off < 0x10000 then hostReg off
  else if off < 0x20000 then deviceReg (off - 0x10000)
  else if 0x100000 ≤ off ∧ off < 0x180000 then
    plyReg (Fin.ofNat 8 ((off - 0x100000) / 0x10000)) (off % 0x10000)
  else if 0x200000 ≤ off ∧ off < 0x220000 then
    reedReg (Fin.ofNat 2 ((off - 0x200000) / 0x10000)) (off % 0x10000)
  else if 0x300000 ≤ off ∧ off < 0x320000 then
    linkReg (Fin.ofNat 2 ((off - 0x300000) / 0x10000)) (off % 0x10000)
  else if 0x400000 ≤ off ∧ off < 0x420000 then
    cpReg (Fin.ofNat 2 ((off - 0x400000) / 0x10000)) (off % 0x10000)
  else if 0x1000000 ≤ off ∧ off < 0x1800000 then
    traceReg (Fin.ofNat 8 ((off - 0x1000000) / 0x100000)) (off % 0x100000)
  else none

/-- The register that an access of 1, 2, 4 or 8 bytes lies in, with its width and the offset in it; none
where it spans two (R75), and none where a part of it lies in a gap. [DESIGN CHOICE, log 63] -/
def accessAt (off size : Nat) : Option (Reg × Nat × Nat) :=
  if size = 1 ∨ size = 2 ∨ size = 4 ∨ size = 8 then
    (regAt off).bind fun r => if r.2.2 + size ≤ r.2.1 then some r else none
  else none

/-! ## Visibility (R74, R76, R86, R95) -/

/-- Whether a die belongs to an enabled partition. -/
def State.owned (s : State) (d : Die) : Bool := (List.finRange 8).any fun p => s.dieIn p d

/-- Whether a die belongs to an enabled partition bound to a port. -/
def State.bound (s : State) (q : Port) (d : Die) : Bool :=
  (List.finRange 8).any fun p => s.dieIn p d && (s.part p).port.toNat == q.val

/-- Whether the context registers but CTX_BIND are visible through a port (R95). -/
def State.ctxBound (s : State) (q : Port) (b : Beam) (c : CtxN) : Bool :=
  let k := s.ctx b c
  k.en && (s.part (Fin.ofNat 8 k.part.toNat)).port.toNat == q.val

/-- Whether a register is visible through a port (R76, R95), and after a start began only the host and
device blocks until READY (R86). -/
def State.visible (s : State) (q : Port) (r : Reg) : Bool :=
  match r with
  | .mchk | .hostErr | .attestCtl | .nonce | .quote | .akcert => true
  | .fwPage | .flashWin => q == 0
  | .bootStatus | .bootCtl | .part _ | .pmem _ | .heatb _ | .vgen _ | .l2wb _ | .trapv _ | .tfbase _
  | .preempt _ | .psave _ | .gkill _ => true
  | .plyStatus d | .plyCtl d | .plyReed d | .schedCtl d =>
    s.dev.ready && (s.bound q d || (q == 0 && !s.owned d))
  | .traceCtl d | .traceBuf d | .traceStat d | .cntCtl d | .counter d _ => s.dev.ready && s.bound q d
  | .reedStatus _ | .reedHead _ | .reedSlot _ _ | .reedRegion _ _ | .rwin _ _ | .reexp _ _ | .linkId _
  | .collStatus _ | .rwinTimeout _ => s.dev.ready
  | .ctx _ _ .bind => s.dev.ready && q == 0
  | .ctx b c _ => s.dev.ready && s.ctxBound q b c

/-- Whether an access through a port and aperture is privileged for a register (R74, R76): a shared block
only through port 0's BAR0. -/
def privileged (q : Port) (bar : BarSel) (r : Reg) : Bool :=
  bar == .bar0 &&
    match r with
    | .bootStatus | .bootCtl | .part _ | .pmem _ | .heatb _ | .vgen _ | .l2wb _ | .trapv _ | .tfbase _
    | .preempt _ | .psave _ | .gkill _ | .reedStatus _ | .reedHead _ | .reedSlot _ _ | .reedRegion _ _
    | .rwin _ _ | .reexp _ _ | .linkId _ | .collStatus _ | .rwinTimeout _ | .ctx _ _ .bind => q == 0
    | .mchk | .hostErr | .fwPage | .attestCtl | .nonce | .quote | .akcert | .flashWin
    | .plyStatus _ | .plyCtl _ | .plyReed _ | .schedCtl _ | .traceCtl _ | .traceBuf _ | .traceStat _
    | .cntCtl _ | .counter _ _ | .ctx _ _ _ => true

/-- Whether a write to a register needs privilege: of the writable fields only those of CTX_TAIL,
CTX_HEAD and CTX_STATUS do not (R95). -/
def needsPrivilege : Reg → Bool
  | .ctx _ _ .tail | .ctx _ _ .head | .ctx _ _ .status => false
  | _ => true

/-! ## What registers read as -/

/-- Whether a partition is busy (PARTp.BUSY, R79). -/
def State.partBusy (s : State) (p : PartN) : Bool :=
  (s.groups.any fun g => s.dieIn p (coreDie g.core) && s.residentGroup g) ||
    (s.launches.any fun l => l.part == p) ||
    [(0 : Beam), 1].any fun b => (s.pool b p).any fun i => ((s.beam b).reed.slots[i]).owned

/-- PARTp (R79). -/
def State.partWord (s : State) (p : PartN) : Nat :=
  let r := s.part p
  lay [(31, r.en.toNat), (11, (s.partBusy p).toNat), (8, r.size.toNat), (0, r.port.toNat)]

/-- PMEMp (R80). -/
def PartRegs.pmemWord (r : PartRegs) : Nat := lay [(32, r.pmSize.toNat), (0, r.pmBase.toNat)]

/-- A window or export register (R70, R71). -/
def LinkWin.word (w : LinkWin) : Nat :=
  lay [(63, w.en.toNat), (48, w.peer.toNat), (32, w.ports.toNat), (22, w.size.toNat), (0, w.base.toNat)]

/-- An export register (R71): its size stands at bit 32. -/
def LinkWin.exportWord (w : LinkWin) : Nat :=
  lay [(63, w.en.toNat), (48, w.peer.toNat), (32, w.size.toNat), (0, w.base.toNat)]

/-- The register fields of a ring or queue (R97). -/
def ringWordOf (base : BitVec 45) (size : BitVec 4) (vec : BitVec 6) : Nat :=
  lay [(12, base.toNat), (8, size.toNat), (0, vec.toNat)]

/-- CTX_STATUS.STATE as it reads (R98). -/
def StreamState.code : StreamState → Nat
  | .idle => 0
  | .running => 1
  | .waiting => 2
  | .halted => 3

/-- PLY_STATUS.STATE as it reads (R23). -/
def PlyState.code : PlyState → Nat
  | .run => 0
  | .doze => 1
  | .sleep => 2
  | .trans _ => 3

/-- A register of a context as it reads (R95 to R98). -/
def State.ctxWord (s : State) (b : Beam) (c : CtxN) (r : CtxReg) : Nat :=
  let k := s.ctx b c
  match r with
  | .bind => lay [(31, k.en.toNat), (0, k.part.toNat)]
  | .ring => ringWordOf k.ringBase k.ringSize k.vec
  | .root => lay [(52, k.asid.toNat), (12, k.root.toNat)]
  | .pgq => ringWordOf k.pgqBase k.pgqSize 0
  | .tail => k.tail.toNat
  | .head => k.head.toNat
  | .status =>
    let doms := (List.finRange 16).foldl (fun n v =>
      if s.domOpen (Fin.ofNat 8 k.part.toNat) (BitVec.ofNat 4 v.val) then n + 2 ^ v.val else n) 0
    lay [(30, (s.streamState b c).code), (29, k.pgqf.toNat), (16, if k.halted then k.err.toNat else 0),
      (0, doms)]
  | .errOff => k.errOff.toNat

/-- AKCERT (R92): the attestation key and the image digest, signed with the device identity key. -/
def akCert (digest : BitVec 512) : List Byte :=
  let body := leBytes 57 (Config.akPub digest).toNat ++ List.replicate 7 0 ++ leBytes 64 digest.toNat
  body ++ leBytes 114 (Config.certSig body).toNat ++ List.replicate 14 0

/-- A counter of a die (R304). -/
def State.counter (s : State) (d : Die) (k : Fin 9) : Word64 :=
  let t := s.slices.traffic[d]
  match k.val with
  | 0 => t.near
  | 1 => t.far
  | 6 => t.walks
  | 8 => t.hbm
  | _ => (s.ply d).perf.vals[k]

/-- The collectives of an engine, those of an eight-ply partition on both (R72, R93). -/
def State.engineColls (s : State) (b : Beam) : List Coll :=
  (s.beam b).links.colls ++
    if b = 1 then (s.beam 0).links.colls.filter fun k => (s.part k.part).size == 3 else []

/-- What a register reads as, whole and with privilege. -/
def State.regWord (s : State) (q : Port) (r : Reg) : Nat :=
  match r with
  | .mchk => (s.port q).mchk.toNat
  | .hostErr => (s.port q).hostErr.toNat
  | .fwPage => (s.port q).fwPage.toNat
  | .attestCtl =>
    let a := s.port q
    lay [(31, a.attBusy.toNat), (8, a.attDone.toNat), (0, a.attReq.toNat)]
  | .nonce => (s.port q).nonce.toNat
  | .quote => leVal (s.port q).quote
  | .akcert => leVal (akCert s.dev.fwDigest)
  | .flashWin => leVal (cellBytes s.flash ((s.port q).fwPage.toNat % 1024 * 2 ^ 15) 0x8000)
  | .bootStatus =>
    let d := s.dev
    lay [(31, d.ready.toNat), (30, d.authFail.toNat), (29, d.calReused.toNat), (28, d.vtestRan.toNat),
      (26, d.kind.toNat), (8, d.svn.toNat), (0, d.plyFail.toNat)]
  | .bootCtl => lay [(2, s.dev.forceCal.toNat), (0, s.dev.start.toNat)]
  | .part p => s.partWord p
  | .pmem p => (s.part p).pmemWord
  | .heatb p => lay [(63, (s.part p).heatEn.toNat), (16, (s.part p).heatBase.toNat)]
  | .vgen p => (s.part p).vgen.toNat
  | .l2wb p =>
    let r := s.part p
    lay [(63, r.l2Busy.toNat), (36, r.l2Size.toNat), (0, r.l2Base.toNat)]
  | .trapv p => lay [(63, (s.part p).trapEn.toNat), (8, (s.part p).trapVa.toNat)]
  | .tfbase p => lay [(16, (s.part p).tfBase.toNat)]
  | .preempt p =>
    let r := s.part p
    lay [(63, r.preBusy.toNat), (60, r.preScope.toNat), (58, r.preOp.toNat), (32, r.preCore.toNat),
      (24, r.preSlot.toNat), (20, r.preCtx.toNat), (0, r.preDone.toNat)]
  | .psave p => lay [(52, (s.part p).saveCount.toNat), (22, (s.part p).saveBase.toNat)]
  | .gkill p =>
    let r := s.part p
    lay [(48, r.killCount.toNat), (40, r.killCause.toNat), (36, r.killCtx.toNat), (5, r.killCore.toNat),
      (0, r.killSlot.toNat)]
  | .plyStatus d =>
    let p := s.ply d
    lay [(12, p.throttle.toNat), (10, p.pend.toNat), (8, p.state.code), (0, p.heat.toNat)]
  | .plyCtl d => lay [(8, (s.ply d).autoDoze.toNat), (0, (s.ply d).req.toNat)]
  | .plyReed d => (s.ply d).applied % 2 ^ 64
  | .schedCtl d => lay [(8, (s.ply d).starve.toNat), (0, (s.ply d).swapThr.toNat)]
  | .reedStatus b =>
    let r := (s.beam b).reed
    lay [(16, r.calOk.toNat), (0, (r.slots.toList.filter fun x => !x.owned).length)]
  | .reedHead b => (s.beam b).reed.head % 2 ^ 64
  | .reedSlot b n =>
    let x : ReedSlot := (s.beam b).reed.slots[n]
    lay [(15, x.assigned.toNat), (12, x.part.toNat), (11, x.owned.toNat), (9, x.ply.toNat), (0, x.ltag.toNat)]
  | .reedRegion b p =>
    let x : ReedRegion := (s.beam b).reed.regions[p]
    lay [(16, x.size.toNat), (0, x.base.toNat)]
  | .rwin b n => LinkWin.word (s.beam b).links.rwin[n]
  | .reexp b n => LinkWin.exportWord (s.beam b).links.reexp[n]
  | .linkId b => (s.beam b).links.linkId.toNat
  | .collStatus b =>
    let l := (s.beam b).links
    lay [(16, l.late.toNat), (0, ((s.engineColls b).filter Coll.started).length % 256)]
  | .rwinTimeout b => (s.beam b).links.timeout.toNat
  | .ctx b c r => s.ctxWord b c r
  | .traceCtl d =>
    let t := (s.ply d).trace
    lay [(31, t.en.toNat), (30, t.stop.toNat), (2, t.swaps.toNat), (1, t.waits.toNat), (0, t.issues.toNat)]
  | .traceBuf d => lay [(56, (s.ply d).trace.seg.toNat), (16, (s.ply d).trace.base.toNat)]
  | .traceStat d => (s.ply d).trace.lost.toNat
  | .cntCtl d => lay [(1, (s.ply d).perf.freeze.toNat)]
  | .counter d k => (s.counter d k).toNat

/-- The bits of a register that an access without privilege reads: all of an unprivileged register, and of
PLY_STATUS all but PEND (R23, R47, R48, R51, R72, R74, R88, R95, R217, R306). AKCERT is privileged as the other
attestation registers are, and shows the certificate of the last image that ran until the next one runs.
[DESIGN CHOICE, log 63] -/
def Reg.openBits : Reg → Nat
  | .plyStatus _ => 0x13FF
  | .bootStatus | .vgen _ | .plyReed _ | .reedStatus _ | .reedHead _ | .collStatus _ | .traceStat _
  | .counter _ _ | .ctx _ _ .bind | .ctx _ _ .tail | .ctx _ _ .head | .ctx _ _ .status | .ctx _ _ .errOff => 2 ^ 64 - 1
  | .mchk | .hostErr | .fwPage | .attestCtl | .nonce | .quote | .akcert | .flashWin | .bootCtl | .part _ | .pmem _
  | .heatb _ | .l2wb _ | .trapv _ | .tfbase _ | .preempt _ | .psave _ | .gkill _ | .plyCtl _ | .schedCtl _
  | .reedSlot _ _ | .reedRegion _ _ | .rwin _ _ | .reexp _ _ | .linkId _ | .rwinTimeout _
  | .ctx _ _ .ring | .ctx _ _ .root | .ctx _ _ .pgq | .traceCtl _ | .traceBuf _ | .cntCtl _ => 0

/-- What a host reads from an aperture (R74 to R76): the bytes as they stand, zero in privileged fields
without privilege, and zero where no register lies, where it is not visible and where two are spanned. -/
def State.hostRead (s : State) (h : HostRead) : Word64 :=
  match accessAt h.off h.size with
  | none => 0
  | some (r, _, at_) =>
    if s.dev.power && s.visible h.port r then
      let v := s.regWord h.port r
      let v := if privileged h.port h.bar r then v else v &&& r.openBits
      BitVec.ofNat 64 (v / 256 ^ at_ % 256 ^ h.size)
    else 0

/-- What a write takes for the bytes that it does not name (R75): what the register reads as, but zero for
fields that are cleared by writing 1 and for those whose write starts an action. -/
def State.keptWord (s : State) (q : Port) (r : Reg) : Nat :=
  match r with
  | .mchk => 0
  | .ctx _ _ .status => 0
  | .l2wb p => (s.part p).l2Base.toNat
  | _ => s.regWord q r

/-! ## A host write (R75) -/

/-- A write that reaches a register: the register, the whole value that it acts with, and the bytes of the
register that it names. -/
structure RegWrite where
  port  : Port
  reg   : Reg
  value : Nat
  first : Nat
  size  : Nat
  deriving DecidableEq, Repr

/-- Replace `n` bytes of a word from a byte. -/
def putBytes (w at_ n v : Nat) : Nat :=
  w % 256 ^ at_ + v % 256 ^ n * 256 ^ at_ + w / 256 ^ (at_ + n) * 256 ^ (at_ + n)

/-- The write of a host as a write of a whole register (R75, R76); none where it is ignored.
[DEDUCED, log 44] -/
def State.regWrite (s : State) (h : HostWrite) : Option RegWrite :=
  match accessAt h.off h.size with
  | none => none
  | some (r, _, at_) =>
    if s.dev.power && s.visible h.port r && (privileged h.port h.bar r || !needsPrivilege r) then
      some ⟨h.port, r, putBytes (s.keptWord h.port r) at_ h.size h.data.toNat, at_, h.size⟩
    else none

/-- A field of the value that a write acts with. -/
def RegWrite.fld (w : RegWrite) (hi lo : Nat) : Nat := w.value / 2 ^ lo % 2 ^ (hi - lo + 1)

/-- A bit of that value. -/
def RegWrite.bit (w : RegWrite) (i : Nat) : Bool := w.value.testBit i

/-- Whether a write names a byte of its register. [DEDUCED, log 44] -/
def RegWrite.names (w : RegWrite) (byte : Nat) : Bool := decide (w.first ≤ byte) && decide (byte < w.first + w.size)

/-! ## Writes that only set fields (R75) -/

/-- A size of a ring or queue as it is stored (R97). -/
def ringSizeOf (n : Nat) : BitVec 4 := BitVec.ofNat 4 (min n 8)

/-- A write to a register of a context that sets its fields (R97, R98). -/
def State.setCtxReg (s : State) (b : Beam) (c : CtxN) (r : CtxReg) (w : RegWrite) : State :=
  let still : Bool :=
    match s.streamState b c with
    | .idle | .halted => true
    | .running | .waiting => false
  match r with
  | .ring =>
    if still then s.modCtx b c fun k =>
      { k with
        ringBase := BitVec.ofNat 45 (w.fld 56 12), ringSize := ringSizeOf (w.fld 11 8)
        vec := BitVec.ofNat 6 (w.fld 5 0) }
    else s
  | .root =>
    if still then s.modCtx b c fun k =>
      { k with asid := BitVec.ofNat 12 (w.fld 63 52), root := BitVec.ofNat 40 (w.fld 51 12) }
    else s
  | .pgq => s.modCtx b c fun k =>
      { k with pgqBase := BitVec.ofNat 45 (w.fld 56 12), pgqSize := ringSizeOf (w.fld 11 8) }
  | .status => if w.bit 29 then s.modCtx b c fun k => { k with pgqf := false } else s
  | .bind | .tail | .head | .errOff => s

/-- A window register from a value (R70). -/
def LinkWin.ofWrite (w : RegWrite) : LinkWin :=
  ⟨w.bit 63, BitVec.ofNat 10 (w.fld 57 48), BitVec.ofNat 16 (w.fld 47 32), BitVec.ofNat 11 (w.fld 31 22),
    BitVec.ofNat 22 (w.fld 21 0)⟩

/-- An export register from a value (R71). -/
def LinkWin.ofExport (w : RegWrite) : LinkWin :=
  ⟨w.bit 63, BitVec.ofNat 10 (w.fld 57 48), 0, BitVec.ofNat 11 (w.fld 42 32), BitVec.ofNat 22 (w.fld 21 0)⟩

/-- A write to the registers of a partition that are not writable while it is busy (R80, R258, R270). -/
def State.setIdlePart (s : State) (p : PartN) (f : PartRegs → PartRegs) : State :=
  if s.partBusy p then s else s.modPart p f

/-- What a write does to the fields of a register whose write starts nothing (R75): what it may not write
is left as it is. A PMEM SIZE above 1,024 is stored and used as written. [DESIGN CHOICE, log 63] -/
def State.setReg (s : State) (w : RegWrite) : State :=
  match w.reg with
  | .mchk => s.modPort w.port fun a => { a with mchk := a.mchk &&& ~~~(BitVec.ofNat 5 w.value) }
  | .fwPage => s.modPort w.port fun a => { a with fwPage := BitVec.ofNat 11 w.value }
  | .nonce => s.modPort w.port fun a => { a with nonce := BitVec.ofNat 256 w.value }
  | .bootCtl => { s with dev := { s.dev with forceCal := w.bit 2, start := BitVec.ofNat 2 w.value } }
  | .pmem p => s.setIdlePart p fun r =>
      { r with pmBase := BitVec.ofNat 10 (w.fld 9 0), pmSize := BitVec.ofNat 11 (w.fld 42 32) }
  | .heatb p => s.modPart p fun r => { r with heatEn := w.bit 63, heatBase := BitVec.ofNat 36 (w.fld 51 16) }
  | .trapv p => s.setIdlePart p fun r =>
      { r with trapEn := w.bit 63, trapVa := BitVec.ofNat 49 (w.fld 56 8) }
  | .tfbase p => s.setIdlePart p fun r => { r with tfBase := BitVec.ofNat 41 (w.fld 56 16) }
  | .psave p => s.setIdlePart p fun r =>
      { r with saveCount := BitVec.ofNat 12 (w.fld 63 52), saveBase := BitVec.ofNat 30 (w.fld 51 22) }
  | .plyCtl d => s.modPly d fun p => { p with autoDoze := BitVec.ofNat 8 (w.fld 15 8) }
  | .schedCtl d => s.modPly d fun p =>
      { p with starve := BitVec.ofNat 8 (w.fld 15 8), swapThr := BitVec.ofNat 8 (w.fld 7 0) }
  | .reedSlot b n => s.modReed b fun r =>
      if (r.slots[n]).owned then r
      else
        { r with
          slots := r.slots.set n
            { r.slots[n] with assigned := w.bit 15, part := BitVec.ofNat 3 (w.fld 14 12) } }
  | .reedRegion b p =>
    if 1024 < w.fld 9 0 + w.fld 26 16 then s
    else s.modReed b fun r =>
      { r with
        regions := r.regions.set p
          { r.regions[p] with size := BitVec.ofNat 11 (w.fld 26 16), base := BitVec.ofNat 10 (w.fld 9 0) } }
  | .rwin b n => s.modLinks b fun l => { l with rwin := l.rwin.set n (LinkWin.ofWrite w) }
  | .reexp b n => s.modLinks b fun l => { l with reexp := l.reexp.set n (LinkWin.ofExport w) }
  | .linkId b => s.modLinks b fun l => { l with linkId := BitVec.ofNat 10 w.value }
  | .rwinTimeout b => s.modLinks b fun l => { l with timeout := BitVec.ofNat 32 w.value }
  | .ctx b c r => s.setCtxReg b c r w
  | .traceCtl d => s.modPly d fun p =>
      { p with trace := { p.trace with
          stop := w.bit 30, swaps := w.bit 2, waits := w.bit 1, issues := w.bit 0 } }
  | .traceBuf d => s.modPly d fun p =>
      if p.trace.en then p
      else { p with trace := { p.trace with
              seg := BitVec.ofNat 8 (w.fld 63 56), base := BitVec.ofNat 36 (w.fld 51 16) } }
  | .cntCtl d => s.modPly d fun p => { p with perf := { p.perf with freeze := w.bit 1 } }
  | .hostErr | .attestCtl | .quote | .akcert | .flashWin | .bootStatus | .part _ | .vgen _ | .l2wb _
  | .preempt _ | .gkill _ | .plyStatus _ | .plyReed _ | .reedStatus _ | .reedHead _ | .collStatus _
  | .traceStat _ | .counter _ _ => s

/-! ## Which event a write is -/

/-- What a write to a register starts, if anything. -/
inductive WriteKind where
  | plain | part | tail | head | bindOn | bindOff | plyRun | plyDoze | plySleep | cold | warm | flash | attest
  | l2wb | save | kill | release | traceOn | traceOff | clear
  deriving DecidableEq, Repr

/-- What a write starts (R24, R75, R79, R85, R90, R91, R96, R98, R215, R269, R301, R304): an action needs
the byte that asks for it. [DEDUCED, log 44] -/
def State.writeKind (s : State) (w : RegWrite) : WriteKind :=
  match w.reg with
  | .part _ => .part
  | .ctx _ _ .tail => .tail
  | .ctx _ _ .head => .head
  | .ctx _ _ .bind => if w.bit 31 then .bindOn else .bindOff
  | .plyCtl _ =>
    if w.names 0 then
      (match w.fld 1 0 with
        | 0 => .plyRun
        | 1 => .plyDoze
        | 2 => .plySleep
        | _ => .plain)
    else .plain
  | .bootCtl =>
    if w.names 0 then
      (match w.fld 1 0 with
        | 1 => .cold
        | 2 => .warm
        | _ => .plain)
    else .plain
  | .flashWin => .flash
  | .attestCtl =>
    if (s.port w.port).attReq.toNat = w.fld 7 0 then .plain else .attest
  | .l2wb _ => if w.fld 59 36 != 0 then .l2wb else .plain
  | .preempt _ =>
    if w.names 7 && w.bit 62 && w.fld 61 60 != 3 then
      (match w.fld 59 58 with
        | 0 => .save
        | 1 => .kill
        | 2 => .release
        | _ => .plain)
    else .plain
  | .traceCtl _ =>
    if w.names 3 then (if w.bit 31 then .traceOn else .traceOff) else .plain
  | .cntCtl _ => if w.names 0 && w.bit 0 then .clear else .plain
  | _ => .plain

/-- Run an effect for a host write of one kind that reaches a register; any other write is not this
event. -/
def State.onWrite (s : State) (h : HostWrite) (k : WriteKind) (f : RegWrite → State → State) : State :=
  match s.regWrite h with
  | some w => if s.writeKind w = k then f w s else s
  | none => s

/-! ## Writing records to the trace buffer (R81, R300, R301) -/

/-- Whether the trace buffer of a die lies in the memory of the die's partition (R301). -/
def State.traceRoom (s : State) (d : Die) (t : Trace) : Bool :=
  (List.finRange 8).any fun p =>
    s.dieIn p d && s.inPmem p (t.base.toNat * 2 ^ 16) (192 * (t.seg.toNat + 1) * 2 ^ 16)

/-- Write bytes in the trace buffer of a die; nothing leaves the memory of the die's partition (R81).
[DESIGN CHOICE, log 63] -/
def State.putTrace (s : State) (d : Die) (pa : Nat) (bs : List Byte) : State :=
  if s.traceRoom d (s.ply d).trace then s.putHome (.phys pa) bs else s

/-- Change the trace block of a die. -/
def State.modTrace (s : State) (d : Die) (f : Trace → Trace) : State :=
  s.modPly d fun p => { p with trace := f p.trace }

/-- Whether a core can write one more record: always in wrap mode, with room before RPTR in stop mode (R300). -/
def State.recordRoom (s : State) (core : Nat) : Bool :=
  let t := (s.ply (coreDie core)).trace
  let (base, n) := t.segment core
  !t.stop ||
    decide (((t.coreOf core).wptr + 2 ^ 64 - cellWord s.mem (base + 8) 8) % 2 ^ 64 + 32 ≤ n - 64)

/-- Write one record into the segment of its core, or lose it without room (R300). -/
def State.writeRecord (s : State) (core : Nat) (r : List Byte) : State :=
  let d := coreDie core
  let t := (s.ply d).trace
  let (base, n) := t.segment core
  if s.recordRoom core && s.traceRoom d t then
    (s.putTrace d (base + 64 + (t.coreOf core).wptr % (n - 64)) r).modTrace d fun t =>
      t.modCore core fun c => { c with wptr := (c.wptr + 32) % 2 ^ 64 }
  else s.modTrace d fun t => t.lose core

/-- Write WPTR and LOST of a core's segment. -/
def State.writeHeader (s : State) (core : Nat) : State :=
  let d := coreDie core
  let t := (s.ply d).trace
  let c := t.coreOf core
  let base := (t.segment core).1
  (s.putTrace d base (leBytes 8 c.wptr)).putTrace d (base + 0x10) (leBytes 4 c.lost)

/-- A core writes its queued records, a LOSS record first where records have been lost, and then
WPTR and LOST of its segment as a release store (R300). [DEDUCED, log 51] -/
def State.publish (s : State) (core : Nat) : State :=
  let d := coreDie core
  let (time, s) := s.clockOf core
  let c := (s.ply d).trace.coreOf core
  let s :=
    if c.since = 0 ∨ !(s.recordRoom core && s.traceRoom d (s.ply d).trace) then s
    else
      (s.writeRecord core (lossRecord time.toNat c.since)).modTrace d fun t =>
        t.modCore core fun c => { c with since := 0 }
  let s := c.queue.foldl (fun s r => s.writeRecord core r) s
  (s.modTrace d fun t => t.modCore core fun c => { c with queue := [] }).writeHeader core

/-- The cores of a die that have records to write (R300). -/
def Trace.pending (t : Trace) : List Nat :=
  (t.cores.filter fun c => !c.queue.isEmpty || c.since != 0).map TraceCore.core

/-- Every core of some dies writes the records that it holds. -/
def State.publishAll (s : State) (ds : List Die) : State :=
  ds.foldl (fun s d => (s.ply d).trace.pending.foldl State.publish s) s

/-! ## The events -/

/-- REGISTER_WRITE (R75): a write that sets fields and starts nothing. -/
def execRegisterWrite (h : HostWrite) (s : State) : Host.Outcome State Fault Refusal :=
  .next (s.onWrite h .plain fun w s => s.setReg w)

/-- Whether a write to PARTp is ignored in full (R79). -/
def State.partIgnored (s : State) (p : PartN) (w : RegWrite) : Bool :=
  let n := 2 ^ w.fld 9 8
  let covers := fun d : Die => decide (p.val ≤ d.val) && decide (d.val < p.val + n)
  let meets := fun r : PartN => (List.finRange 8).any fun d => covers d && s.dieIn r d
  s.partBusy p || ((List.finRange 8).any fun r => (s.part r).en && meets r && s.partBusy r) ||
    p.val % n != 0 ||
    (w.bit 31 && ((List.finRange 8).any (fun r => r != p && meets r) ||
      (List.finRange 8).any fun d => covers d && s.dev.plyFail.getLsbD d.val))

/-- What the dies and the TLBs of a partition hold for its buffers goes there before a write to PARTp: the records and
hits of one partition reach no other's (R81). [DESIGN CHOICE, log 63] -/
def State.flushPart (s : State) (p : PartN) : State :=
  ((s.partDies p).foldl (fun s d => s.modTrace d fun t => { t with lost := 0, cores := [] })
    (s.publishAll (s.partDies p))).tlbDrop fun e => e.part == p

/-- PARTITION_WRITE (R79): a write to PARTp creates, resizes or removes a partition; a new one has its reed
regions cleared before its first launch (R39). One that was not enabled is new, and so is one whose size
changes. [DESIGN CHOICE, log 40] -/
def execPartitionWrite (h : HostWrite) (s : State) : Host.Outcome State Fault Refusal :=
  .next (s.onWrite h .part fun w s =>
    match w.reg with
    | .part p =>
      if s.partIgnored p w then s
      else
        let s := s.flushPart p
        let fresh := !(s.part p).en || (s.part p).size.toNat != w.fld 9 8
        let s := s.modPart p fun r =>
          { r with en := w.bit 31, size := BitVec.ofNat 2 (w.fld 9 8), port := BitVec.ofNat 1 (w.fld 0 0) }
        if fresh then
          let f := fun r : Reed => { r with regions := r.regions.set p { r.regions[p] with cleared := false } }
          (s.modReed 0 f).modReed 1 f
        else s
    | _ => s)

/-- Whether an offset may be written to CTX_TAIL or CTX_HEAD (R98). -/
def Context.offOk (k : Context) (o : Nat) : Bool := o % 8 == 0 && decide (o < k.ringBytes)

/-- CTX_TAIL_WRITE (R98): the stream holds the commands up to the new TAIL. -/
def execCtxTailWrite (h : HostWrite) (s : State) : Host.Outcome State Fault Refusal :=
  .next (s.onWrite h .tail fun w s =>
    match w.reg with
    | .ctx b c _ =>
      if (s.ctx b c).offOk (w.fld 19 0) then s.modCtx b c fun k => { k with tail := BitVec.ofNat 20 (w.fld 19 0) }
      else s
    | _ => s)

/-- CTX_HEAD_WRITE (R98, R101): a halted stream goes on at an offset, its nesting empty. -/
def execCtxHeadWrite (h : HostWrite) (s : State) : Host.Outcome State Fault Refusal :=
  .next (s.onWrite h .head fun w s =>
    match w.reg with
    | .ctx b c _ =>
      if (s.ctx b c).halted && (s.ctx b c).offOk (w.fld 19 0) then
        s.modCtx b c fun k =>
          { k with
            head := BitVec.ofNat 20 (w.fld 19 0), halted := false, err := 0, nest := [], skip := none
            faulted := false }
      else s
    | _ => s)

/-- CTX_BIND_ENABLE (R96): a context is bound to a partition of its block's beam. -/
def execCtxBindEnable (h : HostWrite) (s : State) : Host.Outcome State Fault Refusal :=
  .next (s.onWrite h .bindOn fun w s =>
    match w.reg with
    | .ctx b c _ =>
      let p : PartN := Fin.ofNat 8 (w.fld 2 0)
      if (s.part p).en && dieBeam p == b then
        s.modCtx b c fun k => { k with en := true, part := BitVec.ofNat 3 p.val }
      else s
    | _ => s)

/-- The ring offset of the command at which a stream stands (R96): a WAITV that polls, or HEAD. -/
def Context.current (k : Context) : BitVec 20 :=
  (k.cmds.find? fun x =>
    match x.wait with
    | .waitv _ _ _ _ => true
    | .launch _ | .coll _ | .sweep _ | .domain _ _ _ _ _ => false).elim k.head Cmd.off

/-- CTX_BIND_DISABLE (R96, R109): the stream halts with error 0x0F, and a WAITV ends. [DEDUCED, log 38] -/
def execCtxBindDisable (h : HostWrite) (s : State) : Host.Outcome State Fault Refusal :=
  .next (s.onWrite h .bindOff fun w s =>
    match w.reg with
    | .ctx b c _ =>
      let k := s.ctx b c
      let s := if k.en then s.haltStream b c 0x0F k.current else s
      s.modCtx b c fun k =>
        { k with
          en := false
          part := BitVec.ofNat 3 (w.fld 2 0)
          cmds := k.cmds.filter fun x =>
            match x.wait with
            | .waitv _ _ _ _ => false
            | .launch _ | .coll _ | .sweep _ | .domain _ _ _ _ _ => true }
    | _ => s)

/-- A write to PLY_CTL that requests a state: REQ is kept, and the request replaces any that is pending
(R21, R24). -/
def State.plyRequest (s : State) (w : RegWrite) (nxt : BitVec 2) : State :=
  match w.reg with
  | .plyCtl d => (s.setReg w).modPly d fun p => { p.request nxt with req := nxt }
  | _ => s

/-- PLY_REQ_RUN (R24): a request for run. -/
def execPlyReqRun (h : HostWrite) (s : State) : Host.Outcome State Fault Refusal :=
  .next (s.onWrite h .plyRun fun w s => s.plyRequest w 0)

/-- PLY_REQ_DOZE (R24): a request for doze. -/
def execPlyReqDoze (h : HostWrite) (s : State) : Host.Outcome State Fault Refusal :=
  .next (s.onWrite h .plyDoze fun w s => s.plyRequest w 1)

/-- PLY_REQ_SLEEP (R24): a request for sleep. -/
def execPlyReqSleep (h : HostWrite) (s : State) : Host.Outcome State Fault Refusal :=
  .next (s.onWrite h .plySleep fun w s => s.plyRequest w 2)

/-- L2WB_START (R215): a write-back of a range begins. -/
def execL2wbStart (h : HostWrite) (s : State) : Host.Outcome State Fault Refusal :=
  .next (s.onWrite h .l2wb fun w s =>
    match w.reg with
    | .l2wb p => s.modPart p fun r =>
        if r.l2Busy then r
        else { r with
                l2Busy := true, l2Size := BitVec.ofNat 24 (w.fld 59 36), l2Base := BitVec.ofNat 36 (w.fld 35 0) }
    | _ => s)

/-- L2WB_DONE (R215): every slice of the partition has written back and holds no line of the range, so that a granule of
it has one copy again (R212, R216); each die counts the lines that its slices have written (R304). -/
def execL2wbDone (p : PartN) (s : State) : Host.Outcome State Fault Refusal :=
  let r := s.part p
  let lo := r.l2Base.toNat * 16
  let mine := fun x : Homes =>
    r.l2Busy && decide (lo ≤ x.page) && decide (x.page < lo + r.l2Size.toNat * 16) &&
      (x.first :: x.others).any (s.dieIn p)
  let s := ((List.finRange 8).filter fun d => r.l2Busy && s.dieIn p d).foldl State.hbmLines s
  .next (((s.slices.homes.filter mine).foldl State.mergeHomes s).modPart p fun r => { r with l2Busy := false })

/-! ## Trace and counters (R300, R301, R304) -/

/-- TRACE_ENABLE (R301): tracing is on, and WPTR and LOST of every segment are zero. -/
def execTraceEnable (h : HostWrite) (s : State) : Host.Outcome State Fault Refusal :=
  .next (s.onWrite h .traceOn fun w s =>
    match w.reg with
    | .traceCtl d =>
      if s.traceRoom d (s.ply d).trace then
        let s := (s.setReg w).modPly d fun p =>
          { p with trace := { p.trace with
              en := true, lost := 0
              cores := p.trace.cores.map fun c => { c with wptr := 0, lost := 0, since := 0 } } }
        (List.range 192).foldl (fun s i => s.writeHeader (192 * d.val + i)) s
      else s
    | _ => s)

/-- TRACE_DISABLE (R300, R301): the queued records are written and WPTR published, and tracing is off. -/
def execTraceDisable (h : HostWrite) (s : State) : Host.Outcome State Fault Refusal :=
  .next (s.onWrite h .traceOff fun w s =>
    match w.reg with
    | .traceCtl d =>
      let s := s.publishAll [d]
      (s.setReg w).modPly d fun p => { p with trace := { p.trace with en := false } }
    | _ => s)

/-- WPTR_PUBLISH (R300): a core with records pending writes them, and then its WPTR. -/
def execWptrPublish (core : Nat) (s : State) : Host.Outcome State Fault Refusal :=
  .next (let t := (s.ply (coreDie core)).trace
    if t.en && t.pending.contains core then s.publish core else s)

/-- COUNTER_CLEAR (R304): every counter of the die becomes 0. -/
def execCounterClear (h : HostWrite) (s : State) : Host.Outcome State Fault Refusal :=
  .next (s.onWrite h .clear fun w s =>
    match w.reg with
    | .cntCtl d =>
      let s := (s.setReg w).modPly d fun p => { p with perf := { p.perf with vals := Vector.replicate 9 0 } }
      { s with slices := { s.slices with traffic := s.slices.traffic.set d ⟨0, 0, 0, 0⟩ } }
    | _ => s)

/-- COUNTER_LATCH_READ (R304): a 4-byte read of a counter's low half latches its high half, which the next
read of the high half returns; a read of any other register returns it and changes nothing (R75).
[DEDUCED, log 43] -/
def execCounterLatchRead (h : HostRead) (s : State) : Host.Outcome State Fault Refusal :=
  .next (match accessAt h.off h.size with
    | some (.counter d k, _, at_) =>
      if !(s.dev.power && s.visible h.port (.counter d k)) then s.emit (.readData h.port 0)
      else
        let v := s.counter d k
        if h.size = 4 ∧ at_ = 0 then
          let high : BitVec 32 := (v >>> 32).setWidth 32
          (s.modPly d fun p => { p with perf := { p.perf with latch := p.perf.latch.set k (some high) } }).emit
            (.readData h.port (v &&& 0xFFFFFFFF))
        else if h.size = 4 ∧ at_ = 4 then
          let high : BitVec 32 := ((s.ply d).perf.latch[k]).getD ((v >>> 32).setWidth 32)
          (s.modPly d fun p => { p with perf := { p.perf with latch := p.perf.latch.set k none } }).emit
            (.readData h.port (high.zeroExtend 64))
        else s.emit (.readData h.port (BitVec.ofNat 64 (v.toNat / 256 ^ at_ % 256 ^ h.size)))
    | _ => s.emit (.readData h.port (s.hostRead h)))

end Sys2Proof.Machine
end

