-- ==== Sys2Proof/Machine/Boot.lean ====
section
/-! DEFINITION. Starts, firmware and attestation (R85 to R92), host access to memory (R83), machine checks
(R84, R53), inbound remote accesses (R56), and soft errors (R194 to R196). -/

namespace Sys2Proof.Machine

/-! ## Machine checks (R84) -/

/-- Set a bit of MCHK of some ports; a change from zero sends MSI-X vector 0. -/
def State.machineCheck (s : State) (qs : List Port) (bit : Nat) : State :=
  qs.foldl (fun s q =>
    let old := (s.port q).mchk
    let s := s.modPort q fun a => { a with mchk := a.mchk ||| BitVec.twoPow 5 bit }
    if old = 0 then s.emit (.msix q 0) else s) s

/-- The ports of the enabled partitions that a test names, each once. -/
def State.portsOf (s : State) (f : PartN → Bool) : List Port :=
  [(0 : Port), 1].filter fun q =>
    (List.finRange 8).any fun p => (s.part p).en && (s.part p).port.toNat == q.val && f p

/-- BEAM_LINK_DOWN (R53, R84): every launch of a partition on both beams is stopped, and BLINK_DOWN is
set; the link stays down until the next start begins. [DEDUCED, log 45] -/
def execBeamLinkDown (s : State) : Host.Outcome State Fault Refusal :=
  .next (if s.dev.linkDown || !s.dev.power then s
    else
      let s := { s with dev := { s.dev with linkDown := true } }
      let s := { s with
        launches := s.launches.map fun (l : Launch) => if (s.part l.part).size = 3 then { l with stopped := true } else l }
      s.machineCheck [0, 1] 0)

/-- FLIT_RETRY (R53): a flit is retried, which changes only time. -/
def execFlitRetry (s : State) : Host.Outcome State Fault Refusal := .next s

/-- UAL_DOWN (R84): a UALink port has failed; the partitions that a remote window lets use it are told.
[DEDUCED, log 45] -/
def execUalDown (ualPort : BitVec 4) (s : State) : Host.Outcome State Fault Refusal :=
  .next (
    let uses := fun b : Beam => (s.beam b).links.rwin.any fun w => w.en && w.ports.getLsbD ualPort.toNat
    s.machineCheck (s.portsOf fun p => (s.partDies p).any fun d => uses (dieBeam d)) 2)

/-- CP_HALT (R84): a command processor stops on an internal fault. -/
def execCpHalt (b : Beam) (s : State) : Host.Outcome State Fault Refusal :=
  .next ((s.modBeam b fun r => { r with halted := true }).machineCheck
    (s.portsOf fun p => dieBeam p == b) 4)

/-! ## Firmware (R89, R90) -/

/-- The header and the body of the image in flash (R89). -/
def State.image (s : State) : List Byte × List Byte :=
  (cellBytes s.flash 0 0x100, cellBytes s.flash 0x100 (cellWord s.flash 0x0C 4))

/-- The digest of the image in flash: header bytes 0x000 to 0x04F and the body (R89). -/
def State.imageDigest (s : State) : BitVec 512 := Config.shake256 (s.image.1.take 0x50 ++ s.image.2)

/-- A field of the header. -/
def State.headerField (s : State) (off n : Nat) : Nat := cellWord s.flash off n

/-- Whether the base dies accept the image in flash (R89). The header's rule for LENGTH, which the list of
conditions does not name, is one of them: the image must fit the flash. [DESIGN CHOICE, log 63] -/
def State.imageOk (s : State) : Bool :=
  let key := cellBytes s.flash 0x10 57
  s.headerField 0x00 4 == 0x58465841 && s.headerField 0x04 2 == 1 &&
    decide (s.headerField 0x0C 4 ≤ 0x01FFFF00) && s.headerField 0x0C 4 % 64 == 0 &&
    Config.shake256 key == Config.keyDigest && decide (s.dev.fuseSvn.toNat ≤ s.headerField 0x08 2) &&
    Config.sigOk key (cellBytes s.flash 0x50 114) s.imageDigest

/-- FLASH_WINDOW_WRITE (R90): bytes of the selected flash page are programmed, in every state. [DEDUCED, log 44]
A page number above 1,023, which names no page, is taken modulo 1,024. [DESIGN CHOICE, log 63] -/
def execFlashWindowWrite (h : HostWrite) (s : State) : Host.Outcome State Fault Refusal :=
  .next (s.onWrite h .flash fun w s =>
    let at_ := (s.port w.port).fwPage.toNat % 1024 * 2 ^ 15 + w.first
    { s with flash := cellPut s.flash at_ (leBytes w.size h.data.toNat) })

/-! ## Starts (R85 to R88) -/

/-- The registers of a host port as a start leaves them: MCHK.VTEST, the link and the size of BAR4
stay. [DESIGN CHOICE, log 3; DEDUCED, log 45] -/
def PortRegs.afterStart (a : PortRegs) : PortRegs :=
  { PortRegs.reset with linkUp := a.linkUp, mchk := a.mchk &&& 2#5, bar4 := a.bar4 }

/-- The machine with its on-package memories zero and every register at its reset value, but for those of the
device block and what the host has set of a port (R86, R88); HBM4E stays, with its poisoned words. A store that has
performed at its home stays even where only L2 held it. [DESIGN CHOICE, log 63] -/
def State.cleared (s : State) : State :=
  { State.reset with
    mem := s.mem.filter fun c => decide (c.1 < 2 ^ 53)
    poison := s.poison.filter fun q =>
      match q.loc with
      | .phys a => q.struct == 9 && decide (a < 2 ^ 53)
      | .scratch _ _ | .vault _ | .reed _ _ => false
    flash := s.flash
    beams := State.reset.beams.map fun b => { b with reed := { b.reed with calOk := false } }
    ports := s.ports.map PortRegs.afterStart
    dev := s.dev
    time := s.time
    out := s.out
    agenda := s.agenda
    turn := s.turn
    draws := s.draws
    serial := s.serial }

/-- The machine as a start begins, or power is lost (R85, R88): every launch ends without completion, and HBM4E is
retained by a warm start alone. [DESIGN CHOICE, log 1] -/
def State.wipe (s : State) (warm : Bool) : State :=
  { s.cleared with
    mem := if warm then s.cleared.mem else []
    poison := if warm then s.cleared.poison else []
    dev :=
      { Device.reset with
        ready := false
        authFail := false
        vtestRan := false
        kind := if warm then 2 else 1
        svn := 0
        plyFail := s.dev.plyFail
        forceCal := if warm then s.dev.forceCal else false
        start := s.dev.start
        starting := true
        retCal := s.dev.retCal
        retDigest := s.dev.retDigest
        vaultEcc := s.dev.vaultEcc
        vaultFix := s.dev.vaultFix
        fwDigest := s.dev.fwDigest
        fuseSvn := s.dev.fuseSvn
        img := s.dev.img } }

/-- Step 1 of a start (R86, R89): the image in flash is read and verified, and the fused minimum rises once both
dies accept it. -/
def State.verifyImage (s : State) : State :=
  let ok := s.imageOk
  let least := BitVec.ofNat 16 (max s.dev.fuseSvn.toNat (s.headerField 0x0A 2))
  { s with
    dev := { s.dev with
      img := ⟨ok, s.imageDigest, BitVec.ofNat 16 (s.headerField 0x08 2)⟩
      fuseSvn := if ok then least else s.dev.fuseSvn } }

/-- A start begins, with its step 1 (R85, R86). -/
def State.beginStart (s : State) (warm : Bool) : State := (s.wipe warm).verifyImage

/-- BOOT_COLD_START (R85): a write of 0b01 to BOOT_CTL.START. -/
def execBootColdStart (h : HostWrite) (s : State) : Host.Outcome State Fault Refusal :=
  .next (s.onWrite h .cold fun w s => (s.setReg w).beginStart false)

/-- BOOT_WARM_START (R85): a write of 0b10 to BOOT_CTL.START. -/
def execBootWarmStart (h : HostWrite) (s : State) : Host.Outcome State Fault Refusal :=
  .next (s.onWrite h .warm fun w s => (s.setReg w).beginStart true)

/-- FUNDAMENTAL_RESET (R85): of port 0 a warm start; of port 1 one only while port 0 is down. -/
def execFundamentalReset (q : Port) (s : State) : Host.Outcome State Fault Refusal :=
  .next (if s.dev.power && (q == 0 || !(s.port 0).linkUp) then s.beginStart true else s)

/-- POWER_UP (R85): a cold start begins. -/
def execPowerUp (s : State) : Host.Outcome State Fault Refusal :=
  .next (if s.dev.power then s
    else
      let s := s.beginStart false
      { s with ports := s.ports.map fun a => { a with bar4 := 1 } })

/-- POWER_REMOVAL (R87): everything stops, and the always-on storage is lost; flash and fuses stay. -/
def execPowerRemoval (s : State) : Host.Outcome State Fault Refusal :=
  .next (
    let s := s.wipe false
    { s with
      dev := { s.dev with
        power := false, starting := false, retCal := false, retDigest := 0, vaultEcc := false, vaultFix := []
        plyFail := 0, start := 0 }
      ports := s.ports.map fun a => { a with mchk := 0 } })

/-- PORT_LINK_CHANGE (R85): the PCIe link of a port goes up or down. -/
def execPortLinkChange (q : Port) (up : Bool) (s : State) : Host.Outcome State Fault Refusal :=
  .next (s.modPort q fun a => { a with linkUp := up })

/-- Steps 2 to 6 of a start whose image is accepted (R86, R87, R88): `fails` names the dies in which the
vault self-test finds a fault that no spare repairs, where it runs; FORCE_CAL and the vault ECC event flag are read
here, and the memories and registers are cleared once more as READY is set. [DEDUCED, log 45] -/
def State.finishStart (s : State) (fails : BitVec 8) : State :=
  let d := s.dev
  let digest := d.img.digest
  let reuse := d.kind == 2 && d.retCal && !d.forceCal && d.retDigest == digest
  let test := d.kind == 1 || d.vaultEcc
  let s := { s.cleared with
    beams := State.reset.beams.map fun b => { b with reed := { b.reed with calOk := true } }
    dev := { d with
      ready := true
      starting := false
      forceCal := d.kind == 2 && d.forceCal
      start := 0
      calReused := reuse
      vtestRan := test
      svn := d.img.svn
      plyFail := if test then fails else d.plyFail
      retCal := true
      retDigest := digest
      vaultEcc := if test then false else d.vaultEcc
      vaultFix := if test then [] else d.vaultFix
      fwDigest := digest } }
  if test && fails != 0 then s.machineCheck [0, 1] 1 else s

/-- BOOT_READY (R86, R89, R90): the steps of a start have run; an image that its step 1 rejected leaves the device
in recovery. [DEDUCED, log 45] -/
def execBootReady (plyFail : BitVec 8) (s : State) : Host.Outcome State Fault Refusal :=
  .next (if !s.dev.starting then s
    else if s.dev.img.ok then s.finishStart plyFail
    else { s with dev := { s.dev with authFail := true, starting := false } })

/-! ## Attestation (R91, R92) -/

/-- Bytes 0x000 to 0x0FF of a quote, as a request captures them (R92). -/
def State.quoteBody (s : State) (q : Port) : List Byte :=
  leBytes 4 0x54515841 ++ leBytes 1 q.val ++ leBytes 1 s.dev.kind.toNat ++ leBytes 2 s.dev.svn.toNat ++
    leBytes 8 Config.devId.toNat ++ leBytes 32 (s.port q).nonce.toNat ++ leBytes 64 s.dev.fwDigest.toNat ++
    (List.finRange 8).flatMap (fun p => leBytes 4 (s.partWord p)) ++
    (List.finRange 8).flatMap (fun p => leBytes 8 (s.part p).pmemWord) ++ List.replicate 48 0

/-- ATTEST_REQUEST (R91): a new value of REQ captures the nonce and starts a quote; none is given before
READY: a value written then is kept, and its request is never served. [DESIGN CHOICE, log 63] -/
def execAttestRequest (h : HostWrite) (s : State) : Host.Outcome State Fault Refusal :=
  .next (s.onWrite h .attest fun w s =>
    let a := s.port w.port
    if a.attBusy then s
    else
      s.modPort w.port fun a =>
        { a with
          attReq := BitVec.ofNat 8 (w.fld 7 0)
          attBusy := s.dev.ready
          capture := if s.dev.ready then s.quoteBody w.port else a.capture })

/-- QUOTE_DONE (R91, R92): the signed quote is finished. -/
def execQuoteDone (q : Port) (s : State) : Host.Outcome State Fault Refusal :=
  .next (s.modPort q fun a =>
    if a.attBusy && s.dev.ready then
      { a with
        attBusy := false
        attDone := a.attReq
        quote := a.capture ++
          leBytes 114 (Config.quoteSig s.dev.fwDigest (Config.shake256 a.capture)).toNat ++
          List.replicate 46 0 }
    else a)

/-! ## Memory through a port (R83) -/

/-- RESIZABLE_BAR_SET (R83): the size of BAR4, a power of two from 1 GiB to 1 TiB. -/
def execResizableBarSet (q : Port) (gib : BitVec 11) (s : State) : Host.Outcome State Fault Refusal :=
  .next (if (List.range 11).any fun k => gib.toNat == 2 ^ k then
      s.modPort q fun a => { a with bar4 := gib.toNat }
    else s)

/-- Whether an access through BAR4 is accepted: every byte lies in one range of one enabled partition bound
to the port. -/
def State.bar4Ok (s : State) (q : Port) (off n : Nat) : Bool :=
  s.dev.ready && decide (off + n ≤ (s.port q).bar4 * 2 ^ 30) &&
    (List.finRange 8).any fun p =>
      (s.part p).en && (s.part p).port.toNat == q.val && s.inPmem p off n

/-- Bytes of memory as something outside the device reads them at their home (R227): those of a word with an uncorrectable error
are free. [DESIGN CHOICE, log 46] -/
def State.outsideBytes (s : State) (pa n : Nat) : List Byte × State :=
  let s := s.l1Recall none pa n
  (List.range n).foldl (fun (r : List Byte × State) i =>
    if (r.2.poisonAt (.phys (pa + i)) 1).isSome then
      let (k, s) := r.2.draw
      (r.1 ++ [Config.badByte k], s)
    else (r.1 ++ [cellGet r.2.mem (pa + i)], r.2)) ([], s)

/-- BAR4_ACCESS (R83, R227): an accepted access reads or writes memory at its home; a rejected one is counted,
and a rejected read returns all ones.  Where mappings of a granule name several homes (R212) it reaches the copy at the
granule's own address. [DESIGN CHOICE, log 62] -/
def execBar4Access (a : Bar4Req) (s : State) : Host.Outcome State Fault Refusal :=
  .next (if !s.dev.power then s
    else
      let n := a.write.elim a.len List.length
      if s.bar4Ok a.port a.off n then
        match a.write with
        | some bs => s.putShared a.off bs
        | none =>
          let r := s.outsideBytes a.off n
          r.2.emit (.bar4Data a.port r.1)
      else
        let s := s.modPort a.port fun p =>
          { p with hostErr := if p.hostErr = 0xFFFFFFFF then p.hostErr else p.hostErr + 1 }
        if a.write.isSome then s else s.emit (.bar4Data a.port (List.replicate n 0xFF)))

/-! ## Inbound remote accesses (R56, R57) -/

/-- Whether an export accepts a remote access (R56): one of the block of the base die at whose ports it arrives.
[DESIGN CHOICE, log 60] -/
def State.exported (s : State) (a : InboundReq) (n : Nat) : Bool :=
  ((s.beam a.beam).links.reexp.any fun w =>
    w.en && w.peer == a.peer && decide (w.base.toNat * 2 ^ 30 ≤ a.off) &&
      decide (a.off + n ≤ (w.base.toNat + w.size.toNat) * 2 ^ 30)) && decide (a.off + n ≤ 2 ^ 40)

/-- INBOUND_REMOTE_ACCESS (R56, R57, R227): an accepted access performs at its home and is answered; a rejected
one has no effect. -/
def execInboundRemoteAccess (a : InboundReq) (s : State) : Host.Outcome State Fault Refusal :=
  .next (
    let n := match a.kind with
      | .load => a.len
      | .store => a.data.length
      | .atomic => a.aty.bytes
    if !s.dev.ready then s
    else if !s.exported a n then s.emit (.response a.beam false [])
    else
      match a.kind with
      | .load =>
        let r := s.outsideBytes a.off n
        r.2.emit (.response a.beam true r.1)
      | .store => (s.putShared a.off a.data).emit (.response a.beam true [])
      | .atomic =>
        if a.off % n ≠ 0 ∨ a.aty = .f32 then s.emit (.response a.beam false [])
        else
          let (bs, s) := s.outsideBytes a.off n
          let old := leVal bs
          let r := atomNew a.aop a.aty old (leVal a.data) a.cmp.toNat
          let s := if r.2 then s.putShared a.off (leBytes n r.1) else s.l1Revoke a.off n
          s.emit (.response a.beam true (leBytes n old)))

/-! ## Soft errors (R194, R196, R271 to R273) -/

/-- A word of memory has an uncorrectable error. -/
def State.poisonWord (s : State) (x : Loc) (struct : BitVec 4) : State :=
  { s with poison := s.poison ++ [⟨x.word, struct, 0, 0⟩] }

/-- A word of L2 or HBM4E is poisoned; outside every partition's memory it is a machine check (R84,
R194). -/
def State.poisonMem (s : State) (pa : Nat) (struct : BitVec 4) : State :=
  let s := s.poisonWord (.phys pa) struct
  if (List.finRange 8).any fun p => (s.part p).en && s.inPmem p (pa / 8 * 8) 8 then s
  else s.machineCheck [0, 1] 3

/-- The vault of an address, by its die and number (R172). -/
def vaultOf (a : Nat) : Nat := a / 2 ^ 25

/-- An uncorrectable error strikes a word (R194, R271, R273): it is reported when the word is read; a clean
L1 line is fetched again. -/
def State.strike (s : State) (t : SoftTarget) : State :=
  match t with
  | .lane wid r l => { s with regPoison := s.regPoison ++ [.lane wid r l] }
  | .scale wid r => { s with regPoison := s.regPoison ++ [.scale wid r] }
  | .acc gid t row col => { s with regPoison := s.regPoison ++ [.acc gid t.toNat row.toNat col.toNat] }
  | .scratch gid off => s.poisonWord (.scratch gid off) 3
  | .vault a => { (s.poisonWord (.vault a) 4) with dev := { s.dev with vaultEcc := true } }
  | .mirror d off => s.modPly d fun p => { p with mirrorBad := p.mirrorBad ++ [off / 8 * 8] }
  | .stackLog b dsn => s.modReed b fun r =>
      { r with log := r.log.map fun e => if e.dsn = dsn then { e with bad := true } else e }
  | .l1 pa true => s.poisonWord (.phys pa) 7
  | .l1 pa false => { s with l1 := s.l1.filter fun w => !w.meets pa 1 || w.ahead }
  | .l2 pa => s.poisonMem pa 8
  | .hbm pa => s.poisonMem pa 9

/-- An error that its code corrects changes no result (R194); those of a vault are counted (R196). -/
def State.corrected (s : State) (t : SoftTarget) : State :=
  match t with
  | .vault a =>
    let n := (s.dev.vaultFix.find? fun x => x.1 == vaultOf a).elim 0 Prod.snd
    let fix := (vaultOf a, n + 1) :: s.dev.vaultFix.filter fun x => x.1 != vaultOf a
    { s with dev := { s.dev with vaultFix := fix, vaultEcc := s.dev.vaultEcc || decide (16 < n + 1) } }
  | .lane _ _ _ | .scale _ _ | .acc _ _ _ _ | .scratch _ _ | .mirror _ _ | .stackLog _ _ | .l1 _ _ | .l2 _
  | .hbm _ => s

/-- SOFT_ERROR (R194): an error strikes a protected word. [DEDUCED, log 45] -/
def execSoftError (e : SoftErr) (s : State) : Host.Outcome State Fault Refusal :=
  .next (if e.correctable then s.corrected e.target else s.strike e.target)

/-- PATROL_SCRUB (R196): every word of the vaults and the mirror of a ply is read, checked and corrected,
which changes only time; an error that it cannot correct in a vault is noted for the next start.
[DEDUCED, log 45] -/
def execPatrolScrub (d : Die) (s : State) : Host.Outcome State Fault Refusal :=
  .next (
    let p := s.ply d
    if (p.state == .run || p.state == .doze) && s.poison.any (fun q =>
        match q.loc with
        | .vault a => a / 2 ^ 31 == d.val
        | .phys _ | .scratch _ _ | .reed _ _ => false) then
      { s with dev := { s.dev with vaultEcc := true } }
    else s)

end Sys2Proof.Machine
end

