-- ==== Sys2Proof/Machine/Wire.lean ====
section
/-! DEFINITION. Exponent compression on the wire (R68, R69): blocks of 16 f32 values as bit strings, and the words that
a receiver rebuilds from them. -/

namespace Sys2Proof.Machine

/-- The biased exponent of an f32 word. -/
def wireExp (w : Nat) : Nat := w / 2 ^ 23 % 256

/-- Whether an exponent qualifies for BASE: it is neither that of a zero or subnormal nor that of an infinity or
NaN. -/
def wireNormal (e : Nat) : Bool := decide (0 < e) && decide (e < 255)

/-- BASE of a block (R68). -/
def wireBase (ws : List Nat) : Nat := (((ws.map wireExp).filter wireNormal).min?).getD 0

/-- The fields of a value in a block with MODE = 0: widths and values, in order (R68). -/
def wireValue (base w : Nat) : List (Nat × Nat) :=
  let e := wireExp w
  let sign := (1, w / 2 ^ 31 % 2)
  let frac := (23, w % 2 ^ 23)
  if wireNormal e && decide (e - base ≤ 6) then [sign, (3, e - base), frac] else [sign, (3, 7), (8, e), frac]

/-- Fields as a bit string from bit 0 up, with its length. -/
def wireString (fs : List (Nat × Nat)) : Nat × Nat :=
  fs.foldr (fun f r => (f.2 + 2 ^ f.1 * r.1, f.1 + r.2)) (0, 0)

/-- A block of 16 words as its bytes (R68): MODE = 0 where that is shorter than 513 bits. -/
def wireBlock (ws : List Nat) : List (BitVec 8) :=
  let base := wireBase ws
  let s := wireString ((1, 0) :: (8, base) :: ws.flatMap (wireValue base))
  let raw := wireString ((1, 1) :: ws.map fun w => (32, w))
  let r := if s.2 < 513 then s else raw
  leBytes ((r.2 + 7) / 8) r.1

/-- The word of a value in a block with MODE = 0 that begins at bit 0 of a string, and its length (R68). -/
def unwireValue (base v : Nat) : Nat × Nat :=
  let sign := v % 2
  let code := v / 2 % 8
  let esc := code = 7
  let e := if esc then v / 2 ^ 4 % 256 else base + code
  let n := if esc then 12 else 4
  (sign * 2 ^ 31 + e * 2 ^ 23 + v / 2 ^ n % 2 ^ 23, n + 23)

/-- Words of a block with MODE = 0, from bit 0 of a string, and their length. -/
def unwireValues (base : Nat) : Nat → Nat → List Nat × Nat
  | 0, _ => ([], 0)
  | k + 1, v =>
    let (w, n) := unwireValue base v
    let (ws, m) := unwireValues base k (v / 2 ^ n)
    (w :: ws, n + m)

/-- The 16 words of a block, and the bytes that it takes (R68, R69). -/
def unwireBlock (v : Nat) : List Nat × Nat :=
  if v % 2 = 1 then ((List.range 16).map fun i => v / 2 ^ (1 + 32 * i) % 2 ^ 32, 65)
  else
    let (ws, n) := unwireValues (v / 2 % 256) 16 (v / 2 ^ 9)
    (ws, (n + 9 + 7) / 8)

/-- Blocks of words, the last one filled up with zeros: R68 does not say how a payload ends that is no multiple of 16
values. [DESIGN CHOICE, log 61] -/
def wireWords (ws : List Nat) : List (BitVec 8) :=
  (List.range ((ws.length + 15) / 16)).flatMap fun i =>
    let b := (ws.drop (16 * i)).take 16
    wireBlock (b ++ List.replicate (16 - b.length) 0)

/-- The words of `k` blocks; none where the string does not end with the last of them. -/
def unwireBlocks : Nat → List (BitVec 8) → Option (List Nat)
  | 0, bs => if bs.isEmpty then some [] else none
  | k + 1, bs =>
    let (ws, n) := unwireBlock (leVal (bs.take 65))
    if bs.length < n then none else (unwireBlocks k (bs.drop n)).map fun r => ws ++ r

/-- The payload of `n` f32 values on the wire. -/
def wirePayload (n : Nat) (bs : List (BitVec 8)) : List (BitVec 8) :=
  wireWords ((List.range n).map fun i => leVal ((bs.drop (4 * i)).take 4))

/-- The bytes of `n` f32 values that a receiver rebuilds from a payload (R69). -/
def unwirePayload (n : Nat) (bs : List (BitVec 8)) : Option (List (BitVec 8)) :=
  (unwireBlocks ((n + 15) / 16) bs).map fun ws => (ws.take n).flatMap (leBytes 4)

end Sys2Proof.Machine
end

