-- ==== Sys2Proof/Machine/Collective.lean ====
section
/-! DEFINITION. The collective engine of a base die (R60 to R67): descriptors, chunks, contributions and
their reduction, completion records, and the events of a collective. -/

namespace Sys2Proof.Machine

namespace Coll

/-! ## The descriptor (R60, R61) -/

/-- The operation. -/
def op (k : Coll) : Nat := descField k.desc 0x00 31 28
/-- The type of an element. -/
def dtype (k : Coll) : Nat := descField k.desc 0x00 27 24
/-- The reduction. -/
def red (k : Coll) : Nat := descField k.desc 0x00 23 20
/-- The number of ranks. -/
def ranks (k : Coll) : Nat := descField k.desc 0x04 31 24 + 1
/-- This device's rank. -/
def rank (k : Coll) : Nat := descField k.desc 0x04 23 16
/-- The source rank of BROADCAST. -/
def root (k : Coll) : Nat := descField k.desc 0x04 15 8
/-- The elements of the full vector. -/
def count (k : Coll) : Nat := descField k.desc 0x08 63 0
/-- The source address. -/
def src (k : Coll) : Nat := descField k.desc 0x10 63 0
/-- The destination address. -/
def dst (k : Coll) : Nat := descField k.desc 0x18 63 0
/-- The address of the peers' accelerator IDs. -/
def peerVa (k : Coll) : Nat := descField k.desc 0x20 63 0
/-- The address of the completion record. -/
def record (k : Coll) : Nat := descField k.desc 0x28 63 0
/-- How long to wait for contributions; 0 waits without limit. -/
def timeout (k : Coll) : Nat := descField k.desc 0x30 31 0

/-- The bytes of an element. -/
def size (k : Coll) : Nat :=
  match k.dtype with
  | 1 | 2 => 2
  | 5 => 8
  | 6 => 1
  | _ => 4

/-- Whether the operation reduces: ALL_REDUCE or REDUCE_SCATTER. -/
def reduces (k : Coll) : Bool := decide (k.op ≤ 1)

/-! ## Chunks (R62, R66) -/

/-- The elements of a chunk. -/
def quota (k : Coll) : Nat := (k.count + k.ranks - 1) / k.ranks

/-- The first element of a chunk, and its length; BROADCAST has one chunk. -/
def span (k : Coll) (j : Nat) : Nat × Nat :=
  if k.op = 3 then (0, k.count)
  else
    let lo := min (j * k.quota) k.count
    (lo, min ((j + 1) * k.quota) k.count - lo)

/-- The chunks that the collective writes on this rank, in the order of its record. -/
def chunks (k : Coll) : List Nat :=
  match k.op with
  | 0 | 2 => List.range k.ranks
  | 1 => [k.rank]
  | _ => [0]

/-- The ranks that contribute to a chunk. -/
def sources (k : Coll) (j : Nat) : List Nat :=
  match k.op with
  | 0 | 1 => List.range k.ranks
  | 2 => [j]
  | _ => [k.root]

/-- Where in DST a chunk begins, in elements. -/
def place (k : Coll) (j : Nat) : Nat :=
  match k.op with
  | 0 | 2 => (k.span j).1
  | _ => 0

/-- The chunks to which this rank contributes, each with the rank that writes it; for ALL_REDUCE,
ALL_GATHER and BROADCAST every rank does. -/
def gives (k : Coll) : List (Nat × List Nat) :=
  let all := List.range k.ranks
  match k.op with
  | 0 => all.map fun j => (j, all)
  | 1 => all.map fun j => (j, [j])
  | 2 => [(k.rank, all)]
  | _ => if k.rank = k.root then [(0, all)] else []

/-- Where in SRC the contribution to a chunk begins, in elements. -/
def from_ (k : Coll) (j : Nat) : Nat := if k.reduces then (k.span j).1 else 0

/-- The lengths in elements of what the operation reads at SRC and writes at DST. -/
def extents (k : Coll) : Nat × Nat :=
  match k.op with
  | 1 => (k.count, (k.span k.rank).2)
  | 2 => ((k.span k.rank).2, k.count)
  | _ => (k.count, k.count)

/-- Whether SRC and DST overlap in a way that is rejected (R61). -/
def overlaps (k : Coll) : Bool :=
  let n := k.extents.1 * k.size
  let m := k.extents.2 * k.size
  n != 0 && m != 0 && decide (k.src < k.dst + m) && decide (k.dst < k.src + n) &&
    !(k.src == k.dst && (k.op == 0 || k.op == 3))

/-- Whether the engine rejects the descriptor before it reads PEERS (R61). [DEDUCED, log 40] -/
def malformed (k : Coll) : Bool :=
  decide (3 < k.op) || decide (6 < k.dtype) || decide (3 < k.red) ||
    descField k.desc 0x00 19 0 != 0 || descField k.desc 0x04 7 0 != 0 ||
    (k.desc.drop 0x34).any (fun b => b != 0) || decide (2 ^ 40 ≤ k.count) ||
    (k.reduces && (k.dtype == 6 || (k.red == 3 && decide (k.dtype ≤ 2)))) ||
    k.peerVa % 8 != 0 || k.record % 64 != 0 || decide (k.ranks ≤ k.rank) ||
    (k.op == 3 && decide (k.ranks ≤ k.root)) || k.overlaps

/-! ## Reduction (R63) -/

/-- The format of a floating-point element. -/
def fmt (k : Coll) : FFmt :=
  match k.dtype with
  | 1 => bf16
  | 2 => fp16
  | _ => fp32

/-- One element of a reduction: the contributions in rank order, folded from the left. -/
def fold (k : Coll) (xs : List Nat) : Nat :=
  let n := 8 * k.size
  let signed := k.dtype == 3 || k.dtype == 5
  let key := fun c : Nat => if signed then (BitVec.ofNat n c).toInt else (c : Int)
  if k.dtype ≤ 2 then
    match xs.find? k.fmt.isNan with
    | some c => k.fmt.quiet c
    | none =>
      match xs.map fun c => if k.dtype = 0 then c else fp32.ofVal .rne (k.fmt.val c) with
      | [] => 0
      | y :: ys =>
        let r := ys.foldl (fun a b =>
          match k.red with
          | 0 => fp32.add a b
          | 1 => fp32.fmin a b
          | _ => fp32.fmax a b) y
        if k.dtype = 0 then r else k.fmt.ofVal .rne (fp32.val r)
  else
    match xs with
    | [] => 0
    | y :: ys => ys.foldl (fun a b =>
      match k.red with
      | 0 => (a + b) % 2 ^ n
      | 1 => if key b < key a then b else a
      | 2 => if key a < key b then b else a
      | _ => Nat.lor a b) y

/-- The elements of a chunk from the contributions that the engine holds for it (R62, R63): none where
an ALL_GATHER or BROADCAST lacks its source. -/
def result (k : Coll) (j : Nat) : Option (List (List Byte)) :=
  let held := (k.sources j).filterMap fun r => k.got.find? fun a => a.chunk == j && a.rank == r
  let elems := fun a : Contribution => fun i : Nat => (a.data.drop (i * k.size)).take k.size
  match held with
  | [] => none
  | a :: _ => some ((List.range (k.span j).2).map fun i =>
      if k.reduces then leBytes k.size (k.fold (held.map fun a => leVal (elems a i))) else elems a i)

/-- The contributor mask of a chunk (R66). -/
def mask (k : Coll) (j : Nat) : BitVec 256 :=
  (k.sources j).foldl (fun m r =>
    if k.got.any fun a => a.chunk == j && a.rank == r then m ||| BitVec.twoPow 256 r else m) 0

/-- Whether every contribution to a chunk has arrived. -/
def full (k : Coll) (j : Nat) : Bool :=
  (k.sources j).all fun r => k.got.any fun a => a.chunk == j && a.rank == r

/-- The bytes of elements as the engine sends them: f32 values are compressed (R68). -/
def wire (k : Coll) (n : Nat) (bs : List Byte) : List Byte := if k.dtype = 0 then wirePayload n bs else bs

/-- The bytes of `n` elements from what has arrived (R69); none where it is not the payload of so many. -/
def unwire (k : Coll) (n : Nat) (bs : List Byte) : Option (List Byte) :=
  if k.dtype = 0 then unwirePayload n bs else if bs.length = n * k.size then some bs else none

/-- Whether a chunk has completed. -/
def isDone (k : Coll) (j : Nat) : Bool := k.done.any fun d => d.1 == j

end Coll

/-! ## The engine -/

/-- Change a collective of a beam's engine. -/
def State.modColl (s : State) (b : Beam) (id : Nat) (f : Coll → Coll) : State :=
  s.modLinks b fun l => { l with colls := l.colls.map fun k => if k.id = id then f k else k }

/-- A collective of a beam's engine. -/
def State.coll? (s : State) (b : Beam) (id : Nat) : Option Coll :=
  (s.beam b).links.colls.find? fun k => k.id == id

/-- The beam that holds a collective which an engine runs: one of an eight-ply partition, which beam 0's processor
issues and both engines serve (R93), is held in beam 0, which sends every contribution; one arrives at either engine.
[DESIGN CHOICE, log 41] -/
def State.collBeam (s : State) (b : Beam) (id : Nat) : Beam :=
  if (s.coll? b id).isNone && (s.coll? 0 id).elim false (fun k => (s.part k.part).size == 3) then 0 else b

/-- The tables that translate for a collective: those of its context, with the partition in which it began (R96,
R111). -/
def State.collCtx (s : State) (b : Beam) (k : Coll) : XCtx := { s.cpCtx b k.ctx with part := k.part }

/-- A collective ends with a result and a code (R61, R66). -/
def State.endColl (s : State) (b : Beam) (id : Nat) (result : BitVec 2) (code : BitVec 32) : State :=
  s.modColl b id fun k => { k with fate := some (result, code) }

/-- Read `n` elements at a virtual address; the cause where one faults. -/
def State.readElems (s : State) (x : XCtx) (va size : Nat) : Nat → Except (BitVec 8) (List Byte) × State
  | 0 => (.ok [], s)
  | n + 1 =>
    match s.readElems x va size n with
    | (.error e, s) => (.error e, s)
    | (.ok bs, s) =>
      match s.engineRead x (BitVec.ofNat 64 (va + n * size)) size size with
      | (.error e, s) => (.error e, s)
      | (.ok b, s) => (.ok (bs ++ b), s)

/-- Write elements from a virtual address; the cause where one faults. -/
def State.writeElems (s : State) (x : XCtx) (va size : Nat) : List (List Byte) → Option (BitVec 8) × State
  | [] => (none, s)
  | e :: es =>
    match s.engineWrite x (BitVec.ofNat 64 va) size e with
    | (some c, s) => (some c, s)
    | (none, s) => s.writeElems x (va + size) size es

/-- A chunk completes with the contributions that the engine holds (R63, R64): its elements are written
to DST, its mask is recorded, and a chunk that lacks a contributor counts as partial. -/
def State.endChunk (s : State) (b : Beam) (k : Coll) (j : Nat) : State :=
  let x := s.collCtx b k
  let s := s.modColl b k.id fun k =>
    { k with
      done := k.done ++ [(j, k.mask j)]
      partials := if k.full j then k.partials else k.partials + 1 }
  match k.result j with
  | none => s
  | some es =>
    match s.writeElems x (k.dst + k.place j * k.size) k.size es with
    | (none, s) => s
    | (some c, s) => s.endColl b k.id 3 (c.zeroExtend 32)

/-- Complete a chunk once all its contributions have arrived. [DEDUCED, log 41] -/
def State.tryChunk (s : State) (b : Beam) (id j : Nat) : State :=
  match s.coll? b id with
  | none => s
  | some k =>
    if k.started && k.fate.isNone && k.chunks.contains j && !k.isDone j && k.full j then s.endChunk b k j
    else s

/-- Read this rank's contribution to a chunk, keep it where this rank writes the chunk, and send it to the
peers that do (R62, R68). -/
def State.giveChunk (s : State) (b : Beam) (id : Nat) (g : Nat × List Nat) : State :=
  match s.coll? b id with
  | none => s
  | some k =>
    if k.fate.isSome then s
    else
      let x := s.collCtx b k
      match s.readElems x (k.src + k.from_ g.1 * k.size) k.size (k.span g.1).2 with
      | (.error c, s) => s.endColl b id 3 (c.zeroExtend 32)
      | (.ok bs, s) =>
        let me := (s.beam b).links.linkId
        let a : Contribution := ⟨id, g.1, me, k.rank, bs⟩
        let s := (g.2.filter fun r => r != k.rank).foldl (fun s r =>
          s.emit (.contribution b (k.peers.getD r 0) { a with data := k.wire (k.span g.1).2 bs })) s
        if g.2.contains k.rank then s.modColl b id fun k => { k with got := k.got ++ [a] } else s

/-- The peers' accelerator IDs that a descriptor names (R60). -/
def peerIds (bs : List Byte) (n : Nat) : List (BitVec 10) :=
  (List.range n).map fun i => BitVec.ofNat 10 (leVal ((bs.drop (8 * i)).take 8))

/-- A collective is over: its engine keeps which chunks it completed (R65). -/
def State.retireColl (s : State) (b : Beam) (k : Coll) : State :=
  s.modLinks b fun l =>
    { l with colls := l.colls.filter fun m => m.id != k.id, ended := l.ended ++ [{ k with got := [] }] }

/-- The fault is on the record itself: the collective is over, and its stream halts (R66).
[DEDUCED, log 41] -/
def State.recordFault (s : State) (b : Beam) (k : Coll) : State :=
  (s.retireColl b k).haltStream b k.ctx 0x0D k.off

/-- The engine starts a collective (R61, R62, R66): it rejects the descriptor, or clears the record,
reads SRC and sends this rank's contributions. -/
def State.startColl (s : State) (b : Beam) (k : Coll) : State :=
  let x := s.collCtx b k
  let s := s.modColl b k.id fun k => { k with started := true }
  let reject := fun s : State =>
    let (i, s) := s.draw
    s.endColl b k.id 2 (Config.collReason i)
  if k.malformed then reject s
  else
    match s.readElems x k.peerVa 8 k.ranks with
    | (.error c, s) => s.endColl b k.id 3 (c.zeroExtend 32)
    | (.ok bs, s) =>
      let ids := peerIds bs k.ranks
      if ids.getD k.rank 0 ≠ (s.beam b).links.linkId then reject s
      else
        match s.engineWrite x (BitVec.ofNat 64 k.record) 4 (leBytes 4 0) with
        | (some _, s) => s.recordFault b k
        | (none, s) =>
          let s := s.modColl b k.id fun k => { k with peers := ids }
          let s := k.gives.foldl (fun s g => s.giveChunk b k.id g) s
          k.chunks.foldl (fun s j => s.tryChunk b k.id j) s

/-- Start the first collective of a context whose earlier ones are over (R67). -/
def State.startNext (s : State) (b : Beam) (c : CtxN) : State :=
  match (s.beam b).links.colls.find? fun k => k.ctx == c with
  | some k => if k.started then s else s.startColl b k
  | none => s

/-- COLL: reads its descriptor and hands the collective to the engine of its beam (R60, R67). -/
def execColl (b : Beam) (c : CtxN) (s : State) : Host.Outcome State Fault Refusal :=
  .next (s.begin b c 0x0B fun w s =>
    match s.engineRead (s.cpCtx b c) w.d1 64 64 with
    | (.error _, s) => s.rejectCmd b c w 0x0D
    | (.ok bs, s) =>
      let (id, s) := s.fresh
      let k : Coll := ⟨id, c, Fin.ofNat 8 (s.ctx b c).part.toNat, w.off, bs, false, [], [], [], 0, none⟩
      ((s.modLinks b fun l => { l with colls := l.colls ++ [k] }).addCmd b c w.off
        (.coll id)).startNext b c)

/-- A late contribution is counted (R65, R72). [DEDUCED, log 41] -/
def State.countLate (s : State) (b : Beam) : State :=
  s.modLinks b fun l => { l with late := if l.late = 0xFFFF then l.late else l.late + 1 }

/-- Whether a contribution is one that a collective expects: of another rank, from its accelerator ID, to a chunk that
this rank writes. -/
def Coll.expects (k : Coll) (a : Contribution) : Bool :=
  k.chunks.contains a.chunk && (k.sources a.chunk).contains a.rank && a.rank != k.rank &&
    (!k.started || k.peers.getD a.rank 0 == a.peer)

/-- CONTRIBUTION_ARRIVAL (R64, R65, R69): a peer's contribution is kept, and its chunk completes once it has
them all; one for a chunk that has completed is late, and is counted by the engine where it arrives. [DEDUCED, log 41]
One whose accelerator ID, rank or length is not what the collective expects, or a second one of a rank that it holds, is
dropped without effect: the spec names no such case. [DESIGN CHOICE, log 41] -/
def execContributionArrival (b : Beam) (a : Contribution) (s : State) : Host.Outcome State Fault Refusal :=
  let h := s.collBeam b a.coll
  .next (match s.coll? h a.coll with
    | none =>
      if [(0 : Beam), 1].any fun b => (s.beam b).links.ended.any fun k =>
          k.id == a.coll && k.expects a && k.isDone a.chunk then s.countLate b
      else s
    | some k =>
      match k.unwire (k.span a.chunk).2 a.data with
      | none => s
      | some bs =>
        if !k.expects a then s
        else if k.isDone a.chunk then s.countLate b
        else if k.got.any fun x => x.chunk == a.chunk && x.rank == a.rank then s
        else (s.modColl h k.id fun k => { k with got := k.got ++ [{ a with data := bs }] }).tryChunk h k.id a.chunk)

/-- COLL_TIMEOUT (R64): a chunk whose contributions have not all arrived completes as partial. -/
def execCollTimeout (b : Beam) (k chunk : Nat) (s : State) : Host.Outcome State Fault Refusal :=
  let b := s.collBeam b k
  .next (match s.coll? b k with
    | none => s
    | some c =>
      if c.started && c.fate.isNone && c.timeout != 0 && c.chunks.contains chunk && !c.isDone chunk then
        s.endChunk b c chunk
      else s)

/-- The bytes of a completion record after its word 0 (R66): CODE, zeros, and the masks; a collective that
was rejected has no chunks. [DEDUCED, log 41] -/
def Coll.recordTail (k : Coll) : List Byte :=
  let result := (k.fate.getD (0, 0)).1
  leBytes 4 (k.fate.getD (0, 0)).2.toNat ++ List.replicate 56 0 ++
    (if result = 2 then []
     else k.chunks.flatMap fun j => leBytes 32 (((k.done.find? fun d => d.1 == j).getD (j, 0)).2).toNat)

/-- Word 0 of a completion record (R66). -/
def Coll.recordWord (k : Coll) : Nat :=
  let result : BitVec 2 :=
    match k.fate with
    | some f => f.1
    | none => if k.partials = 0 then 0 else 1
  lay [(31, 1), (29, result.toNat), (0, k.partials % 2 ^ 16)]

/-- Start the next collective of every context of a beam whose earlier ones are over (R67). -/
def State.startEach (s : State) (b : Beam) : State := (List.finRange 16).foldl (fun s c => s.startNext b c) s

/-- The pieces in which a record's tail is written: words, or bytes where RECORD is no word's address, which only a
rejected collective comes to (R61). [DEDUCED, log 41] -/
def Coll.recordUnit (k : Coll) : Nat := if k.record % 4 = 0 then 4 else 1

/-- Pieces of a list, of one length. -/
def pieces (n : Nat) (bs : List Byte) : List (List Byte) :=
  (List.range (bs.length / n)).map fun i => (bs.drop (n * i)).take n

/-- COLL_COMPLETE (R66): the record is written, its word 0 last, and the next collective of the stream
starts. -/
def execCollComplete (b : Beam) (k : Nat) (s : State) : Host.Outcome State Fault Refusal :=
  let b := s.collBeam b k
  .next (match s.coll? b k with
    | none => s.startEach b
    | some c =>
      if c.started && (c.fate.isSome || c.chunks.all c.isDone) then
        let x := s.collCtx b c
        let n := c.recordUnit
        let s :=
          match s.writeElems x (c.record + 4) n (pieces n c.recordTail) with
          | (some _, s) => s.recordFault b c
          | (none, s) =>
            match s.writeElems x c.record n (pieces n (leBytes 4 c.recordWord)) with
            | (some _, s) => s.recordFault b c
            | (none, s) => s.retireColl b c
        s.startEach b
      else s)

end Sys2Proof.Machine
end

