-- ==== Sys2Proof/Machine/Tiles.lean ====
section
/-! DEFINITION. The tile table (R183 to R188, R193): entries and their images, iterator records, the
layout of tiles in scratch, and the words of MAJ 0x2C (R411 to R417). -/

namespace Sys2Proof.Machine

/-! ## The image (R184) -/

/-- STATE of the image (R184, R186). -/
def Tile.code (t : Tile) : Nat :=
  if t.counted then (if t.count = 0 then 1 else 2)
  else
    match t.state with
    | .empty => 0
    | .filling => 1
    | .ready => 2
    | .draining => 3

/-- The 128-byte image of an entry, with its BASE field as given; zeros for an unmapped name (R184,
R416). -/
def Tile.imageAt (t : Tile) (base : Nat) : List Byte :=
  if !t.mapped then List.replicate 128 0
  else
    leBytes 8 (lay [(56, t.head.toNat), (47, t.count.toNat), (38, if t.counted then t.rsv.length else 0),
      (30, t.drops.toNat), (12, t.fmt.toNat), (11, t.hmc.toNat), (10, t.arm.toNat), (9, t.counted.toNat),
      (8, 1), (0, t.code)]) ++
    leBytes 8 (lay [(56, t.rows.toNat), (40, t.cols.toNat), (28, t.pitch.toNat), (0, base)]) ++
    leBytes 32 t.holes.toNat ++ List.replicate 16 0 ++ t.iter.bytes

/-- The image that a group image holds (R265). -/
def Tile.image (t : Tile) : List Byte := t.imageAt t.base.toNat

/-- The image that TSTAT writes: of a counted entry, BASE is the head slot's offset (R416). -/
def Tile.statImage (t : Tile) : List Byte :=
  t.imageAt (if t.counted then t.rowAt t.head.toNat / 16 else t.base.toNat)

/-- The entry of an image (R184). -/
def Tile.ofImage (b : List Byte) : Tile :=
  let w0 := leVal (b.take 8)
  let w1 := leVal ((b.drop 8).take 8)
  if !w0.testBit 8 then Tile.free
  else
    { Tile.free with
      mapped := true
      counted := w0.testBit 9
      arm := w0.testBit 10
      state :=
        match w0 % 4 with
        | 0 => .empty
        | 1 => if w0.testBit 9 then .empty else .filling
        | 2 => if w0.testBit 9 then .empty else .ready
        | _ => .draining
      hmc := w0.testBit 11
      fmt := BitVec.ofNat 4 (w0 / 2 ^ 12)
      head := BitVec.ofNat 8 (w0 / 2 ^ 56)
      count := BitVec.ofNat 9 (w0 / 2 ^ 47)
      drops := BitVec.ofNat 8 (w0 / 2 ^ 30)
      rows := BitVec.ofNat 8 (w1 / 2 ^ 56)
      cols := BitVec.ofNat 16 (w1 / 2 ^ 40)
      pitch := BitVec.ofNat 12 (w1 / 2 ^ 28)
      base := BitVec.ofNat 15 w1
      holes := BitVec.ofNat 256 (leVal ((b.drop 16).take 32))
      iter := Iter.ofBytes ((b.drop 64).take 64) }

/-! ## Rejection and holds (R412) -/

/-- Reject a tile instruction: the page-protection fault, imprecise, with SPACE scratch (R412).
[DEDUCED, log 25] -/
def State.reject (s : State) (addr : Nat) (excl : Bool) : State :=
  s.modW fun w => w.addFault (engineFault w.issued 1 excl 4 0x10 (BitVec.ofNat 64 addr))

/-- The entry that a word of the warp at issue names. -/
def State.entry (s : State) (n : TileName) : Tile := (s.tile s.rd.place.gid n).getD Tile.free

/-- The bytes of the group's scratch that an instruction of the warp at issue reads, its own stores in
flight included (R225). -/
def State.scratchRead (s : State) (a n : Nat) : List Byte × State :=
  let w := s.rd
  let x := Loc.scratch w.place.gid a
  let fwd := s.forward w.place.wid w.place.core (s.w.issued + 1)
  let (bs, s) := s.readHome x n
  (overlayAll x bs fwd, s)

/-- The iterator record at a scratch offset, as an element that the warp at issue reads (R413). -/
def State.iterRecord (s : State) (a : Nat) : Elem := watchElem (.scratch s.rd.place.gid a) none 64 (BitVec.ofNat 64 a) (BitVec.ofNat 64 a)

/-! ## Words of MAJ 0x2C (R411 to R416) -/

/-- ITSET: the record in scratch becomes the entry's iterator (R413); it is read after the warp's earlier acquires have
completed and its earlier accesses to the record that must come first have performed (R225, R229), and a record with an
uncorrectable error kills the group (R272). [DEDUCED, log 15, 24] -/
def execItset (x : Ext) (n : TileName) (a : SReg) (s : State) : Host.Outcome State Fault Refusal :=
  issueWord (.itset x n a) s fun s => s.warpWord x fun s =>
    let w := s.rd
    let t := s.entry n
    let at_ := (w.sget a).toNat
    if t.mapped && !tileMeets t .idle then s.retryWith (.tile n .idle)
    else if !t.mapped || at_ % 64 != 0 || decide (w.env.scratch < at_ + 64) then s.reject at_ false
    else if s.acquiring w.place.wid || s.heldAcquire w.place.wid s.w.issued then s.retryWith .acquire
    else if s.behindAtomic w.place.wid [s.iterRecord at_] ||
        !s.loadsReadable w.place.wid (s.w.issued + 1) [s.iterRecord at_] then s.retryWith .behind
    else if (s.poisonAt (.scratch w.place.gid at_) 64).isSome then s.scratchKill w.place.gid
    else
      let (b, s) := (s.settleLoads w.place.wid (s.w.issued + 1) [s.iterRecord at_]).scratchRead at_ 64
      if Iter.okBytes b then s.modTile w.place.gid n fun t => { t with iter := Iter.ofBytes b }
      else s.reject at_ false

/-- The entry that TDEF's layout and format words describe (R184, R414). [DEDUCED, log 24, 26] -/
def tdefTile (old : Tile) (a b : Word64) (arm counted : Bool) : Tile :=
  { Tile.free with
    mapped := true
    counted := counted
    arm := arm
    state := if arm then .filling else .empty
    fmt := b.setWidth 4
    rows := BitVec.ofNat 8 (bitsOf a 63 56)
    cols := BitVec.ofNat 16 (bitsOf a 55 40)
    pitch := BitVec.ofNat 12 (bitsOf a 39 28)
    base := BitVec.ofNat 15 (bitsOf a 14 0)
    iter := old.iter.setCnt 0 }

/-- TDEF: maps a name (R183, R185, R414); held for a free entry, or for the entry to be EMPTY.
[DEDUCED, log 24] -/
def execTdef (x : Ext) (n : TileName) (a b : SReg) (k m : Bool) (s : State) :
    Host.Outcome State Fault Refusal :=
  issueWord (.tdef x n a b k m) s fun s => s.warpWord x fun s =>
    let w := s.rd
    let t := s.entry n
    let lw := w.sget a
    let fw := w.sget b
    let new := tdefTile t lw fw m k
    if !t.mapped && decide (64 ≤ s.tilesUsed w.place.core) then s.retryWith .tdef
    else if !tileMeets t .mappable then s.retryWith (.tile n .mappable)
    else if bitsOf lw 27 15 != 0 || bitsOf fw 63 4 != 0 || !new.layoutOk w.env.scratch then
      s.reject new.offset false
    else s.modTile w.place.gid n fun _ => new

/-- TFREE: frees a plain entry, or consumes the head slot of a counted one (R185, R186, R415).
[DEDUCED, log 24] -/
def execTfree (x : Ext) (n : TileName) (s : State) : Host.Outcome State Fault Refusal :=
  issueWord (.tfree x n) s fun s => s.warpWord x fun s =>
    let t := s.entry n
    if !t.mapped then s
    else s.unless (tileMeets t .freeable) (.tile n .freeable) fun s =>
      s.modTile s.rd.place.gid n fun t =>
        if t.counted then t.consume
        else { t with state := .empty, arm := false, holes := 0, hmc := false, iter := t.iter.setCnt 0 }

/-- TSTAT: the entry's image in every lane of vA (R416). [DEDUCED, log 24] -/
def execTstat (x : Ext) (n : TileName) (a : VOp) (s : State) : Host.Outcome State Fault Refusal :=
  issueWord (.tstat x n a) s fun s => s.warpWord x fun s =>
    let t := s.entry n
    let b := t.statImage
    s.unless (!t.mapped || !t.counted || tileMeets t .count) (.tile n .count) fun s =>
      s.vput (s.rd.vidx x a) (BitVec.allOnes 32) fun l =>
        BitVec.ofNat 32 (leVal ((b.drop (4 * l)).take 4))

/-! ## Copies at issue (R188, R192, R417) -/

/-- The units of a copy (R188, R417). -/
def copyUnits (t : Tile) : Nat :=
  let u := fmtUnit t.fmt
  min t.iter.count (if t.counted then t.ncols / u else t.nrows * t.ncols / u)

/-- Put a copy of the warp at issue into its cluster's queue (R189), and count it in CC. -/
def State.startCopy (s : State) (id : Nat) (n : TileName) (t : Tile) (kind : CopyKind) (tr filling : Bool)
    (slot : Option (BitVec 8)) : State :=
  let w := s.rd
  let c : Copy :=
    { id := id, wid := w.place.wid, gid := w.place.gid, bid := w.place.bid
      cluster := coreCluster w.place.core, origin := coreCluster w.place.core, seq := s.w.issued, name := n, kind := kind, src := t, tr := tr
      filling := filling, slot := slot, running := false, paused := false, sent := none, lines := [], next := t.iter.start
      total := copyUnits t, resume := none, oldHoles := t.holes, holes := 0, stopped := false
      xlat := .none, used := [], kept := false, before := [] }
  { s.modW fun w => { w with cnt := w.cnt.push .cc id false } with copies := s.copies ++ [c] }

/-- What a copy into or out of an entry needs of it (R417). -/
def copyNeed (t : Tile) (out : Bool) : TileNeed :=
  match t.counted, out with
  | false, false => .fill
  | false, true => .ready
  | true, false => .slot
  | true, true => .count

/-- Start a copy into an entry: it is FILLING, or a slot of it is reserved (R185, R186). [DEDUCED, log 28] -/
def State.copyIn (s : State) (n : TileName) (t : Tile) (kind : CopyKind) (tr : Bool) : State :=
  let (id, s) := s.fresh
  let gid := s.rd.place.gid
  if t.counted then
    (s.modTile gid n fun t => t.reserve id).startCopy id n t kind tr false (some t.nextSlot)
  else
    (s.modTile gid n fun t => { t with state := .filling, iter := { t.iter with tr := tr } }).startCopy id
      n t kind tr (t.state == .ready) none

/-- Start a copy out of an entry: it is DRAINING, or its head slot is being read (R185, R417).
[DEDUCED, log 28, 35] -/
def State.copyOut (s : State) (n : TileName) (t : Tile) (tr : Bool) : State :=
  let (id, s) := s.fresh
  let gid := s.rd.place.gid
  if t.counted then
    (s.modTile gid n fun t => { t with outRead := t.outRead + 1 }).startCopy id n t .out tr false
      (some t.head)
  else
    (s.modTile gid n fun t => { t with state := .draining, iter := { t.iter with tr := tr } }).startCopy
      id n t .out tr false none

/-- Hold a copy where its counter is full (R157), or where an acquire before the warp's OFENCE has not completed
(R239). -/
def State.copyUnless (s : State) (f : State → State) : State :=
  s.unless (!s.w.counterFull .cc) (.counter .cc) fun s => s.unless (!s.fencedAcquire) .acquire f

/-- A copy of the warp at issue (R412, R417): rejected, held, or started. [DEDUCED, log 24] -/
def State.copyWord (s : State) (n : TileName) (tr out : Bool) : State :=
  let t := s.entry n
  if !t.mapped then s.reject n.toNat false
  else if t.iter.fmt != t.fmt || (tr && (fmtMx t.fmt || t.counted)) then s.reject t.offset false
  else s.copyUnless fun s =>
    s.unless (tileMeets t (copyNeed t out)) (.tile n (copyNeed t out)) fun s =>
      if out then s.copyOut n t tr else s.copyIn n t .inn tr

/-- CPY: a copy into or out of an entry (R417). -/
def execCpy (x : Ext) (n : TileName) (out : Bool) (s : State) : Host.Outcome State Fault Refusal :=
  issueWord (.cpy x n out) s fun s => s.warpWord x fun s => s.copyWord n false out

/-- CPYT: a transposing copy (R188, R417). -/
def execCpyt (x : Ext) (n : TileName) (out : Bool) (s : State) : Host.Outcome State Fault Refusal :=
  issueWord (.cpyt x n out) s fun s => s.warpWord x fun s => s.copyWord n true out

/-- CPYM: a copy to the armed entries of the clusters in a mask (R192, R417). -/
def execCpym (x : Ext) (n : TileName) (a : SReg) (s : State) : Host.Outcome State Fault Refusal :=
  issueWord (.cpym x n a) s fun s => s.warpWord x fun s =>
    let w := s.rd
    let t := s.entry n
    let mask : BitVec 48 := (w.sget a).setWidth 48
    let own := mask.getLsbD (coreCluster w.place.core % 48)
    if !t.mapped then s.reject n.toNat true
    else if t.iter.fmt != t.fmt then s.reject t.offset true
    else s.copyUnless fun s =>
      let need : TileNeed := if t.counted then .slot else .empty
      s.unless (!own || tileMeets t need) (.tile n need) fun s =>
        let s := s.modTile w.place.gid n fun t => { t with drops := 0 }
        if own then s.copyIn n t (.mcast mask) false
        else
          let (id, s) := s.fresh
          s.startCopy id n t (.mcast mask) false false none

end Sys2Proof.Machine
end

