-- ==== Sys2Proof/Machine/Copies.lean ====
section
/-! DEFINITION. The shuttles (R188 to R193, R209 to R213): copies run one at a time in a cluster, unit
by unit, into entries, out of them, or to the armed entries of other clusters. -/

namespace Sys2Proof.Machine

/-- Change a copy. -/
def State.modCopy (s : State) (id : Nat) (f : Copy → Copy) : State :=
  { s with copies := s.copies.map fun c => if c.id = id then f c else c }

/-- The copy that runs in a cluster. -/
def State.runningCopy (s : State) (cl : Nat) : Option Copy :=
  s.copies.find? fun c => c.cluster == cl && c.running

/-! ## The far side of a unit (R172, R173, R191, R202) -/

/-- Count one hit for the entry that a copy's translation used, once for each entry (R213). -/
def State.copyHit (s : State) (c : Copy) (w : Warp) (va : Nat) : State :=
  match s.hitOnce w c.used va with
  | (some k, s) => s.modCopy c.id fun c => { c with used := k :: c.used }
  | (none, s) => s

/-- Translate or check the far side of a unit of a copy (R173, R191, R202). [DEDUCED, log 19] -/
def State.unitXlat (s : State) (c : Copy) (w : Warp) (n : Nat) : UnitXlat × State :=
  let p := c.src.iter.place n
  let acc : Access := if c.isOut then .store else .load
  let k := (s.part w.env.part).sweeps
  if !fmtMx c.src.fmt && p.1.toNat % (fmtBits c.src.fmt / 8) != 0 then (.bad k 0x13, s)
  else if c.src.iter.vault then
    if w.env.vaultGrant p.1 c.isOut then (.at k [.vault p.1.toNat], s) else (.bad k 0x14, s)
  else
    match s.resolveVa w acc p.1 false with
    | (.ok loc _ _, s) => (.at k [loc], s.copyHit c w p.1.toNat)
    | (.zero _, s) => (.hole k, s.copyHit c w p.1.toNat)
    | (.bad _ cause _, s) => (.bad k cause, s)

/-- Raise the fault of a copy in the warp that issued it (R191, R256). [DEDUCED, log 19] -/
def State.copyFault (s : State) (c : Copy) (n : Nat) (cause : BitVec 8) (struct : BitVec 4) (late : Bool) : State :=
  let excl := match c.kind with
    | .mcast _ => true
    | .inn | .out => false
  s.modWarp c.wid fun w => w.addFault
    { faultRec c.seq (if c.src.iter.vault then 3 else 0) excl 0 4 cause (c.src.iter.unitAddr n) with
      flanes := 0, struct := struct, remoteTo := late }

/-! ## Destinations (R190, R192) -/

/-- Mark the entries that receive a multicast copy at its first unit (R192). [DEDUCED, log 28] -/
def State.markReceivers (s : State) (c : Copy) : State :=
  match c.kind with
  | .mcast mask =>
    (s.receivers c mask true).foldl (fun s gid =>
      s.modTile gid c.name fun t => { t with rsv := [⟨c.id, false⟩] }) s
  | .inn | .out => s

/-- A copy writes zeros over the row or column group of a HOLES bit of an entry (R190). -/
def State.zeroHole (s : State) (id gid : Nat) (t : Tile) (slot : Option (BitVec 8)) (cols : Bool)
    (bit : Nat) : State :=
  let zero := fun (s : State) (off n : Nat) => s.fillScratch id gid off (List.replicate n 0)
  match slot with
  | some k => zero s (t.rowAt k.toNat) t.rowBytes
  | none =>
    if cols then
      let w := fmtBits t.fmt / 8
      let lo := bit * t.groupCols
      let n := min t.groupCols (t.ncols - lo)
      (List.range t.nrows).foldl (fun s r => zero s (t.rowAt r + lo * w) (n * w)) s
    else zero s (t.rowAt bit) t.rowBytes

/-! ## One unit (R189 to R191) -/

/-- A unit of a copy in from a non-resident page: its row or column group is a hole (R190).
[DEDUCED, log 27] -/
def State.unitHole (s : State) (c : Copy) (n : Nat) : State :=
  let bit := c.bit n
  let s := (s.copyDests c).foldl (fun s gid =>
    match s.tile gid c.name with
    | none => s
    | some t =>
      let slot := c.slotIn gid
      let b := holeBit t c.byCols slot (unitPlace t c.tr n)
      let s := s.zeroHole c.id gid t slot c.byCols b
      let first := gid = c.gid ∧ c.resume.isNone
      s.modTile gid c.name fun t =>
        { t with
          holes := t.holes ||| BitVec.twoPow 256 b
          hmc := if slot.isNone then c.byCols else t.hmc
          iter := if first then t.iter.setCnt (c.firstOf bit) else t.iter }) s
  s.modCopy c.id fun c =>
    { c with
      holes := c.holes ||| BitVec.twoPow 256 bit
      resume := c.resume.or (some (c.firstOf bit)) }

/-- The rows or column groups that a stopped copy in has not written (R191). [DEDUCED, log 27] -/
def Copy.unwritten (c : Copy) (n : Nat) : BitVec 256 :=
  match c.slot with
  | some k => BitVec.twoPow 256 k.toNat
  | none =>
    (List.range 256).foldl (fun m i =>
      let reach := if c.byCols == c.tr then decide (c.bit n ≤ i) else true
      if reach && decide (c.firstOf i < c.total) &&
          (!c.filling || c.oldHoles.getLsbD i) then m ||| BitVec.twoPow 256 i
      else m) 0

/-- A unit of a copy fails (R191): the fault goes to its warp; a copy out goes on past a non-resident
page, and every other failure stops the copy. [DEDUCED, log 27] -/
def State.unitBad (s : State) (c : Copy) (n : Nat) (cause : BitVec 8) (struct : BitVec 4)
    (late : Bool := false) : State :=
  let s := s.copyFault c n cause struct late
  if c.isOut && cause == 0x11 then s
  else
    let rest := if c.isOut then 0 else c.unwritten n
    let s := (s.copyDests c).foldl (fun s gid =>
      if gid = c.gid then s else s.modTile gid c.name fun t => { t with holes := t.holes ||| rest }) s
    s.modCopy c.id fun c =>
      { c with
        stopped := true
        holes := c.holes ||| rest
        resume := if c.isOut then none else c.resume.or (some (c.firstOf (c.bit n))) }

/-- Move one unit of a copy whose far side is at a location; what it writes to memory is no longer in the
issuing core's L1 (R232, R241), and what it sends to a peer it waits for (R58). -/
def State.unitMove (s : State) (c : Copy) (w : Warp) (n : Nat) (loc : Loc) : State :=
  if c.isOut then
    if (c.near n).any fun x => (s.poisonAt (.scratch c.gid x.1) x.2).isSome then s.scratchKill c.gid
    else
      let s := s.unitOut c w n loc
      if loc.remote then s.modCopy c.id fun c => { c with sent := some (n, c.xlat.sweep?.getD (s.part w.env.part).sweeps) } else s
  else
    match s.unitFar c w n loc with
    | (.error e, s) => s.unitBad c n e.1 e.2
    | (.ok bs, s) => s.unitIn c n bs

/-- Hold the translation of the next unit of a copy (R210). [DEDUCED, log 29] -/
def State.holdNext (s : State) (id : Nat) : State :=
  match s.copies.find? fun c => c.id == id with
  | none => s
  | some c =>
    match s.warp? c.wid, c.nextUnit with
    | some w, some n =>
      if c.stopped || c.src.iter.vault then s
      else
        let (x, s) := s.unitXlat c w n
        s.modCopy id fun c => { c with xlat := x }
    | _, _ => s

/-- The lines of memory that a unit of a copy asks its homes for (R181): those that the unit before it did not. -/
def State.unitLines (s : State) (c : Copy) (n : Nat) (loc : Loc) : State :=
  match loc with
  | .phys pa =>
    if isRemote pa then s
    else
      let d := clusterDie c.cluster
      let ls := (c.src.iter.place n).2.flatMap fun x => [(pa + x.1) / 128, (pa + x.1 + x.2 - 1) / 128]
      let ls := ls.eraseDups
      ((ls.filter fun l => !c.lines.contains l).foldl (fun s l => s.lineRequest (some d) (s.homeOf (128 * l))) s).modCopy
        c.id fun c => { c with lines := ls }
  | .scratch _ _ | .vault _ | .reed _ _ => s

/-- A hole-filling copy clears the HOLES bit of a row or column group with the last unit of it, where no unit of
it was a hole again (R190). -/
def State.clearHole (s : State) (id n : Nat) : State :=
  match s.copies.find? fun c => c.id == id with
  | none => s
  | some c =>
    let b := c.bit n
    if c.kind == .inn && c.filling && !c.stopped && n == c.lastOf b && decide (c.src.iter.start ≤ c.firstOf b) &&
        !c.holes.getLsbD b then
      s.modTile c.gid c.name fun t => { t with holes := t.holes &&& ~~~(BitVec.twoPow 256 b) }
    else s

/-- Whether the far side of the next unit of a copy lies in the vaults of a ply that sleeps: the unit waits for it
(R19). -/
def State.vaultAsleep (s : State) (c : Copy) (w : Warp) (n : Nat) : Bool :=
  let va := (c.src.iter.place n).1
  c.src.iter.vault && w.env.vaultGrant va c.isOut && s.vaultDown (.vault va.toNat)

/-- Whether the next unit of a copy holds an older translation and comes to its slice after a sweep's visit: it is
translated again (R210). -/
def State.unitPassed (s : State) (c : Copy) (w : Warp) : Bool :=
  c.xlat.sweep?.elim false (fun k => decide (k < (s.part w.env.part).sweeps)) && c.xlat.locs.any (s.visited w.env.part)

/-- Move the next unit of a copy, and hold the translation of the one after it. [DEDUCED, log 29] -/
def State.copyUnit (s : State) (c : Copy) (w : Warp) (n : Nat) : State :=
  let s := if c.next = c.src.iter.start then s.markReceivers c else s
  let (x, s) :=
    match c.xlat with
    | .none => s.unitXlat c w n
    | x => (x, s)
  let s :=
    match x with
    | .at _ [loc] => (s.unitLines c n loc).unitMove c w n loc
    | .hole _ => s.unitHole c n
    | .bad _ cause => s.unitBad c n cause 0
    | .none | .at _ _ => s
  let s := s.clearHole c.id n
  (s.modCopy c.id fun c => { c with next := n + 1, xlat := .none }).holdNext c.id

/-! ## The end of a copy (R189 to R192, R417) -/

/-- HOLES of a plain entry after a copy in (R190): new holes, and those that a hole-filling copy has not
filled whole. [DEDUCED, log 27] -/
def Copy.finalHoles (c : Copy) : BitVec 256 :=
  let missed := (List.range 256).foldl (fun (m : BitVec 256) i =>
    if c.oldHoles.getLsbD i && (decide (c.firstOf i < c.src.iter.start) || decide (c.total ≤ c.lastOf i))
    then m ||| BitVec.twoPow 256 i else m) 0
  c.holes ||| (if c.filling then missed else 0)

/-- The entry of a copy in once it is complete (R185, R186, R190). -/
def Copy.filled (c : Copy) (t : Tile) : Tile :=
  let iter := t.iter.setCnt (c.resume.getD 0)
  match c.slot with
  | some k =>
    let b := BitVec.twoPow 256 k.toNat
    { t.finishSlot c.id with
      holes := if c.holes = 0 then t.holes &&& ~~~b else t.holes ||| b
      iter := iter }
  | none =>
    { t with
      state := .ready
      holes := c.finalHoles
      hmc := c.finalHoles != 0 && c.byCols
      iter := iter }

/-- The clusters of a mask on which a multicast copy found no entry (R192). -/
def State.drops (s : State) (c : Copy) (mask : BitVec 48) : Nat :=
  let got := (s.copyDests c).filterMap fun gid =>
    if gid = c.gid then some (c.origin % 48)
    else (s.group? gid).map fun g => coreCluster g.core % 48
  ((List.range 48).filter fun i => mask.getLsbD i && !got.contains i).length

/-- A copy is complete: its entries change state, and then CC falls (R189); a multicast copy that does not fill its own
entry leaves that entry's resume counters as they were, though a save has used them (R191). [DEDUCED, log 28] -/
def State.endCopy (s : State) (c : Copy) : State :=
  let s :=
    match c.kind with
    | .out => s.modTile c.gid c.name fun t =>
        let t := { t with iter := t.iter.setCnt 0 }
        if c.slot.isSome then { t with outRead := t.outRead - 1 } else { t with state := .ready }
    | .inn => s.modTile c.gid c.name c.filled
    | .mcast mask =>
      let n := s.drops c mask
      let got := (s.copyDests c).filter (· != c.gid)
      let s := got.foldl (fun (s : State) gid => s.modTile gid c.name fun t =>
        { t with state := .ready, arm := false, rsv := [], hmc := t.holes != 0 && c.byCols }) s
      let s :=
        if c.ownEntry then s.modTile c.gid c.name c.filled
        else if c.kept then s.modTile c.gid c.name fun t => { t with iter := t.iter.setCnt c.src.iter.start }
        else s
      s.modTile c.gid c.name fun t => { t with drops := BitVec.ofNat 8 (min 255 n) }
  ({ s with copies := s.copies.filter fun d => d.id != c.id }).finish c.wid c.id

/-! ## Events -/

/-- COPY_START (R189): a cluster's shuttle starts its next copy, in the order of issue. -/
def execCopyStart (cl : Nat) (s : State) : Host.Outcome State Fault Refusal :=
  .next (if (s.runningCopy cl).isSome then s
    else
      match s.copies.find? fun c => c.cluster == cl && !c.paused with
      | some c => (s.modCopy c.id fun c => { c with running := true }).holdNext c.id
      | none => s)

/-- COPY_UNIT_WRITE (R188): the next unit of the copy that runs in a cluster is moved, holed or
faulted, unless the vault that it needs is not accessible (R19). -/
def execCopyUnitWrite (cl : Nat) (s : State) : Host.Outcome State Fault Refusal :=
  .next (match s.runningCopy cl with
    | none => s
    | some c =>
      match s.warp? c.wid, c.nextUnit with
      | some w, some n => if c.stopped || c.sent.isSome || s.vaultAsleep c w n || s.unitPassed c w then s else s.copyUnit c w n
      | _, _ => s)

/-- COPY_COMPLETE (R189): the copy that runs in a cluster has no unit left. -/
def execCopyComplete (cl : Nat) (s : State) : Host.Outcome State Fault Refusal :=
  .next (match s.runningCopy cl with
    | none => s
    | some c => if c.sent.isNone && (c.stopped || c.nextUnit.isNone) then s.endCopy c else s)

/-! ## Units with a peer (R56, R58, R59) -/

/-- The peer has answered a unit of a copy out: it is written there, or has been rejected (R56). -/
def State.copyAnswered (s : State) (c : Copy) : State :=
  match c.sent with
  | none => s
  | some (n, _) =>
    let s := s.modCopy c.id fun c => { c with sent := none }
    match s.accepted with
    | (true, s) => s
    | (false, s) => s.unitBad c n 0x10 0

/-- The unit of a copy that waits for its peer: one sent out, or the next one in. -/
def Copy.waitsFor (c : Copy) : Option Nat :=
  match c.sent with
  | some (n, _) => some n
  | none =>
    match c.xlat with
    | .at _ [loc] => if loc.remote && !c.isOut && c.running && !c.stopped then c.nextUnit else none
    | .at _ _ | .none | .hole _ | .bad _ _ => none

/-- The peer gives a unit of a copy no answer (R59, R191). -/
def State.copyTimedOut (s : State) (c : Copy) : State :=
  match c.waitsFor with
  | none => s
  | some n =>
    let s := s.modCopy c.id fun c => { c with sent := none }
    s.unitBad c n 0x10 0 true

end Sys2Proof.Machine
end

