-- ==== Sys2Proof/Machine/Convert.lean ====
section
/-! DEFINITION. Conversions: SCVT (R342, R343), VCVT, VPACK and VUNPACK of MAJ 0x15 (R374 to R378), and
the scale-register words of MAJ 0x16 (R379, R380). -/

namespace Sys2Proof.Machine

/-! ## Conversion (R343) -/

/-- The floating-point format of a conversion type, if it is one. -/
def ntyFmt : NTy → Option FFmt
  | .f32 => some fp32
  | .f16 => some fp16
  | .bf16 => some bf16
  | .e4m3 => some e4m3
  | .e5m2 => some e5m2
  | .e2m3 => some e2m3
  | .e3m2 => some e3m2
  | .e2m1 => some e2m1
  | .i8 | .i16 | .i32 | .u32 | .i64 | .ts8 => none

/-- The bits of a conversion type's value. -/
def ntyBits : NTy → Nat
  | .f32 | .i32 | .u32 => 32
  | .f16 | .bf16 | .i16 => 16
  | .e4m3 | .e5m2 | .i8 | .ts8 => 8
  | .e2m3 | .e3m2 => 6
  | .e2m1 => 4
  | .i64 => 64

/-- The least and greatest values of an integer type (R279). -/
def ntyBounds (t : NTy) : Int × Int :=
  if t = .u32 then (0, 2 ^ 32 - 1) else (-(2 ^ (ntyBits t - 1) : Nat), (2 ^ (ntyBits t - 1) : Nat) - 1)

/-- Read a value of a type from the low bits of a register (R342, R375). -/
def ntyRead (t : NTy) (v : Nat) : Val :=
  match ntyFmt t with
  | some f => f.val (v % 2 ^ ntyBits t)
  | none =>
    let n := v % 2 ^ ntyBits t
    .num (Num.ofInt (if t = .u32 then (n : Int) else (BitVec.ofNat (ntyBits t) n).toInt))

/-- Convert a value to a type: a float's code, or an integer (R343). -/
def ntyConvert (t : NTy) (rz : Bool) (x : Val) : Int :=
  match ntyFmt t with
  | some f => f.ofVal (if rz then .rz else .rne) x
  | none =>
    let (lo, hi) := ntyBounds t
    match x with
    | .nan _ _ => 0
    | .inf n => if n then lo else hi
    | .num y => max lo (min hi (y.toInt rz))

/-- SCVT: a scalar conversion (R342, R343). -/
def execScvt (x : Ext) (t u : NTy) (d a : SReg) (rz : Bool) (s : State) : Host.Outcome State Fault Refusal :=
  issueWord (.scvt x t u d a rz) s fun s =>
    s.writeS x d fun r =>
      BitVec.ofInt 64 (ntyConvert t rz (ntyRead u (r.sget a).toNat))

/-- VCVT: a conversion in each active lane (R375). -/
def execVcvt (x : Ext) (t u : NTy) (d a : VOp) (rz : Bool) (s : State) : Host.Outcome State Fault Refusal :=
  issueWord (.vcvt x t u d a rz) s fun s =>
    s.vecWord x d [a] fun r l =>
      BitVec.ofInt 32 (ntyConvert t rz (ntyRead u (r.lane (r.vidx x a) l).toNat))

/-! ## MX register images (R363) -/

/-- The 1,024 bits of a vector register, byte b of R363 at bits [8b + 7 : 8b]. -/
def Warp.image (w : Warp) (i : Nat) : Nat := packCodes 32 ((w.vget i).toList.map BitVec.toNat)

/-- The blocks of a format: its element bits and the block's element codes (R363, R193). -/
def blockAt (bits image j : Nat) : Nat := image / 2 ^ (32 * bits * j) % 2 ^ (32 * bits)

/-- The elements of the block of a register that one VPACK source yields (R377): the lanes outside a
set read as +0.0. -/
def Warp.packRow (w : Warp) (i : Nat) (g : Lanes) : List Nat :=
  (List.range 32).map fun l => if g.getLsbD l then (w.lane i l).toNat else 0

/-- Fold blocks of FP32 values into an MX register image and its scales (R377, R439): the scales in
the slots of the scale register, and the blocks side by side. -/
def foldBlocks (f : FFmt) (mode : Nat → Nat → Mode) (rows : List (List Nat)) : Nat × Nat :=
  let bs := rows.zipIdx.map fun r => requantise f (mode r.2) r.1
  (packCodes 8 (bs.map Prod.fst), packCodes (32 * f.bits) (bs.map fun b => packCodes f.bits b.2))

/-- Write an MX register image and its scales (R377): every lane and the whole scale register. -/
def State.putImage (s : State) (d : Nat) (scales image : Nat) : State :=
  (s.vput d (BitVec.allOnes 32) fun l => BitVec.ofNat 32 (codeAt 32 image l)).kput d
    (BitVec.ofNat 64 scales)

/-- VPACK to an MX format (R377): every lane of its sources is fetched, active or not (R361). -/
def State.packMx (s : State) (x : Ext) (f : FFmt) (n : Nat) (d a : VOp) : State :=
  let r := s.rd
  let g := s.lanes x
  if g = 0 then s
  else
    let i := r.vidx x a
    let bad := s.badWords (BitVec.allOnes 32) ((List.range n).map (i + ·)) []
    let p := foldBlocks f (fun _ _ => .rne) ((List.range n).map fun j => r.packRow (i + j) g)
    (if bad.isEmpty then s.putImage (r.vidx x d) p.1 p.2 else s.putImage (r.vidx x d) 0 0).regFault bad

/-- VPACK to a packed type (R376): element h comes from register vA + h. -/
def State.packPlain (s : State) (x : Ext) (t u : NTy) (d a : VOp) (rz : Bool) : State :=
  let n := packRegs t
  let i := s.rd.vidx x a
  let g := s.lanes x
  let bad := s.badWords g ((List.range n).map (i + ·)) []
  (s.vput (s.rd.vidx x d) g fun l =>
    if bad.any (RegPoison.inLane l) then 0
    else
      BitVec.ofNat 32 (packCodes (ntyBits t) ((List.range n).map fun h =>
        (ntyConvert t rz (ntyRead u (s.rd.lane (i + h) l).toNat) % (2 ^ ntyBits t : Nat)).toNat))).regFault bad

/-- VPACK: packs narrower elements, or folds FP32 registers into an MX register image (R376, R377). -/
def execVpack (x : Ext) (t u : NTy) (d a : VOp) (rz : Bool) (s : State) : Host.Outcome State Fault Refusal :=
  issueWord (.vpack x t u d a rz) s fun s =>
    match t with
    | .e4m3 => s.packMx x e4m3 4 d a
    | .e5m2 => s.packMx x e5m2 4 d a
    | .e2m3 => s.packMx x e2m3 4 d a
    | .e3m2 => s.packMx x e3m2 4 d a
    | .e2m1 => s.packMx x e2m1 8 d a
    | .f32 | .f16 | .bf16 | .i8 | .i16 | .i32 | .u32 | .i64 | .ts8 => s.packPlain x t u d a rz

/-- Lanes 0 to 23, which hold an FP6 image (R363). -/
def lowLanes24 : Lanes := 0x00FFFFFF

/-- VUNPACK of an MX format (R378): element l of each block in each active lane. -/
def State.unpackMx (s : State) (x : Ext) (bits n : Nat) (dec : Nat → Nat → Nat) (d a : VOp) : State :=
  let r := s.rd
  let g := s.lanes x
  let i := r.vidx x a
  let im := r.image i
  let sc := (r.kget i).toNat
  let fetched : Lanes := if bits = 6 then lowLanes24 else BitVec.allOnes 32
  let bad := if g = 0 then [] else s.badWords fetched [i] [i]
  ((List.range n).foldl (fun s j =>
    s.vput (r.vidx x d + j) g fun l =>
      if bad.isEmpty then
        BitVec.ofNat 32 (dec (codeAt 8 sc j) (codeAt bits (blockAt bits im j) l))
      else 0) s).regFault bad

/-- VUNPACK of a packed type (R376): element h widened into register vD + h. -/
def State.unpackPlain (s : State) (x : Ext) (t u : NTy) (d a : VOp) : State :=
  let r := s.rd
  let g := s.lanes x
  let i := r.vidx x a
  let bad := s.badWords g [i] []
  ((List.range (unpackRegs u)).foldl (fun s h =>
    s.vput (r.vidx x d + h) g fun l =>
      if bad.any (RegPoison.inLane l) then 0
      else BitVec.ofInt 32 (ntyConvert t false (ntyRead u (codeAt (ntyBits u) (r.lane i l).toNat h)))) s).regFault
    bad

/-- VUNPACK: widens packed or MX elements into consecutive registers (R376, R378). -/
def execVunpack (x : Ext) (t u : NTy) (d a : VOp) (s : State) : Host.Outcome State Fault Refusal :=
  issueWord (.vunpack x t u d a) s fun s =>
    match u with
    | .e4m3 => s.unpackMx x 8 4 e4m3.decodeMx d a
    | .e5m2 => s.unpackMx x 8 4 e5m2.decodeMx d a
    | .ts8 => s.unpackMx x 8 4 decodeTs8 d a
    | .e2m3 => s.unpackMx x 6 4 e2m3.decodeMx d a
    | .e3m2 => s.unpackMx x 6 4 e3m2.decodeMx d a
    | .e2m1 => s.unpackMx x 4 8 e2m1.decodeMx d a
    | .f32 | .f16 | .bf16 | .i8 | .i16 | .i32 | .u32 | .i64 => s.unpackPlain x t u d a

/-! ## Scale registers (R379, R380) -/

/-- KMOV: kD := kA (R379). -/
def execKmov (x : Ext) (d a : VOp) (s : State) : Host.Outcome State Fault Refusal :=
  issueWord (.kmov x d a) s fun s =>
    s.warpWord x fun s =>
      let r := s.rd
      let bad := s.badWords 0 [] [r.vidx x a]
      (s.kput (r.vidx x d) (if bad.isEmpty then r.kget (r.vidx x a) else 0)).regFault bad

/-- KSET: kD := sA (R379). -/
def execKset (x : Ext) (d : VOp) (a : SReg) (s : State) : Host.Outcome State Fault Refusal :=
  issueWord (.kset x d a) s fun s => s.warpWord x fun s => s.kput (s.rd.vidx x d) (s.rd.sget a)

/-- KGET: sD := kA (R379). -/
def execKget (x : Ext) (d : SReg) (a : VOp) (s : State) : Host.Outcome State Fault Refusal :=
  issueWord (.kget x d a) s fun s =>
    s.warpWord x fun s =>
      let r := s.rd
      let bad := s.badWords 0 [] [r.vidx x a]
      (s.modW fun w => w.sset d (if bad.isEmpty then r.kget (r.vidx x a) else 0)).regFault bad

/-- KAMAX: the MX scale codes of registers (R380). -/
def execKamax (x : Ext) (t : MxF) (d a : VOp) (s : State) : Host.Outcome State Fault Refusal :=
  issueWord (.kamax x t d a) s fun s =>
    s.warpWord x fun s =>
      let r := s.rd
      let i := r.vidx x a
      let n := mxBlocks t
      let bad := s.badWords (BitVec.allOnes 32) ((List.range n).map (i + ·)) []
      let sc := packCodes 8 ((List.range n).map fun j =>
        blockScale (mxFmt t) (r.packRow (i + j) (BitVec.allOnes 32)))
      (s.kput (r.vidx x d) (if bad.isEmpty then BitVec.ofNat 64 sc else 0)).regFault bad

end Sys2Proof.Machine
end

