-- ==== Sys2Proof/Machine/Loom.lean ====
section
/-! DEFINITION. The loom's arithmetic and the words of MAJ 0x2D at issue (R160 to R165, R288 to R291,
R419 to R440): operand rows, weight planes, accumulator tiles, and the requests that enter a cluster's
reservation table. -/

namespace Sys2Proof.Machine

/-! ## Formats (R317, R422) -/

/-- The value of an A element (R288, R422). -/
def aVal : AFmt → Nat → Val
  | .e4m3 => e4m3.val
  | .e5m2 => e5m2.val
  | .e2m3 => e2m3.val
  | .e3m2 => e3m2.val
  | .e2m1 => e2m1.val
  | .bf16 => bf16.val
  | .f16 => fp16.val

/-- The value of a B element; an MXTS8 element is its exact two-term value (R288, R422). -/
def bVal : BFmt → Nat → Val
  | .e4m3 => e4m3.val
  | .e5m2 => e5m2.val
  | .e2m3 => e2m3.val
  | .e3m2 => e3m2.val
  | .e2m1 => e2m1.val
  | .ts8 => fun c => .num ((Num.ofInt (ts8Val c)).scale (-6))
  | .bf16 => bf16.val
  | .f16 => fp16.val

/-- The FMT of the entries that pair with an A format (R422). -/
def aEntry : AFmt → BitVec 4
  | .e4m3 => 8
  | .e5m2 => 9
  | .e2m3 => 10
  | .e3m2 => 11
  | .e2m1 => 12
  | .bf16 | .f16 => 1

/-- The FMT of the entries that pair with a B format (R422). -/
def bEntry : BFmt → BitVec 4
  | .e4m3 => 8
  | .e5m2 => 9
  | .e2m3 => 10
  | .e3m2 => 11
  | .e2m1 => 12
  | .ts8 => 13
  | .bf16 | .f16 => 1

/-- The bits of an A element. -/
def aBits (f : AFmt) : Nat := fmtBits (aEntry f)
/-- The bits of a B element. -/
def bBits (f : BFmt) : Nat := fmtBits (bEntry f)

/-- The elements of a register row (R422). -/
def regK : AFmt → Nat
  | .e2m1 => 256
  | .e4m3 | .e5m2 | .e2m3 | .e3m2 | .bf16 | .f16 => 128

/-- Whether an A format goes with a plane's format (R423). -/
def sameFamily (a : AFmt) (b : BFmt) : Bool :=
  match a, b with
  | .bf16, .bf16 | .f16, .f16 => true
  | .bf16, _ | .f16, _ => false
  | _, .bf16 | _, .f16 => false
  | _, _ => true

/-! ## Tile operands (R421, R422) -/

/-- The size of a row within a slot (R421). -/
def Tile.rowStep (t : Tile) : Nat := (t.rowBytes + 15) / 16 * 16

/-- Where row r of a loom operand lies (R421). -/
def Tile.operandRow (t : Tile) (slot : Option (BitVec 8)) (r : Nat) : Nat :=
  match slot with
  | some k => t.rowAt k.toNat + r * t.rowStep
  | none => t.rowAt r

/-- Whether an entry serves as an operand of `rows` rows in a format (R421, R422). -/
def Tile.serves (t : Tile) (fmt : BitVec 4) (rows : Nat) : Bool :=
  t.fmt == fmt && (t.ncols == 128 || (t.ncols == 256 && fmtMx fmt)) &&
    (if t.counted then decide (rows * t.rowStep ≤ t.pitchBytes) else decide (rows ≤ t.nrows))

/-- Whether a row of an entry reads as zeros, or one of its elements does (R190, R421). -/
def Tile.isHole (t : Tile) (slot : Option (BitVec 8)) (r k : Nat) : Bool :=
  match slot with
  | some j => t.holes.getLsbD j.toNat
  | none => t.holes.getLsbD (if t.hmc then k / t.groupCols else r)

/-- A row of an operand: the scale code and the 32 element codes of each block. -/
structure LoomRow where
  scales : List Nat
  blocks : List (List Nat)
  deriving DecidableEq, Repr

/-- A row of an entry, from the bytes of its scratch (R193, R421); holes read as zeros. -/
def Tile.loomRow (t : Tile) (slot : Option (BitVec 8)) (r : Nat) (bytes : List Byte) : LoomRow :=
  let bits := fmtBits t.fmt
  let nb := t.ncols / 32
  let v := leVal bytes
  let code := fun (j i : Nat) =>
    if t.isHole slot r (32 * j + i) then 0
    else if fmtMx t.fmt then
      let at_ := 256 * (j / fmtBlocks t.fmt) + 16 + 4 * bits * (j % fmtBlocks t.fmt)
      codeAt bits (v / 256 ^ at_) i
    else codeAt bits v (32 * j + i)
  { scales := (List.range nb).map fun j =>
      if !fmtMx t.fmt then 127
      else if t.isHole slot r (32 * j) then 0
      else codeAt 8 v (256 * (j / fmtBlocks t.fmt) + j % fmtBlocks t.fmt)
    blocks := (List.range nb).map fun j => (List.range 32).map (code j) }

/-- A row held in registers (R360, R363, R422). -/
def Warp.loomRow (w : Warp) (f : AFmt) (i : Nat) : LoomRow :=
  match f with
  | .bf16 | .f16 =>
    { scales := List.replicate 4 127
      blocks := (List.range 4).map fun j => (List.range 32).map fun e =>
        codeAt 16 (w.image (i + j / 2)) (32 * (j % 2) + e) }
  | .e4m3 | .e5m2 | .e2m3 | .e3m2 | .e2m1 =>
    let nb := regK f / 32
    let im := w.image i
    { scales := (List.range nb).map (codeAt 8 (w.kget i).toNat)
      blocks := (List.range nb).map fun j => (List.range 32).map (codeAt (aBits f) (blockAt (aBits f) im j)) }

/-- One of three values. -/
def pickOf {α : Type} (n : Nat) (a b c : α) : α := if n % 3 = 0 then a else if n % 3 = 1 then b else c

/-- A warp with other vector and scale registers. -/
def Warp.withFile (w : Warp) (f : RegFile) : Warp := { w with regs := { w.regs with v := f.v, k := f.k } }

/-- Codes that a request reads of an operand row, each from one of three readings of it (R240). -/
def LoomReq.mixCodes (r : LoomReq) (row at_ : Nat) (a b c : List Nat) : List Nat :=
  (a.zip (b.zip c)).zipIdx.map fun x =>
    pickOf (Config.operandPick r.id row (at_ + x.2)) x.1.1 x.1.2.1 x.1.2.2

/-- An operand row as a request reads it (R239, R240): each element as it is now, as it was when the request was
issued, or as it was at the OFENCE before that. [DEDUCED, log 30] -/
def LoomReq.mixRow (r : LoomReq) (row : Nat) (a b c : LoomRow) : LoomRow where
  scales := r.mixCodes row 4096 a.scales b.scales c.scales
  blocks := (a.blocks.zip (b.blocks.zip c.blocks)).zipIdx.map fun x =>
    r.mixCodes row (32 * x.2) x.1.1 x.1.2.1 x.1.2.2

/-- What a request reads of registers, element by element: `f` reads one register file (R240). -/
def LoomReq.regRow (r : LoomReq) (w : Warp) (row : Nat) (f : Warp → LoomRow) : LoomRow :=
  r.mixRow row (f w) (f (w.withFile r.issued)) (f (w.withFile r.fenced))

/-! ## Flags (R266, R289) -/

/-- The cause of a set of elements and scale codes: NaN scale, NaN element, infinite operand, or
none (R266, R289). -/
def loomCause (scales : List Nat) (vals : List Val) : BitVec 2 :=
  let nan := fun v : Val => match v with
    | .nan _ _ => true
    | .num _ | .inf _ => false
  let inf := fun v : Val => match v with
    | .inf _ => true
    | .num _ | .nan _ _ => false
  if scales.contains 255 then 2 else if vals.any nan then 1 else if vals.any inf then 3 else 0

/-- The place of a cause in the order of R289. -/
def causeRank (c : BitVec 2) : Nat :=
  match c.toNat with
  | 2 => 0
  | 1 => 1
  | 3 => 2
  | _ => 3

/-- A flag after a cause: replaced only by one earlier in the order (R289). -/
def flagJoin (old new : BitVec 2) : BitVec 2 := if causeRank new < causeRank old then new else old

/-! ## Weight planes (R423) -/

/-- A plane after a start: E4M3 zeros with scale codes 0x7F (R423). -/
def Plane.start : Plane :=
  ⟨.e4m3, 128, Vector.replicate 128 0, Vector.replicate 128 0x7F7F7F7F7F7F7F7F, none⟩

/-- A loom after a start (R423). -/
def Loom.start : Loom := ⟨Plane.start, Plane.start, 0, []⟩

/-- The element k of column n of a plane. -/
def Plane.code (p : Plane) (k n : Nat) : Nat := codeAt (bBits p.fmt) ((p.cols[n]?.getD 0).toNat) k

/-- The scale code of element k of column n of a plane. -/
def Plane.scale (p : Plane) (k n : Nat) : Nat := codeAt 8 ((p.scales[n]?.getD 0).toNat) (k / 32)

/-- The plane that LDW loads from 128 rows (R426). -/
def Plane.ofRows (f : BFmt) (k gid : Nat) (rows : List LoomRow) : Plane where
  fmt := f
  k := k
  cols := Vector.ofFn fun n =>
    BitVec.ofNat 2048 (((rows[n.val]?).elim 0 fun r => packCodes (bBits f) r.blocks.flatten))
  scales := Vector.ofFn fun n =>
    if f = .bf16 ∨ f = .f16 then BitVec.ofNat 64 (packCodes 8 (List.replicate (k / 32) 0x7F))
    else BitVec.ofNat 64 ((rows[n.val]?).elim 0 fun r => packCodes 8 r.scales)
  owner := some gid

/-- The element of a plane that meets element i of block b of a row in accumulator column c, as an index
(k, n): MMQ runs along K, and MMQT across the columns (R430). -/
def planeAt (trans : Bool) (c b i : Nat) : Nat × Nat := if trans then (c, 32 * b + i) else (32 * b + i, c)

/-- The flag of an accumulator column for a pass over a plane (R289, R430). -/
def Plane.colCause (p : Plane) (trans : Bool) (nb c : Nat) : BitVec 2 :=
  let at_ := (List.range nb).flatMap fun b => (List.range 32).map (planeAt trans c b)
  loomCause (at_.map fun x => p.scale x.1 x.2) (at_.map fun x => bVal p.fmt (p.code x.1 x.2))

/-! ## Streaming arithmetic (R288, R430) -/

/-- The exact sum of a block's products, under the plane's scales; what is not a number contributes
nothing (R288, R430). -/
def blockSum (f : AFmt) (p : Plane) (trans : Bool) (c b xa : Nat) (els : List Nat) : Num :=
  if xa = 255 then ⟨false, 0, 0⟩
  else
    let s := els.zipIdx.foldl (fun (s : Num) e =>
      let x := planeAt trans c b e.2
      let xb := p.scale x.1 x.2
      match aVal f e.1, bVal p.fmt (p.code x.1 x.2) with
      | .num a, .num w => if xb = 255 then s else s.add ((a.mul w).scale ((xb : Int) - 127))
      | _, _ => s) ⟨false, 0, 0⟩
    if s.m = 0 then ⟨false, 0, 0⟩ else s.scale ((xa : Int) - 127)

/-- An accumulator element after a row has streamed past its column (R288, R430). -/
def accElem (f : AFmt) (p : Plane) (trans : Bool) (row : LoomRow) (c : Nat) (acc : Word32) : Word32 :=
  BitVec.ofNat 32 ((row.scales.zip row.blocks).zipIdx.foldl (fun a x =>
    fp32.add a (fp32.round .rne (blockSum f p trans c x.2 x.1.1 x.1.2))) acc.toNat)

/-- The flag of a row (R289). -/
def LoomRow.cause (r : LoomRow) (f : AFmt) : BitVec 2 := loomCause r.scales (r.blocks.flatten.map (aVal f))

/-- An accumulator tile after a row has streamed into one of its rows (R288, R289, R430). -/
def AccTile.stream (t : AccTile) (f : AFmt) (p : Plane) (trans : Bool) (row : LoomRow) (r : Nat) :
    AccTile :=
  { t with
    els := vmod t.els r fun e => Vector.ofFn fun c => accElem f p trans row c.val e[c]
    rowFlag := vmod t.rowFlag r fun x => flagJoin x (row.cause f)
    colFlag := Vector.ofFn fun c =>
      flagJoin t.colFlag[c] (p.colCause trans row.blocks.length c.val) }

/-! ## Draining (R289, R432, R433) -/

/-- The value that a drain writes for an element (R289). -/
def AccTile.drain (t : AccTile) (r c : Nat) (scale : Word32) : Nat :=
  let rf := (t.rowFlag[r]?.getD 0).toNat
  let cf := (t.colFlag[c]?.getD 0).toNat
  if rf ≠ 0 then fp32.nanGen rf
  else if cf ≠ 0 then fp32.nanGen cf
  else fp32.mul (((t.els[r]?).bind fun e => e[c]?).getD 0).toNat scale.toNat

/-- The flag record of a tile (R266, R436). -/
def AccTile.flags (t : AccTile) : List Byte :=
  leBytes 2 (packCodes 2 (t.rowFlag.toList.map BitVec.toNat)) ++
    leBytes 32 (packCodes 2 (t.colFlag.toList.map BitVec.toNat)) ++
    leBytes 94 (t.err.toNat + 2 * t.stale.toNat)

/-- The elements of a tile as an image holds them (R266). -/
def AccTile.elemBytes (t : AccTile) : List Byte :=
  t.els.toList.flatMap fun r => r.toList.flatMap fun e => leBytes 4 e.toNat

/-- A tile from the bytes of its elements and its flag record (R266, R436, R437). -/
def AccTile.ofBytes (els flags : List Byte) : AccTile where
  els := Vector.ofFn fun r => Vector.ofFn fun c =>
    BitVec.ofNat 32 (leVal ((els.drop (512 * r.val + 4 * c.val)).take 4))
  rowFlag := Vector.ofFn fun r => BitVec.ofNat 2 (codeAt 2 (leVal (flags.take 2)) r.val)
  colFlag := Vector.ofFn fun c => BitVec.ofNat 2 (codeAt 2 (leVal ((flags.drop 2).take 32)) c.val)
  err := (flags.getD 34 0).getLsbD 0
  stale := (flags.getD 34 0).getLsbD 1

/-- The status word of a tile (R435). -/
def AccTile.status (t : AccTile) (gen : BitVec 32) : Word64 :=
  let flag := t.rowFlag.toList.any (· != 0) || t.colFlag.toList.any (· != 0)
  BitVec.ofNat 64 (lay [(32, gen.toNat), (24, t.err.toNat), (23, t.stale.toNat), (22, flag.toNat),
    (0, packCodes 2 (t.rowFlag.toList.map BitVec.toNat))])

/-! ## The reservation table (R161) -/

/-- The loom of a cluster. -/
def State.loom (s : State) (cl : Nat) : Loom := (s.looms.find? fun x => x.1 == cl).elim Loom.start Prod.snd

/-- Change the loom of a cluster. -/
def State.modLoom (s : State) (cl : Nat) (f : Loom → Loom) : State :=
  { s with looms := (cl, f (s.loom cl)) :: s.looms.filter fun x => x.1 != cl }

/-- The loom resource of a request (R162). -/
def resOf : Instr → LoomRes
  | .mmq _ _ _ _ _ | .mmqTile _ _ _ _ _ | .mmqt _ _ _ _ _ | .mmqtTile _ _ _ _ _ => .stream
  | .ldw _ _ _ => .load
  | .swpw _ _ | .mstat _ _ _ => .plane
  | _ => .drain

/-- Hold a loom word where TC is at its maximum (R157), where an acquire before the warp's OFENCE has not completed
(R239), or where the table lacks room (R161). -/
def State.loomUnless (s : State) (n : Nat) (f : State → State) : State :=
  if s.w.counterFull .tc then s.retryWith (.counter .tc)
  else if s.fencedAcquire then s.retryWith .acquire
  else
    if 32 < s.tableUsed s.w.place.core + n then s.retryWith (.loomTable n) else f s

/-- A request of the warp at issue, before its own operands are set. -/
def State.loomReq (s : State) (i : Instr) : LoomReq :=
  let w := s.rd
  { id := 0, op := 0, wid := w.place.wid, gid := w.place.gid, core := w.place.core
    wslot := w.place.slot, seq := s.w.issued, instr := i, quarter := none, vreg := 0, vsrc := 0, gen := 0
    scalar := 0, slot := none, scratch := [], fencedMem := [], draws := [], fenced := s.w.fenced
    issued := s.w.regs.file, prio := w.env.prio, age := s.time, aged := false, granted := false, pass := 0
    streamed := false, remote := [], vout := [], kout := [], result := 0 }

/-- A request that reads or fills an entry: the slot, and the scratch of its group as it stands at issue and stood at the
OFENCE before it (R239, R240). -/
def LoomReq.ofTile (r : LoomReq) (s : State) (slot : Option (BitVec 8)) : LoomReq :=
  { r with slot := slot, scratch := s.groupMem r.gid, fencedMem := s.w.fencedMem }

/-- Place the requests of one instruction in the table, and count it in TC (R161, R420). -/
def State.placeReqs (s : State) (op : Nat) (rs : List LoomReq) : State :=
  let s := s.modW fun w => { w with cnt := w.cnt.push .tc op false }
  let cl := coreCluster s.w.place.core
  rs.foldl (fun s r =>
    let (id, s) := s.fresh
    s.modLoom cl fun l => { l with reqs := l.reqs ++ [{ r with id := id, op := op }] }) s

/-- Place one request. -/
def State.placeReq (s : State) (r : LoomReq) : State :=
  let (op, s) := s.fresh
  s.placeReqs op [r]

/-- What a loom instruction that reads an entry needs of it (R185, R186, R421). -/
def readNeed (t : Tile) : TileNeed := if t.counted then .count else .ready

/-- A loom word that reads `rows` rows of an entry: rejected where the entry does not serve, held until
it may be read, and then `n` loom reads of it are in flight (R421). [DEDUCED, log 24] -/
def State.tileOperand (s : State) (a : TileName) (fmt : BitVec 4) (rows n : Nat)
    (f : Tile → Option (BitVec 8) → State → State) : State :=
  let t := s.entry a
  if !t.mapped then s.reject a.toNat false
  else if !t.serves fmt rows then s.reject t.offset false
  else s.loomUnless n fun s => s.unless (tileMeets t (readNeed t)) (.tile a (readNeed t)) fun s =>
    f t (if t.counted then some t.head else none)
      (s.modTile s.rd.place.gid a fun t => { t with loomRead := t.loomRead + n })

/-! ## Words of MAJ 0x2D at issue (R419, R420) -/

/-- LDW: loads the shadow plane from an entry (R426). -/
def execLdw (x : Ext) (a : TileName) (f : BFmt) (s : State) : Host.Outcome State Fault Refusal :=
  issueWord (.ldw x a f) s fun s => s.warpWord x fun s =>
    s.tileOperand a (bEntry f) 128 1 fun _ slot s => s.placeReq ((s.loomReq (.ldw x a f)).ofTile s slot)

/-- SWPW: swaps the planes (R427). -/
def execSwpw (x : Ext) (b : SReg) (s : State) : Host.Outcome State Fault Refusal :=
  issueWord (.swpw x b) s fun s => s.warpWord x fun s =>
    s.loomUnless 1 fun s => s.placeReq (s.loomReq (.swpw x b))

/-- The requests of a stream word: one for each quarter that holds a lane in partition-8 mode, and one
otherwise (R160, R420). -/
def Warp.quarters (w : Warp) (x : Ext) : List (Option (BitVec 2)) :=
  if w.ctl.part = .t8 then
    ((List.range 4).filter fun q => (w.guard x >>> (8 * q)) &&& 0xFF#32 != 0).map fun q =>
      some (BitVec.ofNat 2 q)
  else [none]

/-- Place the requests of a stream word (R429). -/
def State.placeStream (s : State) (x : Ext) (r : LoomReq) : State :=
  let (op, s) := s.fresh
  s.placeReqs op ((s.rd.quarters x).map fun q => { r with quarter := q })

/-- MMQ or MMQT with rows in registers. -/
def State.streamRegs (s : State) (x : Ext) (i : Instr) (a : VOp) (b : SReg) : State :=
  s.loomUnless (s.rd.quarters x).length fun s =>
    s.placeStream x
      { s.loomReq i with vreg := s.rd.vidx x a, gen := (s.rd.sget b).setWidth 32 }

/-- MMQ or MMQT with rows in an entry. -/
def State.streamTile (s : State) (x : Ext) (i : Instr) (a : TileName) (b : SReg) (f : AFmt) : State :=
  s.tileOperand a (aEntry f) 32 (s.rd.quarters x).length fun _ slot s =>
    s.placeStream x { (s.loomReq i).ofTile s slot with gen := (s.rd.sget b).setWidth 32 }

/-- MMQ with rows in registers (R430). -/
def execMmq (x : Ext) (n : AccReg) (a : VOp) (b : SReg) (f : AFmt) (s : State) :
    Host.Outcome State Fault Refusal :=
  issueWord (.mmq x n a b f) s fun s => s.warpWord x fun s => s.streamRegs x (.mmq x n a b f) a b

/-- MMQ with rows in an entry (R430). -/
def execMmqTile (x : Ext) (n : AccReg) (a : TileName) (b : SReg) (f : AFmt) (s : State) :
    Host.Outcome State Fault Refusal :=
  issueWord (.mmqTile x n a b f) s fun s => s.warpWord x fun s =>
    s.streamTile x (.mmqTile x n a b f) a b f

/-- MMQT with rows in registers (R430). -/
def execMmqt (x : Ext) (n : AccReg) (a : VOp) (b : SReg) (f : AFmt) (s : State) :
    Host.Outcome State Fault Refusal :=
  issueWord (.mmqt x n a b f) s fun s => s.warpWord x fun s => s.streamRegs x (.mmqt x n a b f) a b

/-- MMQT with rows in an entry (R430). -/
def execMmqtTile (x : Ext) (n : AccReg) (a : TileName) (b : SReg) (f : AFmt) (s : State) :
    Host.Outcome State Fault Refusal :=
  issueWord (.mmqtTile x n a b f) s fun s => s.warpWord x fun s =>
    s.streamTile x (.mmqtTile x n a b f) a b f

/-- MCLR: clears an accumulator tile (R432). -/
def execMclr (x : Ext) (n : AccReg) (s : State) : Host.Outcome State Fault Refusal :=
  issueWord (.mclr x n) s fun s => s.warpWord x fun s =>
    s.loomUnless 1 fun s => s.placeReq (s.loomReq (.mclr x n))

/-- MDRN: drains a tile into 32 registers (R433). -/
def execMdrn (x : Ext) (n : AccReg) (a : VOp) (b : SReg) (s : State) :
    Host.Outcome State Fault Refusal :=
  issueWord (.mdrn x n a b) s fun s => s.warpWord x fun s =>
    s.loomUnless 1 fun s =>
      s.placeReq { s.loomReq (.mdrn x n a b) with vreg := s.rd.vidx x a, scalar := s.rd.sget b }

/-- MDRNT: drains a tile into an entry (R421, R434). -/
def execMdrnt (x : Ext) (n : AccReg) (a : TileName) (b : SReg) (s : State) :
    Host.Outcome State Fault Refusal :=
  issueWord (.mdrnt x n a b) s fun s => s.warpWord x fun s =>
    let t := s.entry a
    let need : TileNeed := if t.counted then .slot else .empty
    if !t.mapped then s.reject a.toNat false
    else if !(t.serves 2 8 && t.ncols == 128 && (t.counted || t.nrows == 8)) then s.reject t.offset false
    else s.loomUnless 1 fun s => s.unless (tileMeets t need) (.tile a need) fun s =>
      let (op, s) := s.fresh
      let gid := s.rd.place.gid
      let r := { s.loomReq (.mdrnt x n a b) with scalar := s.rd.sget b }
      if t.counted then
        (s.modTile gid a fun t => t.reserve op).placeReqs op [r.ofTile s (some t.nextSlot)]
      else (s.modTile gid a fun t => { t with state := .filling }).placeReqs op [r.ofTile s none]

/-- MSAV: a tile's image to global memory (R436). -/
def execMsav (x : Ext) (n : AccReg) (a : SReg) (s : State) : Host.Outcome State Fault Refusal :=
  issueWord (.msav x n a) s fun s => s.warpWord x fun s =>
    s.loomUnless 1 fun s => s.placeReq { s.loomReq (.msav x n a) with scalar := s.rd.sget a }

/-- MRST: a tile's image from global memory (R437). -/
def execMrst (x : Ext) (n : AccReg) (a : SReg) (s : State) : Host.Outcome State Fault Refusal :=
  issueWord (.mrst x n a) s fun s => s.warpWord x fun s =>
    s.loomUnless 1 fun s => s.placeReq { s.loomReq (.mrst x n a) with scalar := s.rd.sget a }

/-- MSTAT: a tile's status word to sB (R435). -/
def execMstat (x : Ext) (n : AccReg) (b : SReg) (s : State) : Host.Outcome State Fault Refusal :=
  issueWord (.mstat x n b) s fun s => s.warpWord x fun s =>
    s.loomUnless 1 fun s => s.placeReq (s.loomReq (.mstat x n b))

/-- RQ of a tile (R439). -/
def execRq (x : Ext) (n : AccReg) (a : VOp) (f : MxF) (s : State) : Host.Outcome State Fault Refusal :=
  issueWord (.rq x n a f) s fun s => s.warpWord x fun s =>
    s.loomUnless 1 fun s => s.placeReq { s.loomReq (.rq x n a f) with vreg := s.rd.vidx x a }

/-- RQ of registers (R439). -/
def execRqVector (x : Ext) (a b : VOp) (f : MxF) (s : State) : Host.Outcome State Fault Refusal :=
  issueWord (.rqVector x a b f) s fun s => s.warpWord x fun s =>
    s.loomUnless 1 fun s =>
      s.placeReq { s.loomReq (.rqVector x a b f) with vreg := s.rd.vidx x a, vsrc := s.rd.vidx x b }

/-- The random draws of an RQS from a draw index on, four words for each draw (R293, R440). -/
def Warp.rqDraws (w : Warp) (seed d : Word64) (n : Nat) : List (Vector Word32 32) :=
  (List.range n).flatMap fun j => (List.finRange 4).map fun k =>
    Vector.ofFn fun l => (vrandDraw seed (w.lid l.val) (d + BitVec.ofNat 64 j))[k]

/-- Advance the draw index of the warp at issue (R294). -/
def State.takeDraws (s : State) (n : Nat) : State :=
  s.modW fun w => { w with ctl := { w.ctl with draw := w.ctl.draw + BitVec.ofNat 64 n } }

/-- RQS of a tile: four draws (R440). [DEDUCED, log 11] -/
def execRqs (x : Ext) (n : AccReg) (a : VOp) (f : MxF) (e : SReg) (s : State) :
    Host.Outcome State Fault Refusal :=
  issueWord (.rqs x n a f e) s fun s => s.warpWord x fun s =>
    s.loomUnless 1 fun s =>
      (s.takeDraws 4).placeReq
        { s.loomReq (.rqs x n a f e) with
          vreg := s.rd.vidx x a
          draws := s.rd.rqDraws (s.rd.sget e) s.w.ctl.draw 4 }

/-- RQS of registers: one draw (R440). [DEDUCED, log 11] -/
def execRqsVector (x : Ext) (a b : VOp) (f : MxF) (e : SReg) (s : State) :
    Host.Outcome State Fault Refusal :=
  issueWord (.rqsVector x a b f e) s fun s => s.warpWord x fun s =>
    s.loomUnless 1 fun s =>
      (s.takeDraws 1).placeReq
        { s.loomReq (.rqsVector x a b f e) with
          vreg := s.rd.vidx x a
          vsrc := s.rd.vidx x b
          draws := s.rd.rqDraws (s.rd.sget e) s.w.ctl.draw 1 }

end Sys2Proof.Machine
end

