-- ==== Sys2Proof/Machine/LoomEvents.lean ====
section
/-! DEFINITION. The steps of the looms (R162 to R166, R423 to R440): granting requests, streaming
passes, draining, saving and requantising accumulator tiles, and the end of requests. -/

namespace Sys2Proof.Machine

/-! ## Accumulator tiles -/

/-- An accumulator tile of a group. -/
def State.acc (s : State) (gid n : Nat) : AccTile :=
  ((s.group? gid).bind fun g => g.accs[n]?).getD AccTile.zero

/-- Change an accumulator tile of a group. -/
def State.modAcc (s : State) (gid n : Nat) (f : AccTile → AccTile) : State :=
  s.modGroup gid fun g => { g with accs := g.accs.modify n f }

/-- Whether a mark is on an element of an accumulator tile. -/
def RegPoison.ofAcc (gid n : Nat) : RegPoison → Bool
  | .acc g t _ _ => g == gid && t == n
  | .lane _ _ _ | .scale _ _ => false

/-- Write a whole accumulator tile: its elements are sound. -/
def State.putAcc (s : State) (gid n : Nat) (t : AccTile) : State :=
  (s.modAcc gid n fun _ => t).heal (RegPoison.ofAcc gid n)

/-- The tile of a group as an instruction reads it, its bad elements zero, and their faults in the warp
that reads (R271, R438). -/
def State.readAcc (s : State) (wid gid n seq : Nat) : AccTile × State :=
  let bad := s.regPoison.filter (RegPoison.ofAcc gid n)
  let t := bad.foldl (fun (t : AccTile) q =>
    match q with
    | .acc _ _ r c => { t with els := vmod t.els r fun e => e.setIfInBounds c 0 }
    | .lane _ _ _ | .scale _ _ => t) (s.acc gid n)
  (t, bad.foldl (fun s q => s.modWarp wid fun w => w.addFault (q.fault seq false)) s)

/-- The values that a drain of a tile writes, row by row (R433); a bad element is zero (R271). -/
def State.drainRows (s : State) (gid n : Nat) (t : AccTile) (scale : Word32) : List (List Nat) :=
  (List.range 8).map fun r => (List.range 128).map fun c =>
    if s.regPoison.any fun q => q == .acc gid n r c then 0 else t.drain r c scale

/-! ## Registers of a warp that is not at issue -/

/-- Write a vector register of a warp; it is sound. -/
def State.putVec (s : State) (wid i : Nat) (v : Vector Word32 32) : State :=
  (s.modWarp wid fun w => { w with regs := { w.regs with v := w.regs.v.setIfInBounds i v } }).heal fun q =>
    match q with
    | .lane x r _ => x == wid && r.toNat == i
    | .scale _ _ | .acc _ _ _ _ => false

/-- Write a scale register of a warp; it is sound. -/
def State.putScale (s : State) (wid i : Nat) (v : Word64) : State :=
  (s.modWarp wid fun w => w.kset i v).heal fun q =>
    match q with
    | .scale x r => x == wid && r.toNat == i
    | .lane _ _ _ | .acc _ _ _ _ => false

/-- The bad words of some registers of a warp: every lane of the vector registers, and the scale
registers. -/
def State.badRegs (s : State) (wid : Nat) (vs ks : List Nat) : List RegPoison :=
  s.regPoison.filter fun q =>
    match q with
    | .lane v r _ => v == wid && vs.contains r.toNat
    | .scale v r => v == wid && ks.contains r.toNat
    | .acc _ _ _ _ => false

/-! ## Who is granted (R162 to R164, R428) -/

/-- The priority of a request: 3 once it has aged (R163). -/
def LoomReq.rank (r : LoomReq) : Nat := if r.aged then 3 else r.prio.toNat

/-- Whether a request goes before another: priority, age, core, slot, quarter (R162). -/
def LoomReq.before (a b : LoomReq) : Bool :=
  let key := fun r : LoomReq =>
    lay [(40, r.age), (24, r.core), (8, r.wslot.toNat), (0, r.quarter.elim 0 BitVec.toNat)]
  decide (b.rank < a.rank) || (a.rank == b.rank && decide (key a ≤ key b))

/-- How a generation stands to the active one (R428). -/
inductive GenRel where
  | current | stale | future
  deriving DecidableEq, Repr

/-- The relation of a named generation to the active one (R428). -/
def genRel (active named : BitVec 32) : GenRel :=
  let d := (active - named).toNat
  if d = 0 then .current else if d ≤ 2 ^ 31 then .stale else .future

/-- Whether an earlier request of a request's warp still waits (R162). -/
def Loom.behind (l : Loom) (r : LoomReq) : Bool :=
  l.reqs.any fun q => q.wid == r.wid && !q.granted && decide (q.id < r.id)

/-- What a stream request runs: whether it is MMQT, its first tile, its A format and the entry that
holds its rows, if one does. -/
structure Stream where
  trans : Bool
  acc   : AccReg
  fmt   : AFmt
  tile  : Option TileName
  deriving DecidableEq, Repr

/-- The stream of an instruction. -/
def streamOf : Instr → Option Stream
  | .mmq _ n _ _ f => some ⟨false, n, f, none⟩
  | .mmqTile _ n a _ f => some ⟨false, n, f, some a⟩
  | .mmqt _ n _ _ f => some ⟨true, n, f, none⟩
  | .mmqtTile _ n a _ f => some ⟨true, n, f, some a⟩
  | _ => none

/-- The accumulator tiles that a stream request names (R428, R429). -/
def LoomReq.tiles (r : LoomReq) (m : Stream) : List Nat :=
  match r.quarter with
  | some q => [m.acc.toNat + q.toNat]
  | none => (List.range 4).map (m.acc.toNat + ·)

/-- The accumulator tiles that a request reads or writes (R424). -/
def LoomReq.named (r : LoomReq) : List Nat :=
  match streamOf r.instr with
  | some m => r.tiles m
  | none =>
    match r.instr with
    | .mclr _ n | .mdrn _ n _ _ | .mdrnt _ n _ _ | .msav _ n _ | .mrst _ n _ | .mstat _ n _ | .rq _ n _ _
    | .rqs _ n _ _ _ => [n.toNat]
    | _ => []

/-- Whether two requests name an accumulator tile in common (R424). -/
def LoomReq.shares (r q : LoomReq) : Bool := r.gid == q.gid && r.named.any q.named.contains

/-- Whether a granted request still has to write a tile that another names: an MRST whose image lies with a peer
(R424, R437). -/
def Loom.writing (l : Loom) (r : LoomReq) : Bool :=
  l.reqs.any fun q => q.granted && !q.remote.isEmpty && q.shares r &&
    match q.instr with
    | .mrst _ _ _ => true
    | _ => false

/-- Whether a granted request of a resource has not finished. -/
def Loom.busy (l : Loom) (k : LoomRes) : Bool := l.reqs.any fun q => q.granted && resOf q.instr == k

/-- Whether a request waits and may be granted now (R162, R164, R424, R428). -/
def Loom.eligible (l : Loom) (r : LoomReq) : Bool :=
  !r.granted && !l.behind r && !l.writing r &&
    (match resOf r.instr with
      | .stream => genRel l.gen r.gen != .future
      | .load => !l.busy .load
      | .drain => !l.busy .drain
      | .plane =>
        !l.busy .plane &&
          match r.instr with
          | .swpw _ _ => !l.busy .load
          | _ => true)

/-- The requests of a resource that may be granted, in the order of grants. -/
def Loom.order (l : Loom) (k : LoomRes) : List LoomReq :=
  sortBy LoomReq.before (l.reqs.filter fun r => resOf r.instr == k && l.eligible r)

/-! ## Streaming (R165, R423, R428 to R430) -/

/-- The rows of a request: the operand row, the accumulator tile and its row (R429). -/
def LoomReq.rows (r : LoomReq) (m : Stream) : List (Nat × Nat × Nat) :=
  match r.quarter with
  | some q => (List.range 8).map fun i => (8 * q.toNat + i, m.acc.toNat + q.toNat, i)
  | none => (List.range 32).map fun i => (i, m.acc.toNat + i / 8, i % 8)

/-- The K of a request's rows (R422). -/
def State.streamK (s : State) (r : LoomReq) (m : Stream) : Nat :=
  match m.tile with
  | some a => ((s.tile r.gid a).getD Tile.free).ncols
  | none => regK m.fmt

/-- Whether a request matches a plane (R423). -/
def State.matchesPlane (s : State) (r : LoomReq) (m : Stream) (p : Plane) : Bool :=
  sameFamily m.fmt p.fmt &&
    (if m.trans then p.k == 128 && s.streamK r m == 128 else s.streamK r m == p.k)

/-- A row of an entry as a request reads it, element by element: the scratch as it is now, as it was at the
issue, or as it was at the OFENCE before that (R239, R240). [DEDUCED, log 30] -/
def State.tileRow (s : State) (r : LoomReq) (t : Tile) (i : Nat) : LoomRow :=
  let at_ := t.operandRow r.slot i
  let row := fun m : List Host.Cell => t.loomRow r.slot i (cellBytes m at_ t.rowBytes)
  r.mixRow i (row (s.groupMem r.gid)) (row r.scratch) (row r.fencedMem)

/-- The rows of a request, or none where an uncorrectable scratch word lies in them (R272). -/
def State.streamRows (s : State) (r : LoomReq) (m : Stream) (w : Warp) :
    Option (List (LoomRow × Nat × Nat)) :=
  match m.tile with
  | none => some ((r.rows m).map fun x =>
      (r.regRow w x.1 fun w => w.loomRow m.fmt (r.vreg + rowRegs m.fmt * x.1), x.2))
  | some a =>
    let t := (s.tile r.gid a).getD Tile.free
    let at_ := fun i => Loc.scratch r.gid (t.operandRow r.slot i)
    if (r.rows m).any fun x => (s.poisonAt (at_ x.1) t.rowBytes).isSome then none
    else some ((r.rows m).map fun x => (s.tileRow r t x.1, x.2))

/-- The bad register words that a request fetches (R195, R271). [DEDUCED, log 31] -/
def State.streamBad (s : State) (r : LoomReq) (m : Stream) : List RegPoison :=
  match m.tile with
  | some _ => []
  | none =>
    let regs := (r.rows m).flatMap fun x =>
      (List.range (rowRegs m.fmt)).map (r.vreg + rowRegs m.fmt * x.1 + ·)
    s.badRegs r.wid regs (match m.fmt with
      | .bf16 | .f16 => []
      | .e4m3 | .e5m2 | .e2m3 | .e3m2 | .e2m1 => regs)

/-- A stream request acts on its accumulator tiles (R430); where it fetched a bad register word, its
destination elements are zero (R271). -/
def State.runStream (s : State) (cl : Nat) (r : LoomReq) (m : Stream) : State :=
  match s.warp? r.wid with
  | none => s
  | some w =>
    let p := (s.loom cl).active
    let bad := s.streamBad r m
    match s.streamRows r m w with
    | none => s.scratchKill r.gid
    | some rows =>
      let s := bad.foldl (fun s q => s.modWarp r.wid fun w => w.addFault (q.fault r.seq false)) s
      rows.foldl (fun s x =>
        s.modAcc r.gid x.2.1 fun t =>
          if bad.isEmpty then t.stream m.fmt p m.trans x.1 x.2.2
          else { t with els := vmod t.els x.2.2 fun _ => Vector.replicate 128 0 }) s

/-- Set what a request writes when it finishes, or how far it has come. -/
def State.setOut (s : State) (cl id : Nat) (f : LoomReq → LoomReq) : State :=
  s.modLoom cl fun l => { l with reqs := l.reqs.map fun r => if r.id = id then f r else r }

/-- A granted request whose rows have not streamed. -/
def LoomReq.inPort (r : LoomReq) : Bool := r.granted && !r.streamed && (streamOf r.instr).isSome

/-- The pass in the stream port streams its rows (R431): its requests act in the order in which they were taken (R424).
[DEDUCED, log 30] -/
def State.streamPass (s : State) (cl : Nat) : State :=
  ((s.loom cl).reqs.filter LoomReq.inPort).foldl (fun s r =>
    match streamOf r.instr with
    | some m =>
      if (s.loom cl).reqs.any fun q => q.id == r.id then
        (s.setOut cl r.id fun r => { r with streamed := true }).runStream cl r m
      else s
    | none => s) s

/-- Mark a request as granted in a pass; the requests that are granted stand in the order of their grants.
[DEDUCED, log 30] -/
def Loom.grant (l : Loom) (id pass : Nat) : Loom :=
  { l with
    reqs := (l.reqs.filter fun r => r.id != id) ++
      (l.reqs.filter fun r => r.id == id).map fun r => { r with granted := true, pass := pass } }

/-- Whether a waiting request may be fused into a pass (R165). -/
def State.mayFuse (s : State) (cl : Nat) (l : Loom) (r : LoomReq) (m : Stream) (q : LoomReq) : Bool :=
  l.eligible q && q.quarter.isSome && q.gen == r.gen &&
    match streamOf q.instr with
    | some n =>
      n.trans == m.trans && n.fmt == m.fmt && s.streamK q n == s.streamK r m &&
        s.matchesPlane q n (s.loom cl).active
    | none => false

/-- Fuse up to `k` further quarter requests into the pass of a request (R165). [DEDUCED, log 30] -/
def State.fuse (s : State) (cl : Nat) (r : LoomReq) (m : Stream) : Nat → State
  | 0 => s
  | k + 1 =>
    let l := s.loom cl
    match sortBy LoomReq.before (l.reqs.filter (s.mayFuse cl l r m)) with
    | [] => s
    | q :: _ =>
        let s := s.modLoom cl fun l => l.grant q.id r.id
        (s.count (clusterDie cl) .fused 1).fuse cl r m k

/-- Grant a stream request (R165, R428): its pass streams from now on, or, where it is stale or does not match the active
plane, it only sets STALE or ERR in the tiles that it names. [DEDUCED, log 30] -/
def State.grantStream (s : State) (cl : Nat) (r : LoomReq) (m : Stream) : State :=
  let l := s.loom cl
  let s := s.modLoom cl fun l => l.grant r.id r.id
  let only := fun f : AccTile → AccTile =>
    (r.tiles m).foldl (fun s n => s.modAcc r.gid n f) (s.setOut cl r.id fun r => { r with streamed := true })
  if genRel l.gen r.gen == .stale then only fun t => { t with stale := true }
  else if !s.matchesPlane r m l.active then only fun t => { t with err := true }
  else
    let s := s.count (clusterDie cl) .loomPasses 1
    if r.quarter.isSome then s.fuse cl r m 3 else s

/-! ## The other resources (R426, R427, R432 to R440) -/

/-- LDW reads its operand (R426): the shadow plane takes the entry's rows, and its group owns it (R267).
[DEDUCED, log 30, 31] -/
def State.runLdw (s : State) (cl : Nat) (r : LoomReq) (a : TileName) (f : BFmt) : State :=
  let t := (s.tile r.gid a).getD Tile.free
  let at_ := fun i => Loc.scratch r.gid (t.operandRow r.slot i)
  if (List.range 128).any fun i => (s.poisonAt (at_ i) t.rowBytes).isSome then s.scratchKill r.gid
  else
    let rows := (List.range 128).map (s.tileRow r t)
    s.modLoom cl fun l => { l with shadow := Plane.ofRows f t.ncols r.gid rows }

/-- The registers that a drain of rows writes: four for each row (R433). -/
def drainRegs (rows : List (List Nat)) : List (Vector Word32 32) :=
  rows.flatMap fun row => (List.range 4).map fun j =>
    Vector.ofFn fun l => BitVec.ofNat 32 (row.getD (32 * j + l.val) 0)

/-- MDRN and MDRNT at their grant (R433, R434). [DEDUCED, log 30] -/
def State.grantDrain (s : State) (cl : Nat) (r : LoomReq) (n : AccReg) : State :=
  let (t, s') := s.readAcc r.wid r.gid n.toNat r.seq
  let rows := s.drainRows r.gid n.toNat t (r.scalar.setWidth 32)
  (s'.putAcc r.gid n.toNat AccTile.zero).setOut cl r.id fun r => { r with vout := drainRegs rows }

/-- The rounding of element `i` of a block of an RQS (R440). -/
def LoomReq.roundMode (r : LoomReq) (nb a j i : Nat) : Mode :=
  if r.draws.isEmpty then .rne
  else
    let p := a * nb + j
    .sr (codeAt 16 (((r.draws[4 * (p / 8) + p % 8 / 2]?).bind fun v => v[i]?).getD 0).toNat (p % 2))

/-- Set the MX register images that RQ and RQS write, from the blocks of each (R439). -/
def State.setImages (s : State) (cl : Nat) (r : LoomReq) (f : MxF) (regs : List (List (List Nat))) :
    State :=
  let out := regs.zipIdx.map fun x => foldBlocks (mxFmt f) (r.roundMode (mxBlocks f) x.2) x.1
  s.setOut cl r.id fun r =>
    { r with
      vout := out.map fun o => Vector.ofFn fun l => BitVec.ofNat 32 (codeAt 32 o.2 l.val)
      kout := out.map fun o => BitVec.ofNat 64 o.1 }

/-- RQ and RQS of a tile at their grant (R439). [DEDUCED, log 30] -/
def State.grantRq (s : State) (cl : Nat) (r : LoomReq) (n : AccReg) (f : MxF) : State :=
  let (t, s') := s.readAcc r.wid r.gid n.toNat r.seq
  let rows := s.drainRows r.gid n.toNat t 0x3F800000
  let nb := mxBlocks f
  let regs := (List.range (rqRegs f)).map fun a => (List.range nb).map fun j =>
    ((rows.getD (if f = .e2m1 then 2 * a + j / 4 else a) []).drop (32 * (j % 4))).take 32
  (s'.putAcc r.gid n.toNat AccTile.zero).setImages cl r f regs

/-- RQ and RQS of registers read their operand (R439): with a bad source word everything written is zero
(R271). [DEDUCED, log 30] -/
def State.runRqVector (s : State) (cl : Nat) (r : LoomReq) (f : MxF) : State :=
  match s.warp? r.wid with
  | none => s
  | some w =>
    let nb := mxBlocks f
    let bad := s.badRegs r.wid ((List.range nb).map (r.vsrc + ·)) []
    let s := bad.foldl (fun s q => s.modWarp r.wid fun w => w.addFault (q.fault r.seq false)) s
    if bad.isEmpty then
      let row := fun w : Warp =>
        LoomRow.mk [] ((List.range nb).map fun j => w.packRow (r.vsrc + j) (BitVec.allOnes 32))
      s.setImages cl r f [(r.regRow w 0 row).blocks]
    else
      s.setOut cl r.id fun r => { r with vout := [Vector.replicate 32 0], kout := [0] }

/-- The fates of the 1,056 elements of an image in global memory (R436, R437). -/
def State.imageChecks (s : State) (w : Warp) (acc : Access) (a : Word64) : List (Nat × Chk) × State :=
  let r := (List.range 1056).foldl (fun (r : List (Nat × Chk) × State) i =>
    let c := r.2.resolveVa w acc (a + BitVec.ofNat 64 (4 * i)) true
    (r.1 ++ [(i, c.1)], c.2)) ([], s)
  (r.1, r.2.oneHit s.tlb)

/-- Raise a fault of a loom request in its warp (R248). -/
def State.loomFault (s : State) (r : LoomReq) (order : Nat) (cause : BitVec 8) (a : Word64)
    (struct : BitVec 4 := 0) (late : Bool := false) : State :=
  s.modWarp r.wid fun w => w.addFault
    { engineFault r.seq 0 false order cause a with struct := struct, remoteTo := late }

/-- The elements of an image that pass their checks, with the data that they store (R436, R437). -/
def imageElems (cs : List (Nat × Chk)) (bytes : List Byte) : List Elem :=
  cs.filterMap fun c =>
    match c.2 with
    | .ok loc home va => some ⟨0, loc, 4, va, va, .none,
        BitVec.ofNat 64 (leVal ((bytes.drop (4 * c.1)).take 4)), 0, 0, home, .waiting⟩
    | .zero _ | .bad _ _ _ => none

/-- The lines of memory that the elements of an image ask their homes for, each once (R181). -/
def State.imageLines (s : State) (cl : Nat) (es : List Elem) : State :=
  let ls := es.filterMap fun e =>
    match e.loc with
    | .phys pa => if isRemote pa then none else some (pa / 128)
    | .scratch _ _ | .vault _ | .reed _ _ => none
  ls.eraseDups.foldl (fun s l => s.lineRequest (some (clusterDie cl)) (s.homeOf (128 * l))) s

/-- MSAV at its grant (R436): elements that pass their checks are written, sent to their peer, whose answer the
request waits for (R58), or held as store chunks in an ordered launch; none where the holding buffer has no room.
[DEDUCED, log 30, 31] -/
def State.grantMsav (s : State) (cl : Nat) (r : LoomReq) (n : AccReg) : Option State :=
  match s.warp? r.wid with
  | none => some s
  | some w =>
    let a := r.scalar
    if a.toNat % 256 != 0 then some (s.loomFault r 1 0x13 a)
    else
      let (t, s) := s.readAcc r.wid r.gid n.toNat r.seq
      let bytes := t.elemBytes ++ t.flags
      let (cs, s) := s.imageChecks w .store a
      let es := imageElems cs bytes
      let s := cs.foldl (fun s c =>
        match c.2 with
        | .bad order cause va => s.loomFault r order cause va
        | .zero _ | .ok _ _ _ => s) s
      if w.env.ordered then
        let (id, s) := s.fresh
        let hs := (s.storeChunks w id false es).map fun h => { h with seq := w.storeSeq }
        (s.hold hs).map fun s =>
          s.modWarp r.wid fun w => { w with storeSeq := w.storeSeq + 1 }
      else
        let s := (s.imageLines cl es).setOut cl r.id fun r => { r with remote := es.filter Elem.remote }
        some (es.foldl (fun s e =>
          match e.loc with
          | .phys pa =>
            if isRemote pa then s.sendStore (dieBeam (coreDie w.place.core)) pa e.bytes
            else s.putMem w.place.core r.id pa e.bytes
          | .scratch _ _ | .vault _ | .reed _ _ => s) s)

/-- The bytes of an element of an image in memory, the bolt's held stores over them (R243), or its fault: an
uncorrectable error (R273), or a peer's rejection (R56). -/
def State.imageElem (s : State) (w : Warp) (m : List Host.Cell) (e : Elem) :
    Except (Nat × BitVec 8 × BitVec 4) (List Byte) × State :=
  match e.loc, s.poisonAt e.loc e.size with
  | _, some q => (.error (5, 0x19, q.struct), s)
  | .phys pa, none =>
    if isRemote pa then
      match s.askRemote (dieBeam (coreDie w.place.core)) pa e.size with
      | (some bs, s) => (.ok (overlayAll e.loc bs ((s.heldStores w.place.bid).flatMap HEntry.runs)), s)
      | (none, s) => (.error (4, 0x10, 0), s)
    else (.ok (cellBytes m pa e.size), s)
  | _, none => (.ok (s.homeBytes e.loc e.size), s)

/-- A tile is written from its image, unless an element of it has a fault (R437). -/
def State.readImage (s : State) (w : Warp) (r : LoomReq) (n : AccReg) (es : List Elem) : State :=
  let m := s.boltMem w.place.bid
  let x := es.foldl (fun (x : Option (List Byte) × State) e =>
    match x with
    | (none, s) => (none, s)
    | (some bs, s) =>
      match s.imageElem w m e with
      | (.ok b, s) => (some (bs ++ b), s)
      | (.error f, s) => (none, s.loomFault r f.1 f.2.1 (if f.2.1 = 0x10 then e.va else e.wordVa) f.2.2)) (some [], s)
  match x with
  | (some bs, s) => s.putAcc r.gid n.toNat (AccTile.ofBytes (bs.take 4096) (bs.drop 4096))
  | (none, s) => s

/-- MRST at its grant (R437): a byte that fails a check, lies in a non-resident page or has an
uncorrectable error leaves the tile unchanged in full; where bytes lie with a peer the tile waits for its answer
(R58, R59). [DEDUCED, log 30, 31] -/
def State.grantMrst (s : State) (cl : Nat) (r : LoomReq) (n : AccReg) : State :=
  match s.warp? r.wid with
  | none => s
  | some w =>
    let a := r.scalar
    if a.toNat % 256 != 0 then s.loomFault r 1 0x13 a
    else
      let (cs, s) := s.imageChecks w .load a
      match cs.findSome? fun c =>
        match c.2 with
        | .ok _ _ _ => none
        | .zero va => some (4, 0x11#8, va)
        | .bad order cause va => some (order, cause, va) with
      | some (order, cause, va) => s.loomFault r order cause va
      | none =>
        let es := imageElems cs []
        let s := s.imageLines cl es
        if es.any Elem.remote then s.setOut cl r.id fun r => { r with remote := es }
        else s.readImage w r n es

/-- A request other than a stream at its grant: it reads and changes accumulator tiles and planes; none where it must wait
on. -/
def State.grantOther (s : State) (cl : Nat) (r : LoomReq) : Option State :=
  match r.instr with
  | .swpw _ _ =>
    let g := (s.loom cl).gen + 1
    some ((s.modLoom cl fun l => { l with active := l.shadow, shadow := l.active, gen := g }).setOut cl
      r.id fun r => { r with result := g.zeroExtend 64 })
  | .mstat _ n _ =>
    let v := (s.acc r.gid n.toNat).status (s.loom cl).gen
    some (s.setOut cl r.id fun r => { r with result := v })
  | .mclr _ n => some (s.putAcc r.gid n.toNat AccTile.zero)
  | .mdrn _ n _ _ => some (s.grantDrain cl r n)
  | .mdrnt _ n _ _ => some (s.grantDrain cl r n)
  | .msav _ n _ => s.grantMsav cl r n
  | .mrst _ n _ => some (s.grantMrst cl r n)
  | .rq _ n _ f => some (s.grantRq cl r n f)
  | .rqs _ n _ f _ => some (s.grantRq cl r n f)
  | _ => some s

/-! ## Requests with a peer (R56, R58, R59) -/

/-- The peers have answered a request that waits for them, all of its elements at once (R56, R58): an MSAV has been written
there, but for what a peer rejects, and an MRST reads its image. [DESIGN CHOICE, log 60] -/
def State.reqAnswered (s : State) (cl : Nat) (r : LoomReq) : State :=
  if r.remote.isEmpty then s
  else
  let s := s.setOut cl r.id fun r => { r with remote := [] }
  match r.instr with
  | .mrst _ n _ => (s.warp? r.wid).elim s fun w => s.readImage w r n r.remote
  | _ => r.remote.foldl (fun s e =>
      match s.accepted with
      | (true, s) => s
      | (false, s) => s.loomFault r 4 0x10 e.va) s

/-- The peers give a request no answer (R59): all of its remote elements time out at once, and the fault, marked as a
time-out, names the first of them. [DESIGN CHOICE, log 60] -/
def State.reqTimedOut (s : State) (cl : Nat) (r : LoomReq) : State :=
  ((r.remote.filter Elem.remote).head?).elim s fun e =>
    (s.setOut cl r.id fun r => { r with remote := [] }).loomFault r 4 0x10 e.va 0 true

/-! ## The end of a request (R157, R166, R427) -/

/-- A request leaves the loom, and TC falls with the last request of its instruction (R158). -/
def State.endReq (s : State) (cl : Nat) (r : LoomReq) : State :=
  let s := s.modLoom cl fun l => { l with reqs := l.reqs.filter fun q => q.id != r.id }
  if (s.loom cl).reqs.any fun q => q.op == r.op then s else s.finish r.wid r.op

/-- A loom read of an entry has finished (R185). -/
def State.unread (s : State) (r : LoomReq) (a : TileName) : State :=
  s.modTile r.gid a fun t => { t with loomRead := t.loomRead - 1 }

/-- A vector register that a request writes: an element that was written since the issue ends with that value or with the
request's (R156, R240). [DEDUCED, log 30] -/
def LoomReq.vecOut (r : LoomReq) (w : Warp) (i : Nat) (v : Vector Word32 32) : Vector Word32 32 :=
  Vector.ofFn fun l =>
    let now := ((w.regs.v[i]?).getD (Vector.replicate 32 0))[l]
    if now != ((r.issued.v[i]?).getD (Vector.replicate 32 0))[l] && Config.destPick r.id i l.val then now else v[l]

/-- A scale register that a request writes, byte by byte (R156, R240). [DEDUCED, log 30] -/
def LoomReq.scaleOut (r : LoomReq) (w : Warp) (i : Nat) (v : Word64) : Word64 :=
  (List.range 8).foldl (fun (o : Word64) b =>
    let at_ := fun x : Word64 => bitsOf x (8 * b + 7) (8 * b)
    if at_ (w.kget i) != at_ ((r.issued.k[i]?).getD 0) && Config.destPick r.id i (32 + b) then
      setByte o b (BitVec.ofNat 8 (at_ (w.kget i)))
    else o) v

/-- Write the register images of a request from its first destination on. -/
def State.writeRegs (s : State) (r : LoomReq) : State :=
  match s.warp? r.wid with
  | none => s
  | some w =>
    let s := r.vout.zipIdx.foldl (fun s x => s.putVec r.wid (r.vreg + x.2) (r.vecOut w (r.vreg + x.2) x.1)) s
    r.kout.zipIdx.foldl (fun s x => s.putScale r.wid (r.vreg + x.2) (r.scaleOut w (r.vreg + x.2) x.1)) s

/-- Bytes of scratch that a request writes at an offset: one that was written since the issue ends with that value or with
the request's (R156, R185, R240). [DEDUCED, log 30] -/
def State.bytesOut (s : State) (r : LoomReq) (a : Nat) (bs : List Byte) : List Byte :=
  let now := cellBytes (s.groupMem r.gid) a bs.length
  (bs.zip (now.zip (cellBytes r.scratch a bs.length))).zipIdx.map fun x =>
    if x.1.2.1 != x.1.2.2 && Config.destPick r.id a x.2 then x.1.2.1 else x.1.1

/-- Write the rows of an MDRNT, and change its entry's state (R434). -/
def State.writeTile (s : State) (r : LoomReq) (a : TileName) : State :=
  match s.tile r.gid a with
  | none => s
  | some t =>
    let s := r.vout.zipIdx.foldl (fun s x =>
      let at_ := t.operandRow r.slot (x.2 / 4) + 128 * (x.2 % 4)
      s.fillScratch r.id r.gid at_ (s.bytesOut r at_ (x.1.toList.flatMap fun e => leBytes 4 e.toNat))) s
    s.modTile r.gid a fun t =>
      if t.counted then t.finishSlot r.op
      else { t with state := .ready }

/-- What a request writes as it finishes (R427, R433 to R435, R439). [DEDUCED, log 30] -/
def State.finishReq (s : State) (r : LoomReq) : State :=
  match r.instr with
  | .ldw _ a _ => s.unread r a
  | .swpw _ b => s.modWarp r.wid fun w => w.sset b r.result
  | .mstat _ _ b => s.modWarp r.wid fun w => w.sset b r.result
  | .mdrnt _ _ a _ => s.writeTile r a
  | .mdrn _ _ _ _ | .rq _ _ _ _ | .rqs _ _ _ _ _ | .rqVector _ _ _ _ | .rqsVector _ _ _ _ _ =>
    s.writeRegs r
  | _ => s

/-! ## Events -/

/-- Whether the pass in the stream port has streamed before a request is granted (R162, R164, R424): before the next pass,
before the planes are swapped, and before a request reads or writes an accumulator tile of the pass. -/
def Loom.streamsFirst (l : Loom) (r : LoomReq) : Bool :=
  match r.instr with
  | .swpw _ _ => true
  | _ => (streamOf r.instr).isSome || l.reqs.any fun q => q.inPort && q.shares r

/-- Grant a request: it acts or enters the stream port. -/
def State.grantReq (s : State) (cl : Nat) (r : LoomReq) : State :=
  match streamOf r.instr with
  | some m => s.grantStream cl r m
  | none => ((s.modLoom cl fun l => l.grant r.id r.id).grantOther cl r).getD s

/-- LOOM_GRANT (R162): a free resource of a cluster's loom grants the first request in order that may
be granted, after the pass in the stream port has streamed where it must. -/
def execLoomGrant (cl : Nat) (k : LoomRes) (s : State) : Host.Outcome State Fault Refusal :=
  .next (match (s.loom cl).order k with
    | [] => s
    | r :: _ =>
      let s := if (s.loom cl).streamsFirst r then s.streamPass cl else s
      if (s.loom cl).reqs.any fun q => q.id == r.id then s.grantReq cl r else s)

/-- LOOM_REQUEST_AGING (R163): a request that has waited 16,384 cycles is treated as priority 3. -/
def execLoomRequestAging (cl : Nat) (rid : Nat) (s : State) : Host.Outcome State Fault Refusal :=
  .next (if (s.loom cl).reqs.any fun r => r.id == rid && !r.granted then
    s.setOut cl rid fun r => { r with aged := true }
  else s)

/-- Whether a granted request belongs to a pass. -/
def LoomReq.ofPass (rid : Nat) (r : LoomReq) : Bool := r.granted && r.pass == rid

/-- LOOM_PASS_FINISH (R166): the requests of a pass have streamed and written their rows, and TC falls. -/
def execLoomPassFinish (cl : Nat) (rid : Nat) (s : State) : Host.Outcome State Fault Refusal :=
  let s := if (s.loom cl).reqs.any fun r => r.ofPass rid && r.inPort then s.streamPass cl else s
  .next (((s.loom cl).reqs.filter (LoomReq.ofPass rid)).foldl (fun s r =>
    match streamOf r.instr with
    | some m => (m.tile.elim s (s.unread r)).endReq cl r
    | none => s) s)

/-- What a request reads after its grant, as it finishes (R420, R426, R439): LDW and RQ and RQS of registers. -/
def State.readOperand (s : State) (cl : Nat) (r : LoomReq) : State :=
  match r.instr with
  | .ldw _ a f => s.runLdw cl r a f
  | .rqVector _ _ _ f => s.runRqVector cl r f
  | .rqsVector _ _ _ f _ => s.runRqVector cl r f
  | _ => s

/-- LOOM_REQUEST_FINISH (R427): a request that is not a stream writes its destination, and TC falls. -/
def execLoomRequestFinish (cl : Nat) (rid : Nat) (s : State) : Host.Outcome State Fault Refusal :=
  .next (match (s.loom cl).reqs.find? fun r => r.id == rid with
    | none => s
    | some r =>
      if r.granted && r.remote.isEmpty && (streamOf r.instr).isNone then
        let s := s.readOperand cl r
        match (s.loom cl).reqs.find? fun q => q.id == rid with
        | some r => (s.finishReq r).endReq cl r
        | none => s
      else s)

end Sys2Proof.Machine
end

