-- ==== Sys2Proof/Machine/Preempt.lean ====
section
/-! DEFINITION. Pre-emption (R259 to R270): blocking points, saving or discarding a bolt into group images,
restoring it, and the requests of PREEMPTp. -/

namespace Sys2Proof.Machine

/-! ## Blocking points (R259, R260) -/

/-- Whether an element of a load or atomic has its home off a ply: on another die, or with a peer (R259). -/
def Elem.offPly (e : Elem) (d : Die) : Bool := e.remote || e.home.elim false fun h => h != d

/-- Whether a token counts a load or returning atomic in flight with an element off its ply that has not
been returned (R259). -/
def State.offPlyToken (s : State) (w : Warp) (t : Token) : Bool :=
  s.ops.any fun o =>
    o.id == t.op && o.returns && o.elems.any fun e =>
      (o.isAtomic || e.state == .waiting) && e.offPly (coreDie w.place.core)

/-- Whether a counter of a failing WAIT makes it a blocking point: it exceeds its immediate, and its oldest
operation is one off the ply (R259). -/
def State.farWait (s : State) (w : Warp) (ts : List Token) (imm : Nat) : Bool :=
  decide (imm < ts.length) && ts.head?.elim false fun t => s.offPlyToken w t

/-- The wake kind of a blocking point with its object and detail (R262). -/
structure WakeRec where
  kind   : Nat
  obj    : Nat
  detail : Nat
  deriving DecidableEq, Repr

/-- The wake kind of a barrier level (R262). [DEDUCED, log 47] -/
def wakeOfLevel : Lvl → Nat
  | .grp => 1
  | .bolt => 2
  | .beam => 3

/-- What a warp waits for, from the hold of its next group (R262); an exited warp waits for nothing.
[DEDUCED, log 47] -/
def Warp.wakeRec (w : Warp) : WakeRec :=
  if w.exited then ⟨0, 0, 0⟩
  else
    match w.sched.hold with
    | some (.barw l n gen) => ⟨wakeOfLevel l, n.toNat, gen.toNat⟩
    | some (.tile n _) => ⟨4, n.toNat, 0⟩
    | some .fifthFetchw => ⟨5, 0, 0⟩
    | some .mwait => ⟨7, 0, 0⟩
    | some (.wait l c k t) => ⟨6, 0, lay [(16, t.toNat), (12, k.toNat), (6, c.toNat), (0, l.toNat)]⟩
    | some (.counter _) | some (.secondArrival _ _ _) | some .tdef | some (.fence _) | some .firstAcquire
    | some .acquire | some .behind | some .flush | some (.reedf _) | some (.loomTable _)
    | some (.reedQueue _) | some (.holdingRoom _) | some .requests | some .fetchMiss | some .ofence
    | some .drain | some .tfence | some .tret | none => ⟨0, 0, 0⟩

/-- Whether a warp is at a blocking point (R259). [DEDUCED, log 47] -/
def State.blocking (s : State) (w : Warp) : Bool :=
  !w.exited && w.trap.isNone && w.busy == .none &&
    match w.sched.hold with
    | some (.barw l n gen) => gen == s.generation w l n
    | some (.tile n need) =>
      (need == .count || need == .freeable) &&
        (s.tile w.place.gid n).elim false fun t => t.counted && t.count == 0
    | some .fifthFetchw => (s.group? w.place.gid).elim false fun g => decide (4 ≤ g.fetches.length)
    | some .mwait => !(s.watchChanged w w.mwaitSeq).1
    | some (.wait l c k t) =>
      !w.waitMet l c k t && (s.farWait w w.cnt.lc l.toNat || s.farWait w w.cnt.sc c.toNat)
    | some (.counter _) | some (.secondArrival _ _ _) | some .tdef | some (.fence _) | some .firstAcquire
    | some .acquire | some .behind | some .flush | some (.reedf _) | some (.loomTable _)
    | some (.reedQueue _) | some (.holdingRoom _) | some .requests | some .fetchMiss | some .ofence
    | some .drain | some .tfence | some .tret | none => false

/-- The save slots of a partition that nothing holds, lowest first (R270). -/
def State.freeSaveSlots (s : State) (p : PartN) : List Nat :=
  (List.range (s.part p).saveCount.toNat).filter fun k => !(s.part p).used.contains k

/-- The groups of a partition whose save has begun and has not taken its slots. [DEDUCED, log 47] -/
def State.slotsPromised (s : State) (p : PartN) : Nat :=
  ((s.bolts.filter fun b =>
    s.partOf b.lid == p &&
      match b.save with
      | .draining _ => true
      | .resident | .named | .saved _ _ _ => false).map Bolt.groups).sum

/-- Whether a bolt is evictable (R260, R270): every warp is at a blocking point or has exited, it has not
finished, its save has not begun, and the pool has a slot for each of its groups. [DEDUCED, log 47] -/
def State.evictable (s : State) (b : Bolt) : Bool :=
  let p := s.partOf b.lid
  (b.save == .resident || b.save == .named) && !b.finished && !b.again &&
    (s.boltGroups b.bid).all (fun g => !g.killed) &&
    (s.boltWarps b.bid).all (fun w => w.exited || s.blocking w) &&
    (s.boltWarps b.bid).any (fun w => !w.exited) &&
    decide ((s.boltGroups b.bid).length + s.slotsPromised p ≤ (s.freeSaveSlots p).length)

/-! ## Step 2 of a save (R261, R264) -/

/-- Whether a bolt belongs to an idem launch, whose groups are discarded (R264). -/
def State.boltIdem (s : State) (b : Bolt) : Bool := (s.launch? b.lid).elim false fun l => l.env.idem

/-- Cut off a load or returning atomic: each element holds its old value or its new one (R264). -/
def State.cutLoad (s : State) (o : Op) : State :=
  let s := o.elems.foldl (fun s e =>
    let (i, s) := s.draw
    if !Config.cutPerformed i then s
    else if e.state == .waiting then
      (if o.kind == .load then s.returnElem o e
       else
        let s := s.performAtomic o e
        let old := ((s.ops.find? fun p => p.id == o.id).bind fun p =>
          p.elems.find? fun f => f.lane == e.lane).elim 0 fun f => f.old.toNat
        s.deliver o.wid e old)
    else if o.kind == .load then s
    else s.deliver o.wid e e.old.toNat) s
  ({ s with ops := s.ops.filter fun p => p.id != o.id } : State).finish o.wid o.id

/-- A save begins (R261): the warps of the bolt issue nothing more; in an idem launch its loads and
returning atomics are cut off (R264). -/
def State.beginSave (s : State) (b : Bolt) (byHost : Bool) : State :=
  let s := s.modBolt b.bid fun b => { b with save := .draining byHost }
  if s.boltIdem b then
    ((s.ops.filter fun o => o.returns && (s.boltWarps b.bid).any fun w => w.place.wid == o.wid).foldl
      State.cutLoad s).startAll
  else s

/-- Whether an operation waits for a held atomic of its warp to be flushed: it goes with the held entries of its
bolt (R228, R229, R261). [DEDUCED, log 47] -/
def State.awaitsFlush (s : State) (o : Op) : Bool :=
  let behind := fun p : Op => p.isRelease && s.held.any fun e => e.atomic && e.wid == p.wid && decide (e.op < p.id)
  o.l1.isNone &&
    (s.heldAcquire o.wid o.seq || (o.kind != .load && s.heldRelease o.wid o.seq) || behind o ||
      (o.kind != .load && (s.opsOf o.wid).any fun p => decide (p.seq < o.seq) && behind p))

/-- Whether an operation keeps a save in step 2 (R261): a store, an arrival, an atomic that returns nothing,
or a load or atomic with an element on the ply that has not returned. [DEDUCED, log 47] -/
def State.keepsSave (s : State) (o : Op) : Bool :=
  !s.awaitsFlush o &&
    (!o.returns || o.elems.any fun e => e.size != 0 &&
      (o.isAtomic || e.state == .waiting) && !e.offPly (coreDie o.core))

/-- Whether a copy stands at a destination row boundary (R191). [DEDUCED, log 47] -/
def Copy.atRow (c : Copy) : Bool :=
  let p := unitPlace c.src c.tr c.next
  if c.tr then p.1 == 0 else decide (p.2 < fmtUnit c.src.fmt)

/-- Whether a copy stops for a save where it stands (R191, R261): it has units left, does not write a
counted entry, and is at a row boundary or has not begun. [DEDUCED, log 47] -/
def Copy.stops (c : Copy) : Bool :=
  c.slot.isNone && !c.stopped && c.sent.isNone && c.nextUnit.isSome && (!c.running || c.atRow)

/-- Stop the copies of a bolt that can stop: their positions go to the resume counters (R191). -/
def State.stopCopies (s : State) (bid : Nat) : State :=
  (s.copies.filter fun c => c.bid == bid && !c.paused && c.stops).foldl (fun s c =>
    (s.modTile c.gid c.name fun t => { t with iter := t.iter.setCnt c.next }).modCopy c.id fun c =>
      { c with running := false, paused := true, xlat := .none, kept := true, before := [] }) s

/-- Whether step 2 of a bolt's save is over (R261). -/
def State.saveReady (s : State) (b : Bolt) : Bool :=
  let gs := s.boltGroups b.bid
  let mine := fun wid : Nat => (s.boltWarps b.bid).any fun w => w.place.wid == wid
  s.ops.all (fun o => !(mine o.wid && s.keepsSave o)) &&
    s.looms.all (fun x => x.2.reqs.all fun r => !mine r.wid) &&
    gs.all (fun g => g.fetches.isEmpty && g.tiles.toList.all fun t => !t.counted || t.rsv.isEmpty) &&
    s.copies.all (fun c => c.bid != b.bid || c.paused) &&
    decide (gs.length ≤ (s.freeSaveSlots (s.partOf b.lid)).length)

/-! ## Group images (R265 to R267) -/

/-- The bytes of a plane of an image, as pieces at offsets (R267). -/
def Plane.pieces (p : Plane) : List (Nat × List Byte) :=
  (p.cols.toList.zipIdx.map fun c => (0x100 * c.2, leBytes 256 c.1.toNat)) ++
    (p.scales.toList.zipIdx.map fun c => (0x8000 + 8 * c.2, leBytes 8 c.1.toNat)) ++
    [(0x8400, leBytes 1 p.fmt.code), (0x8402, leBytes 2 p.k)]

/-- A plane of an image (R267). -/
def Plane.ofImage (m : List Host.Cell) (base : Nat) (owner : Nat) : Plane where
  fmt := (BFmt.ofCode? (cellWord m (base + 0x8400) 1)).getD Plane.start.fmt
  k := cellWord m (base + 0x8402) 2
  cols := Vector.ofFn fun n => BitVec.ofNat 2048 (cellWord m (base + 0x100 * n.val) 256)
  scales := Vector.ofFn fun n => BitVec.ofNat 64 (cellWord m (base + 0x8000 + 8 * n.val) 8)
  owner := some owner

/-- Put pieces into memory from a base. [DEDUCED, log 48] -/
def putPieces (m : List Host.Cell) (base : Nat) (ps : List (Nat × List Byte)) : List Host.Cell :=
  ps.foldl (fun m p => cellPut m (base + p.1) p.2) m

/-- The beam-barrier generations of a launch on a ply's beam (R41). [DEDUCED, log 49] -/
def State.beamGen (s : State) (lid : Nat) (d : Die) (n : Nat) : BitVec 32 :=
  ((s.beam (dieBeam d)).reed.bars.find? fun x => x.lid == lid && x.n.toNat == n).elim 0 BeamBar.gen

/-- The planes of its loom that a group owns: the active one and the shadow (R267). -/
def State.planesOf (s : State) (g : Group) : Bool × Bool :=
  let l := s.loom (coreCluster g.core)
  (l.active.owner == some g.gid, l.shadow.owner == some g.gid)

/-- The header of a group's image, as words at offsets (R265). [DEDUCED, log 48] -/
def State.imageHeader (s : State) (b : Bolt) (l : Launch) (g : Group) : List (Nat × Nat × Nat) :=
  let own := s.planesOf g
  [(0x00, 2, l.env.tag.toNat), (0x02, 2, l.ctx.val), (0x10, 12, b.index.toNat), (0x1C, 1, g.idx.toNat),
    (0x1D, 1, g.warps)] ++
  (g.named.toList.zipIdx.flatMap fun x =>
    [(0x100 + 16 * x.2, 4, x.1.gen.toNat), (0x104 + 16 * x.2, 4, x.1.mask.toNat),
      (0x108 + 16 * x.2, 4, x.1.arrived.toNat)]) ++
  (b.bars.toList.zipIdx.flatMap fun x =>
    [(0x200 + 16 * x.2, 4, x.1.gen.toNat), (0x204 + 16 * x.2, 4, x.1.mask.toNat),
      (0x208 + 16 * x.2, 4, x.1.arrived.toNat)]) ++
  ((List.range 8).map fun n => (0x280 + 16 * n, 4, (s.beamGen g.lid (coreDie g.core) n).toNat)) ++
  [(0x300, 8, own.1.toNat + 2 * own.2.toNat), (0x308, 4, (s.loom (coreCluster g.core)).gen.toNat)]

/-- The bad elements of a tile of a group. -/
def State.badAcc (s : State) (gid t : Nat) : List (Nat × Nat) :=
  s.regPoison.filterMap fun q =>
    match q with
    | .acc g u r c => if g = gid ∧ u = t then some (r, c) else none
    | .lane _ _ _ | .scale _ _ => none

/-- The accumulator areas of a group's image: elements, flags and poison (R265, R266, R274). -/
def State.imageAccs (s : State) (g : Group) : List (Nat × List Byte) :=
  g.accs.zipIdx.flatMap fun x =>
    let bad := s.badAcc g.gid x.2
    let t : AccTile := bad.foldl (fun (t : AccTile) q =>
      { t with els := vmod t.els q.1 fun e => e.setIfInBounds q.2 0 }) x.1
    [(0x10000 + 4096 * x.2, t.elemBytes), (0x30000 + 128 * x.2, t.flags),
      (0x31000 + 128 * x.2, leBytes 128 (bad.foldl (fun n q => Nat.lor n (2 ^ (128 * q.1 + q.2))) 0))]

/-- The scratch of a group with the words that have an uncorrectable error as zero (R274).
[DEDUCED, log 48] -/
def State.soundScratch (s : State) (g : Group) : List Host.Cell :=
  g.scratch.filter fun c => (s.poisonAt (.scratch g.gid c.1) 1).isNone

/-- What the frame of a saved warp reports: no trap, RMODE 1, or 0 where its group is discarded (R261,
R264). -/
def Warp.saveRec (w : Warp) (idem : Bool) : TrapRec where
  cause := 0
  addr := 0
  lane := 0
  flanes := 0
  struct := 0
  space := 7
  remoteTo := false
  fetch := false
  precise := false
  more := false
  rmode := !idem
  word := 0
  pc := w.pc
  widx := w.widx

/-- The counters and wake fields of the frame of a saved warp (R257, R262). [DEDUCED, log 48] -/
def Warp.saveExtra (w : Warp) : FrameExtra :=
  let k := w.wakeRec
  ⟨true, w.cnt.lc.length, w.cnt.sc.length, w.cnt.cc.length, w.cnt.tc.length, k.kind, k.obj, k.detail⟩

/-- The frames of a group's image: of a warp that has left its slot RMODE and PREEMPT are set (R261), and of one that
the group does not have PREEMPT alone (R265). [DEDUCED, log 48] -/
def State.imageFrames (s : State) (g : Group) (idem : Bool) (base : Nat) (m : List Host.Cell) :
    List Host.Cell :=
  (List.range 32).foldl (fun m i =>
    let at_ := base + 0xE0000 + 0xA000 * i
    match (s.groupWarps g.gid).find? fun w => w.place.widx.toNat == i with
    | some w => s.putFrame m (at_ + ·) w (w.saveRec idem) w.saveExtra
    | none => cellPutWord (cellClear m at_ 0x300) (at_ + 0x10) 8 (2 ^ 47 + if i < g.warps ∧ !idem then 2 ^ 46 else 0)) m

/-- Memory with the image of a group in a save slot (R261, R265). [DEDUCED, log 48] -/
def State.groupImage (s : State) (b : Bolt) (l : Launch) (g : Group) (slot : Nat) : List Host.Cell :=
  let base := s.slotBase l.part slot
  let own := s.planesOf g
  let loom := s.loom (coreCluster g.core)
  let m := putWords (cellClear s.mem base 0xE0000) base (s.imageHeader b l g)
  let m := putPieces m base (g.tiles.toList.zipIdx.map fun t => (0x1000 + 128 * t.2, t.1.image))
  let held := s.held.filter fun e => e.gid == g.gid && e.spilled.isNone
  let m := putPieces m base (held.zipIdx.map fun e => (0x4000 + 48 * e.2, e.1.bytes))
  let m := putPieces m base (s.imageAccs g)
  let m := if own.1 then putPieces m (base + 0x40000) loom.active.pieces else m
  let m := if own.2 then putPieces m (base + 0x50000) loom.shadow.pieces else m
  let m := (s.soundScratch g).foldl (fun m c => cellSet m (base + 0x60000 + c.1) c.2) m
  s.imageFrames g l.env.idem base m

/-- The warps of a group enter saved (R139, R261): each makes its END record, and L1 writes back the group's
dirty lines (R178). -/
def State.suspend (s : State) (g : Group) (reason : Nat) : State :=
  let s := (s.groupWarps g.gid).foldl (fun s w => s.recordEnd w reason) s
  let s := (s.groupWarps g.gid).foldl (fun s w => s.modWarp w.place.wid fun w =>
    { w with sched := ⟨.saved, 0, 0, false, none⟩, packet := none }) s
  let s := (s.groupWarps g.gid).foldl (fun s w => s.l1Exit w.place.wid) (s.l1WriteBack g.core)
  s.modLoom (coreCluster g.core) fun l => l.disown g.gid

/-- Steps 3 to 5 of a save (R261): the images are written into the lowest free slots, the warps enter saved,
and the ply sends LEAVE. -/
def State.writeSave (s : State) (b : Bolt) (l : Launch) (byHost : Bool) : State :=
  let gs := s.boltGroups b.bid
  let slots := (s.freeSaveSlots l.part).take gs.length
  let m := (gs.zip slots).foldl (fun s x => { s with mem := s.groupImage b l x.1 x.2 }) s
  let s := gs.foldl (fun s g => s.suspend g (if l.env.idem then 2 else 1)) m
  let s := s.modPart l.part fun r => { r with used := slots ++ r.used }
  let s := s.modBolt b.bid fun b =>
    { b with save := .saved ((gs.map Group.gid).zip slots) byHost false }
  (s.leavePly l.lid b.die).unpend l.part b.bid 1

/-- BOLT_SAVE (R261, R264): a bolt that a request names begins its save once it is evictable; a bolt whose
save has begun stops its copies, and is written to its images once everything else is done. -/
def execBoltSave (k : Nat) (s : State) : Host.Outcome State Fault Refusal :=
  .next (match s.bolt? k with
    | none => s
    | some b =>
      match b.save with
      | .named => if s.evictable b then s.beginSave b true else s
      | .draining byHost =>
        let s := s.stopCopies k
        match s.launch? b.lid with
        | some l => if s.saveReady b then s.writeSave b l byHost else s
        | none => s
      | .resident | .saved _ _ _ => s)

/-! ## Wakes and restores (R262, R263, R267, R268) -/

/-- Whether the wake condition of a saved warp holds, from the image (R262). -/
def State.wakeHolds (s : State) (w : Warp) (base : Nat) : Bool :=
  let frame := base + 0xE0000 + 0xA000 * w.place.widx.toNat
  let f := cellWord s.mem (frame + 0x60) 8
  let obj := fld f 8 8
  let gen := fld f 16 32
  match fld f 0 8 with
  | 1 => cellWord s.mem (base + 0x100 + 16 * obj) 4 != gen
  | 2 => cellWord s.mem (base + 0x200 + 16 * obj) 4 != gen
  | 3 => (s.beamGen w.place.lid (coreDie w.place.core) obj).toNat != gen
  | 4 =>
    let t := cellWord s.mem (base + 0x1000 + 128 * obj) 8
    fld t 47 9 != 0 || fld t 38 9 != 0
  | 5 => true
  | 6 => decide (fld (cellWord s.mem (frame + 0x38) 8) 0 6 ≤ fld f 16 6)
  | 7 => w.busy == .woken
  | _ => false

/-- Whether a saved bolt is restorable (R262, R269). -/
def State.restorable (s : State) (b : Bolt) : Bool :=
  match b.save with
  | .saved slots byHost released =>
    (!byHost || released) && (s.launch? b.lid).elim false (fun l => !l.stopped) &&
      s.ops.all (fun o =>
        !(o.returns && !s.awaitsFlush o && (s.boltWarps b.bid).any fun w => w.place.wid == o.wid)) &&
      (s.boltWarps b.bid).any fun w =>
        !w.exited && (slots.find? fun x => x.1 == w.place.gid).elim false fun x =>
          s.wakeHolds w (s.slotBase w.env.part x.2)
  | .resident | .named | .draining _ => false

/-- SAVED_MWADDR_READ (R262): the watched word of a saved warp is read; a new value wakes it. -/
def execSavedMwaddrRead (wid : Nat) (s : State) : Host.Outcome State Fault Refusal :=
  .next (match s.warp? wid with
    | none => s
    | some w =>
      match s.savedFrame w with
      | none => s
      | some base =>
        if fld (cellWord s.mem (base + 0x60) 8) 0 8 = 7 then
          let v := { w with
            mwAddr := BitVec.ofNat 64 (cellWord s.mem (base + 0x68) 8)
            mwOld := BitVec.ofNat 64 (cellWord s.mem (base + 0x70) 8) }
          let (changed, s) := s.watchChanged v v.mwaitSeq
          s.modWarp wid fun w => { w with busy := if changed then .woken else .none }
        else s)

/-- The elements of a list from one place on, and then those before it. -/
def rotated {α : Type} (xs : List α) (i : Nat) : List α := xs.drop (i % xs.length) ++ xs.take (i % xs.length)

/-- Where the groups of a saved bolt go (R119, R128, R183, R267): each on any core of the ply that it fits, with
tile-table entries for it, and a group with planes on a cluster whose planes nobody owns; `pick` chooses among those.
[DEDUCED, log 49] -/
def State.assignSaved (s : State) (l : Launch) (pick : Nat) : List (Group × Bool) → List Room → List (Nat × Nat) →
    List Nat → Option (List (Nat × List (BitVec 5)))
  | [], _, _, _ => some []
  | (g, planes) :: gs, rs, tiles, owned =>
    let need := g.tiles.toList.countP Tile.mapped
    let used := fun core : Nat =>
      s.tilesUsed core + ((tiles.filter fun t => t.1 == core).map Prod.snd).sum
    let here := rs.filter fun r =>
      r.fits l && decide (used r.core + need ≤ 64) && (!planes || !owned.contains (coreCluster r.core))
    (rotated here (Config.restorePick pick gs.length)).findSome? fun r =>
      (s.assignSaved l pick gs (rs.map fun q => q.take l r.core) ((r.core, need) :: tiles)
        (if planes then coreCluster r.core :: owned else owned)).map fun as =>
          (r.core, r.slots.take l.warps) :: as

/-- The clusters of a loom plane that a resident group owns (R267). -/
def State.ownedClusters (s : State) : List Nat :=
  (s.looms.filter fun x => x.2.active.owner.isSome || x.2.shadow.owner.isSome).map Prod.fst

/-- The ownership word of a group's image (R265, R267). -/
def State.imageOwns (s : State) (base : Nat) : Bool × Bool :=
  let n := cellWord s.mem (base + 0x300) 8
  (n.testBit 0, n.testBit 1)

/-- A tile-table entry from an image (R265): the multicast copy that fills an armed entry still does. -/
def Tile.restored (old : Tile) (b : List Byte) : Tile :=
  let t := Tile.ofImage b
  if t.arm && !t.counted then { t with rsv := old.rsv } else t

/-- A group as its image holds it, on its new core (R263, R268); a beam barrier whose generation has
completed meanwhile has gone on (R41). -/
def State.groupOfImage (s : State) (g : Group) (l : Launch) (base core : Nat) : Group :=
  let m := s.mem
  { g with
    core := core
    tiles := Vector.ofFn fun n => (g.tiles[n]).restored (cellBytes m (base + 0x1000 + 128 * n.val) 128)
    scratch := cellSlice m (base + 0x60000) l.env.scratch 0
    accs := (List.range g.accs.length).map fun t =>
      AccTile.ofBytes (cellBytes m (base + 0x10000 + 4096 * t) 4096) (cellBytes m (base + 0x30000 + 128 * t) 128)
    named := g.named.mapIdx fun n b =>
      { b with
        gen := BitVec.ofNat 32 (cellWord m (base + 0x100 + 16 * n) 4)
        mask := BitVec.ofNat 32 (cellWord m (base + 0x104 + 16 * n) 4)
        arrived := BitVec.ofNat 32 (cellWord m (base + 0x108 + 16 * n) 4) }
    beamLvl := g.beamLvl.mapIdx fun n b =>
      if (s.beamGen g.lid (coreDie g.core) n).toNat = cellWord m (base + 0x280 + 16 * n) 4 then b else b.turn }

/-- The accumulator elements of an image whose poison bit is set (R265, R274). -/
def State.imageBadAccs (s : State) (g : Group) (base : Nat) : List RegPoison :=
  (List.range g.accs.length).flatMap fun t =>
    let n := cellWord s.mem (base + 0x31000 + 128 * t) 128
    (List.range 8).flatMap fun r => (List.range 128).filterMap fun c =>
      if n.testBit (128 * r + c) then some (.acc g.gid t r c) else none

/-- A warp as its frame in an image holds it, in its new slot (R255, R263, R463). -/
def State.resume (s : State) (w : Warp) (base core : Nat) (slot : BitVec 5) : State :=
  let frame := base + 0xE0000 + 0xA000 * w.place.widx.toNat
  let m := s.mem
  let f30 := frameWord m (frame + ·) 0x30 8
  let nxt := frameResume m (frame + ·) (fun pc i => (pc, i)) true
  let restart := fld (frameWord m (frame + ·) 0x10 8) 46 1 == 0
  let part := (PartSz.ofCode? (fld f30 48 3)).getD w.ctl.part
  let epart := (PartSz.ofCode? (fld f30 51 3)).getD w.region.ctl.part
  let t := s.time
  let scratch := s.groupMem w.place.gid
  let s := (s.loadPoison w m (frame + ·)).modWarp w.place.wid fun w =>
    let w := (w.loadRegs m (frame + ·)).loadControl m (frame + ·) part epart restart
    { w with
      place := { w.place with core := core, slot := slot }
      pc := nxt.1
      widx := nxt.2
      fenced := w.regs.file
      fencedMem := scratch
      fenceSeq := 0
      waitRec := if restart then w.counts else w.waitRec
      hscr0 := 0
      hscr1 := 0
      busy := .none
      sched := ⟨if w.exited then .exiting else .pending, t, 0, false, none⟩ }
  (s.warp? w.place.wid).elim s fun w => s.recordStart w 1

/-- The planes that a group owns are written to its new cluster's loom, with their generation (R267). -/
def State.restorePlanes (s : State) (gid base cl : Nat) : State :=
  let own := s.imageOwns base
  if !own.1 && !own.2 then s
  else
    let m := s.mem
    s.modLoom cl fun l =>
      { l with
        active := if own.1 then Plane.ofImage m (base + 0x40000) gid else l.active
        shadow := if own.2 then Plane.ofImage m (base + 0x50000) gid else l.shadow
        gen := BitVec.ofNat 32 (cellWord m (base + 0x308) 4) }

/-- The copies of a group that its save stopped go on in its new cluster, from the resume counters (R191,
R263). -/
def State.resumeCopies (s : State) (gid cl : Nat) : State :=
  { s with
    copies := s.copies.map fun c =>
      if c.gid = gid then
        { c with
          cluster := cl
          paused := false
          next := (s.tile gid c.name).elim c.next fun t => t.iter.start }
      else c }

/-- Restore one group from its image onto a core (R263), which has no older copy of what its warps have read
(R225). -/
def State.restoreGroup (s : State) (l : Launch) (g : Group) (slot core : Nat) (slots : List (BitVec 5)) :
    State :=
  let base := s.slotBase l.part slot
  let g' := s.groupOfImage g l base core
  let bad := s.imageBadAccs g base
  let s := s.modGroup g.gid fun _ => g'
  let sound := s.regPoison.filter fun q =>
    match q with
    | .acc h _ _ _ => h != g.gid
    | .lane _ _ _ | .scale _ _ => true
  let here := fun e : HEntry => { e with core := core }
  let s : State := { (s.acquire core).openCore core with
    regPoison := sound ++ bad
    held := s.held.map fun e => if e.gid = g.gid then here e else e
    ops := s.ops.map fun o => if o.gid = g.gid then { o with core := core, chunks := o.chunks.map here } else o }
  let s := (s.restorePlanes g.gid base (coreCluster core)).resumeCopies g.gid (coreCluster core)
  (s.groupWarps g.gid).foldl (fun s w => s.resume w base core (slots.getD w.place.widx.toNat 0)) s

/-- The bolt barriers of a restored bolt, from the image of its first group (R263, R268). -/
def State.barsOfImage (s : State) (b : Bolt) (base : Nat) : Vector BoltBar 8 :=
  b.bars.mapIdx fun n r =>
    { r with
      gen := BitVec.ofNat 32 (cellWord s.mem (base + 0x200 + 16 * n) 4)
      mask := BitVec.ofNat 16 (cellWord s.mem (base + 0x204 + 16 * n) 4)
      arrived := BitVec.ofNat 16 (cellWord s.mem (base + 0x208 + 16 * n) 4) }

/-- Restore a bolt where its groups have been assigned (R263): the slots are freed, and a first group of
its launch on the ply joins (R41). [DEDUCED, log 49] -/
def State.restoreBolt (s : State) (b : Bolt) (l : Launch) (slots : List (Nat × Nat))
    (as : List (Nat × List (BitVec 5))) : State :=
  let first := (s.plyGroups l.lid b.die).isEmpty
  let s := ((s.boltGroups b.bid).zip as).foldl (fun s x =>
    s.restoreGroup l x.1 ((slots.find? fun y => y.1 == x.1.gid).elim 0 Prod.snd) x.2.1 x.2.2) s
  let bars := slots.head?.elim b.bars fun x => s.barsOfImage b (s.slotBase l.part x.2)
  let s := s.modBolt b.bid fun b => { b with save := .resident, bars := bars }
  let s := s.modPart l.part fun r =>
    { r with used := r.used.filter fun k => !(slots.map Prod.snd).contains k }
  let s := if first then s.joinPly l.lid b.die else s
  if s.ownsSlot l.lid b.die then (List.finRange 8).foldl (fun s n => s.settleBeam l.lid b.die n) s else s

/-- Where a restorable bolt would go now. [DEDUCED, log 49] -/
def State.restoreAt (s : State) (b : Bolt) (l : Launch) (pick : Nat) : Option (List (Nat × List (BitVec 5))) :=
  match b.save with
  | .saved slots _ _ =>
    s.assignSaved l pick ((s.boltGroups b.bid).map fun g =>
      let own := s.imageOwns (s.slotBase l.part ((slots.find? fun y => y.1 == g.gid).elim 0 Prod.snd))
      (g, own.1 || own.2)) (s.rooms b.die) [] s.ownedClusters
  | .resident | .named | .draining _ => none

/-- A ply that rests is asked to run (R21). [DEDUCED, log 49] -/
def State.askRun (s : State) (d : Die) : State :=
  match (s.ply d).state with
  | .doze | .sleep => if (s.ply d).pend == 3 then s else s.modPly d fun p => p.request 0
  | .run | .trans _ => s

/-! ## Requests of PREEMPTp (R269) -/

/-- The bolt whose warp holds a slot of a core, or held it when it was saved. -/
def State.boltAt (s : State) (core : Nat) (slot : BitVec 5) : Option Nat :=
  let here := s.warps.filter fun w => w.place.core == core && w.place.slot == slot
  ((here.find? fun w => w.sched.state != .saved).orElse fun _ => here.head?).map fun w => w.place.bid

/-- The bolts of a partition that a request names (R269). [DEDUCED, log 50] -/
def State.scopeBolts (s : State) (p : PartN) (w : RegWrite) : List Bolt :=
  (s.bolts.filter fun b => !b.finished && s.partOf b.lid == p).filter fun b =>
    match w.fld 61 60 with
    | 0 => s.boltAt (w.fld 42 32) (BitVec.ofNat 5 (w.fld 28 24)) == some b.bid
    | 1 => (s.launch? b.lid).elim false fun l => l.ctx.val == w.fld 23 20
    | _ => true

/-- A request starts (R269): its fields are written, and DONE counts anew. -/
def State.startRequest (s : State) (p : PartN) (w : RegWrite) (pending : List Nat) : State :=
  s.modPart p fun r =>
    { r with
      preScope := BitVec.ofNat 2 (w.fld 61 60)
      preOp := BitVec.ofNat 2 (w.fld 59 58)
      preCore := BitVec.ofNat 11 (w.fld 42 32)
      preSlot := BitVec.ofNat 5 (w.fld 28 24)
      preCtx := BitVec.ofNat 4 (w.fld 23 20)
      preDone := 0
      preBusy := !pending.isEmpty
      pending := pending }

/-- Run a request where none runs (R269). -/
def RegWrite.request (w : RegWrite) (s : State) (f : PartN → List Bolt → State → State) : State :=
  match w.reg with
  | .preempt p =>
    if (s.part p).preBusy then s
    else
      let bs := s.scopeBolts p w
      f p bs (s.startRequest p w (bs.map Bolt.bid))
  | _ => s

/-- A bolt is named by a save request: one that is saved or being saved stays so until a release, and any
other is saved once it is evictable (R269). [DEDUCED, log 50] -/
def State.nameSave (s : State) (p : PartN) (b : Bolt) : State :=
  match b.save with
  | .saved slots _ _ =>
    (s.modBolt b.bid fun b => { b with save := .saved slots true false }).unpend p b.bid 1
  | .draining _ => s.modBolt b.bid fun b => { b with save := .draining true }
  | .resident | .named => s.modBolt b.bid fun b => { b with save := .named }

/-- PREEMPT_SAVE (R269): the named bolts are saved, or discarded, once they are evictable. -/
def execPreemptSave (h : HostWrite) (s : State) : Host.Outcome State Fault Refusal :=
  .next (s.onWrite h .save fun w s => w.request s fun p bs s => bs.foldl (fun s b => s.nameSave p b) s)

/-- Kill every group of a bolt at once (R269, R272); the slots of its images are free. [DEDUCED, log 50] -/
def State.killBolt (s : State) (p : PartN) (b : Bolt) : State :=
  let s := (s.modPart p fun r =>
    match b.save with
    | .saved slots _ _ => { r with used := r.used.filter fun k => !(slots.map Prod.snd).contains k }
    | .resident | .named | .draining _ => r).unpend p b.bid 1
  (s.boltGroups b.bid).foldl (fun s g => s.kill g.gid 0x00) s

/-- PREEMPT_KILL (R269): the named bolts are killed. [DEDUCED, log 50] -/
def execPreemptKill (h : HostWrite) (s : State) : Host.Outcome State Fault Refusal :=
  .next (s.onWrite h .kill fun w s => w.request s fun p bs s => bs.foldl (fun s b => s.killBolt p b) s)

/-- PREEMPT_RELEASE (R269): the named bolts may be restored again. [DEDUCED, log 50] -/
def execPreemptRelease (h : HostWrite) (s : State) : Host.Outcome State Fault Refusal :=
  .next (s.onWrite h .release fun w s => w.request s fun p bs s =>
    bs.foldl (fun s b =>
      (s.modBolt b.bid fun b =>
        match b.save with
        | .saved slots byHost _ => { b with save := .saved slots byHost true }
        | .named => { b with save := .resident }
        | .draining _ => { b with save := .draining false }
        | .resident => b).unpend p b.bid 1) s)

end Sys2Proof.Machine
end

