-- ==== Sys2Proof/Machine/Distrib.lean ====
section
/-! DEFINITION. The distributor (R115 to R137): placing bolts, starving launches, pre-empting for a launch of
priority 3, answering FETCHW, retiring bolts and relaunching the groups of idem launches. -/

namespace Sys2Proof.Machine

/-! ## Which plies, and in which order (R118, R120, R126) -/

/-- Whether a launch goes before another (R126): by priority, and then by age. -/
def Launch.before (a b : Launch) : Bool :=
  decide (b.desc.prio.toNat < a.desc.prio.toNat) || (a.desc.prio == b.desc.prio && decide (a.age < b.age))

/-- Whether a ply is eligible for the next bolt of a launch (R118). -/
def State.eligible (s : State) (l : Launch) (d : Die) : Bool :=
  let p := s.ply d
  s.dieIn l.part d && l.desc.affinity.getLsbD d.val && (l.desc.heat == 0 || decide (p.heat < l.desc.heat)) &&
    !(p.pend == 1 || p.pend == 2) &&
    match p.state with
    | .trans _ => false
    | .run | .doze | .sleep => true

/-- The groups that are resident on a ply. -/
def State.groupsOnPly (s : State) (d : Die) : Nat :=
  (s.groups.filter fun g => coreDie g.core == d && s.residentGroup g).length

/-- Whether a ply is chosen before another (R120): the lower heat index, then the fewer groups, then the lower
die. -/
def State.plyBefore (s : State) (a b : Die) : Bool :=
  let key := fun d : Die => ((s.ply d).heat.toNat, s.groupsOnPly d, d.val)
  let x := key a
  let y := key b
  decide (x.1 < y.1) || (x.1 == y.1 && (decide (x.2.1 < y.2.1) || (x.2.1 == y.2.1 && decide (x.2.2 ≤ y.2.2))))

/-! ## Whether a launch has a next bolt (R30, R107, R116, R129, R130, R132, R269) -/

/-- Whether a save request that runs keeps new bolts of a launch from being placed (R269). -/
def State.heldByRequest (s : State) (l : Launch) : Bool :=
  let r := s.part l.part
  r.preBusy && r.preOp == 0 && (r.preScope == 2 || (r.preScope == 1 && r.preCtx.toNat == l.ctx.val))

/-- Whether a launch has a bolt to place, as far as the launch itself goes: its slots are allocated, it is not
stopped, a coordinate remains, and an ordered launch has fewer than 64 bolts that have not retired. -/
def State.wantsBolt (s : State) (l : Launch) : Bool :=
  l.slots && !l.stopped && decide (l.next < l.count) &&
    (!l.env.ordered || decide (l.next < l.retired + 64)) && !s.heldByRequest l

/-- Whether the warps of `n` groups of a launch can all receive a private number (R123). -/
def State.numsFor (s : State) (l : Launch) (n : Nat) : Option (List Nat) :=
  let ks := s.freeNums l.part (n * l.warps)
  if ks.length = n * l.warps then some ks else none

/-- Whether the next bolt of a launch is eligible for a ply in run and fits it (R118, R119). -/
def State.roomOn (s : State) (l : Launch) (d : Die) : Bool :=
  s.eligible l d && (s.ply d).state == .run && (s.assignOn l d l.groups).isSome

/-- Whether that bolt can be placed there: it has its private numbers too (R123). -/
def State.fitsPly (s : State) (l : Launch) (d : Die) : Bool := s.roomOn l d && (s.numsFor l l.groups).isSome

/-! ## What goes first (R126, R127, R128, R135) -/

/-- The groups of a bolt that wait to be relaunched together, in increasing index (R122): all of them where the
bolt starts again as a whole, and otherwise each alone (R135). -/
def State.relaunchSet (s : State) (b : Bolt) (g : Group) : List Group :=
  if b.again then sortBy (fun x y => decide (x.idx.toNat ≤ y.idx.toNat)) (s.boltGroups b.bid) else [g]

/-- Where the groups of a relaunch go (R119, R122); no other warp holds one of their private numbers.
[DEDUCED, log 52] -/
def State.relaunchAt (s : State) (b : Bolt) (l : Launch) (gs : List Group) :
    Option (List (Nat × List (BitVec 5))) :=
  let held := (s.warps.filter fun w => w.env.part == l.part && !w.exited).map fun w => w.place.num
  if s.eligible l b.die && (s.ply b.die).state == .run &&
      gs.all fun g => g.nums.all fun n => !held.contains n then
    s.assignOn l b.die gs.length
  else none

/-- Whether a relaunch waits on a ply for a launch of at least some priority, for which the ply is eligible: it comes
before any new bolt of such a launch, though it does not fit yet (R135). [DEDUCED, log 49] -/
def State.relaunchFirst (s : State) (prio : BitVec 2) (d : Die) : Bool :=
  s.groups.any fun g =>
    g.killed && (s.bolt? g.bid).elim false fun b =>
      b.die == d && (s.launch? g.lid).elim false fun m =>
        decide (prio ≤ m.desc.prio) && !m.stopped && s.eligible m d

/-- Whether a restore waits on a ply for a launch of at least some priority: it comes before new bolts of such launches,
though it does not fit yet (R128, R138). [DEDUCED, log 49] -/
def State.restoreFirst (s : State) (prio : BitVec 2) (d : Die) : Bool :=
  s.bolts.any fun b =>
    b.die == d && s.restorable b && (s.launch? b.lid).elim false fun m => decide (prio ≤ m.desc.prio)

/-- Whether a starving launch keeps a launch off a ply (R127). -/
def State.starvedOff (s : State) (l : Launch) (d : Die) : Bool :=
  s.launches.any fun m =>
    m.starving && m.lid != l.lid && m.part == l.part && decide (l.desc.prio ≤ m.desc.prio) &&
      m.desc.affinity.getLsbD d.val

/-- Whether a launch that goes before in the order of R126 would place its next bolt on a ply. -/
def State.laterThan (s : State) (l : Launch) (d : Die) : Bool :=
  s.launches.any fun m =>
    m.lid != l.lid && m.part == l.part && m.before l && s.wantsBolt m && !s.starvedOff m d && s.fitsPly m d

/-- The bolts of the set that a launch chose to pre-empt whose saves are not complete (R128). -/
def State.drains (s : State) (l : Launch) : List Bolt :=
  s.bolts.filter fun b =>
    l.chosen.contains b.bid &&
      match b.save with
      | .draining _ => true
      | .resident | .named | .saved _ _ _ => false

/-- Whether a launch that goes before in the order of R126 pre-empts a set on a ply that is not all saved: the room there
is kept for its bolt (R128). [DEDUCED, log 49] -/
def State.drainedFor (s : State) (l : Launch) (d : Die) : Bool :=
  s.launches.any fun m =>
    m.lid != l.lid && m.part == l.part && m.before l && (s.drains m).any fun b => b.die == d

/-- The ply on which the next bolt of a launch is placed now, if it is (R118 to R120, R126 to R128). -/
def State.choosePly (s : State) (l : Launch) : Option Die :=
  (sortBy s.plyBefore ((List.finRange 8).filter fun d =>
    s.fitsPly l d && !s.starvedOff l d && !s.laterThan l d && !s.drainedFor l d && !s.relaunchFirst l.desc.prio d &&
      !s.restoreFirst l.desc.prio d)).head?

/-- Whether a launch of higher priority takes the room on a ply before a restore or relaunch of some priority: its bolt goes
there now, or the set that it has pre-empted there is not all saved (R126, R128). [DEDUCED, log 49] -/
def State.claimed (s : State) (prio : BitVec 2) (p : PartN) (d : Die) : Bool :=
  s.launches.any fun m =>
    m.part == p && decide (prio < m.desc.prio) &&
      ((s.drains m).any (fun b => b.die == d) || (s.wantsBolt m && s.choosePly m == some d))

/-- BOLT_RESTORE (R128, R262, R263): a restorable bolt is restored on its ply where it fits; a ply that rests
is woken for it. -/
def execBoltRestore (k : Nat) (s : State) : Host.Outcome State Fault Refusal :=
  .next (match s.bolt? k with
    | none => s
    | some b =>
      if !s.restorable b then s
      else if (s.ply b.die).state != .run then s.askRun b.die
      else
        match b.save, s.launch? b.lid with
        | .saved slots _ _, some l =>
          if s.claimed l.desc.prio l.part b.die then s
          else
            let (i, s) := s.draw
            (s.restoreAt b l i).elim s fun as => s.restoreBolt b l slots as
        | _, _ => s)

/-! ## Placing a bolt (R121 to R125) -/

/-- Place the groups of a bolt where they are assigned, each with its private numbers (R122 to R125). -/
def State.placeGroups (s : State) (l : Launch) (b : Bolt) (as : List (Nat × List (BitVec 5))) (nums : List Nat) :
    State :=
  as.zipIdx.foldl (fun s x =>
    let (gid, s) := s.fresh
    s.placeGroup l b gid x.2 x.1.1 x.1.2 ((nums.drop (x.2 * l.warps)).take l.warps) [] 0 0) s

/-- Place the next bolt of a launch on a ply (R124). -/
def State.placeBolt (s : State) (l : Launch) (d : Die) (as : List (Nat × List (BitVec 5))) (nums : List Nat) :
    State :=
  let first := (s.plyGroups l.lid d).isEmpty
  let (bid, s) := s.fresh
  let b : Bolt :=
    { bid := bid, lid := l.lid, index := BitVec.ofNat 96 l.next, coord := l.coord l.next, die := d
      groups := l.groups, bars := boltBars l.groups, flushed := 0, acquired := false, finished := false
      save := .resident, relaunch := 0, again := false, gone := [], order := bid }
  let s := ({ s with bolts := s.bolts ++ [b] } : State).placeGroups l b as nums
  let s := s.modLaunch l.lid fun l => { l with next := l.next + 1, ripe := false, starving := false, chosen := [] }
  if first then s.joinPly l.lid d else s

/-- Whether the run that a launch last requested of a ply has not been reached (R121). [DEDUCED, log 52] -/
def State.wakePending (s : State) (l : Launch) : Bool :=
  l.woke.any fun d =>
    (s.ply d).pend == 3 ||
      match (s.ply d).state with
      | .trans nxt => nxt == 0
      | .run | .doze | .sleep => false

/-- A launch requests run of the eligible ply of some that rests at the lowest heat index, one at a time
(R121). -/
def State.wakeOne (s : State) (l : Launch) (ds : List Die) : State :=
  let rests := ds.filter fun d => s.eligible l d && ((s.ply d).state == .doze || (s.ply d).state == .sleep)
  let cooler := fun a b : Die =>
    decide ((s.ply a).heat.toNat < (s.ply b).heat.toNat) || ((s.ply a).heat == (s.ply b).heat && decide (a.val ≤ b.val))
  if s.wakePending l then s
  else
    (sortBy cooler rests).head?.elim s fun d =>
      (s.askRun d).modLaunch l.lid fun l => { l with woke := some d }

/-- The beams of which every ply sleeps while a launch waits for the clear of its region there (R39). -/
def State.clearWaits (s : State) (l : Launch) : List Beam :=
  [(0 : Beam), 1].filter fun b =>
    let r : ReedRegion := (s.beam b).reed.regions[l.part]
    !r.cleared && r.size != 0 && (beamDies b).any (fun d => s.dieIn l.part d) &&
      (beamDies b).all fun d => (s.ply d).state != .run && (s.ply d).state != .doze

/-- BOLT_PLACEMENT (R117 to R126): the next bolt of a launch is placed on the ply that takes it; where none
does, a resting ply may be asked to run. -/
def execBoltPlacement (l : Nat) (s : State) : Host.Outcome State Fault Refusal :=
  .next (match s.launch? l with
    | none => s
    | some m =>
      if !s.wantsBolt m then
        (if !m.stopped && !m.slots then s.wakeOne m ((s.clearWaits m).flatMap beamDies) else s)
      else
        match s.choosePly m with
        | some d =>
          (match s.assignOn m d m.groups, s.numsFor m m.groups with
            | some as, some nums => s.placeBolt m d as nums
            | _, _ => s)
        | none =>
          if (List.finRange 8).any fun d => s.roomOn m d then s else s.wakeOne m (List.finRange 8))

/-! ## Starving launches (R127) -/

/-- Whether the next bolt of a launch is eligible for some ply and fits none. -/
def State.fitsNowhere (s : State) (l : Launch) : Bool :=
  s.wantsBolt l && (List.finRange 8).any (fun d => s.eligible l d) &&
    !(List.finRange 8).any fun d => s.roomOn l d

/-- The launches of a partition whose next bolt has fitted nowhere for long, and still does, the first in the
order of R126 first (R127). -/
def State.ripe (s : State) (p : PartN) : List Launch :=
  sortBy Launch.before (s.launches.filter fun x => x.part == p && x.ripe && s.fitsNowhere x)

/-- STARVING (R127): the next bolt of a launch has fitted nowhere for long: unless a launch of its partition
starves already, the first in the order of R126 of those to which this has come starves. -/
def execStarving (l : Nat) (s : State) : Host.Outcome State Fault Refusal :=
  .next (match s.launch? l with
    | none => s
    | some m =>
      if !s.fitsNowhere m then s
      else
        let s := s.modLaunch l fun m => { m with ripe := true }
        if s.launches.any fun x => x.part == m.part && x.starving then s
        else (s.ripe m.part).head?.elim s fun x => s.modLaunch x.lid fun x => { x with starving := true })

/-! ## Pre-emption for priority 3 (R128) -/

/-- The sets that can be made of some bolts. -/
def subsets {α : Type} : List α → List (List α)
  | [] => [[]]
  | x :: xs => (subsets xs) ++ (subsets xs).map (x :: ·)

/-- The machine as the room on its plies stands once some bolts are gone. -/
def State.without (s : State) (bs : List Bolt) : State :=
  { s with
    bolts := s.bolts.map fun b =>
      if bs.any fun c => c.bid == b.bid then { b with save := .saved [] false false } else b
    w := if bs.any fun c => c.bid == s.w.place.bid then { s.w with sched := { s.w.sched with state := .saved } }
      else s.w
    rest := s.rest.map fun w =>
      if bs.any fun c => c.bid == w.place.bid then { w with sched := { w.sched with state := .saved } } else w }

/-- The groups of a set of bolts. -/
def State.groupCount (s : State) (bs : List Bolt) : Nat := (bs.map fun b => (s.boltGroups b.bid).length).sum

/-- The ages of the launches of a set of bolts, each launch once, the youngest first. [DEDUCED, log 53] -/
def State.launchAges (s : State) (bs : List Bolt) : List Nat :=
  sortBy (fun a b => decide (b ≤ a))
    ((s.launches.filter fun l => bs.any fun b => b.lid == l.lid).map Launch.age)

/-- The lowest device core of a set of bolts. -/
def State.lowCore (s : State) (bs : List Bolt) : Nat :=
  (bs.flatMap fun b => (s.boltGroups b.bid).map Group.core).foldl min (8 * 192)

/-- Whether the launches of one set are younger than those of another, compared from the youngest down: some
when it is, and none on a tie. [DEDUCED, log 53] -/
def youngerFirst : List Nat → List Nat → Option Bool
  | a :: as, b :: bs => if a = b then youngerFirst as bs else some (decide (b < a))
  | _, _ => none

/-- Whether a set on a ply is chosen before another (R128); the rule gives no key beyond the lowest device core, and of two
sets that tie there too the first in the order of the ply's sets is taken. [DEDUCED, DESIGN CHOICE, log 53] -/
def State.setBefore (s : State) (x y : Die × List Bolt) : Bool :=
  let gx := s.groupCount x.2
  let gy := s.groupCount y.2
  if gx ≠ gy then decide (gx < gy)
  else
    match youngerFirst (s.launchAges x.2) (s.launchAges y.2) with
    | some b => b
    | none =>
      if x.1 ≠ y.1 then decide (x.1.val < y.1.val) else decide (s.lowCore x.2 ≤ s.lowCore y.2)

/-- The bolts on a ply that a launch may pre-empt (R128, R260). -/
def State.victims (s : State) (l : Launch) (d : Die) : List Bolt :=
  s.bolts.filter fun b =>
    b.die == d && s.evictable b && (s.launch? b.lid).elim false fun m =>
      decide (m.desc.prio < l.desc.prio) && m.part == l.part

/-- The sets of bolts whose pre-emption makes the next bolt of a launch fit, with their ply (R128); the pool
has slots for all of a set. [DEDUCED, log 53] -/
def State.victimSets (s : State) (l : Launch) : List (Die × List Bolt) :=
  ((List.finRange 8).filter fun d => s.eligible l d && (s.ply d).state == .run).flatMap fun d =>
    ((subsets (s.victims l d)).filter fun bs =>
      !bs.isEmpty &&
        decide (s.groupCount bs + s.slotsPromised l.part ≤ (s.freeSaveSlots l.part).length) &&
        ((s.without bs).assignOn l d l.groups).isSome).map fun bs => (d, bs)

/-- PRIORITY_PREEMPTION (R128): the set that a launch of priority 3 chooses begins its saves; it chooses no other
while one of them goes on. -/
def execPriorityPreemption (l : Nat) (s : State) : Host.Outcome State Fault Refusal :=
  .next (match s.launch? l with
    | none => s
    | some m =>
      if m.desc.prio == 3 && s.fitsNowhere m && (s.drains m).isEmpty then
        match (sortBy s.setBefore (s.victimSets m)).head? with
        | some x =>
          (x.2.foldl (fun s b => s.beginSave b (b.save == .named)) s).modLaunch l fun m =>
            { m with chosen := x.2.map Bolt.bid }
        | none => s
      else s)

/-! ## FETCHW (R132 to R134, R137) -/

/-- The answer record of a FETCHW (R133): a coordinate with STATUS 0, or STATUS alone. -/
def fetchRecord (c : Option Coord) (status : Nat) : List Byte :=
  match c with
  | some c => leBytes 4 c.x.toNat ++ leBytes 4 c.y.toNat ++ leBytes 4 c.z.toNat ++ leBytes 4 0
  | none => List.replicate 12 0 ++ leBytes 4 status

/-- Write the answer of the oldest FETCHW of a group into its slot, and then count the slot (R133, R186). -/
def State.answerFetch (s : State) (g : Group) (f : Fetch) (c : Option Coord) (status : Nat) (replay : Bool) :
    State :=
  let t : Tile := g.tiles[f.name.toNat]
  let s := s.putHome (.scratch g.gid (t.rowAt f.slot.toNat)) (fetchRecord c status)
  let s := s.modTile g.gid f.name fun t => t.finishSlot f.id
  s.modGroup g.gid fun g =>
    { g with
      fetches := g.fetches.filter fun x => x.id != f.id
      answered := g.answered ++ c.toList
      replay := if replay then g.replay.drop 1 else g.replay }

/-- FETCHW_ANSWER (R134, R137): the oldest unanswered FETCHW of a group is answered. -/
def execFetchwAnswer (g : Nat) (s : State) : Host.Outcome State Fault Refusal :=
  .next (match s.group? g with
    | none => s
    | some gr =>
      match gr.fetches, s.launch? gr.lid with
      | f :: _, some l =>
        if !s.residentGroup gr then s
        else
          (match gr.replay with
            | c :: _ => s.answerFetch gr f (some c) 0 true
            | [] =>
              if !l.env.persist || decide (l.count ≤ l.next) then s.answerFetch gr f none 1 false
              else if l.desc.heat != 0 && decide (l.desc.heat ≤ (s.ply (coreDie gr.core)).heat) then
                s.answerFetch gr f none 2 false
              else
                (s.answerFetch gr f (some (l.coord l.next)) 0 false).modLaunch l.lid fun l =>
                  { l with next := l.next + 1 })
      | _, _ => s)

/-! ## Retirement (R129) -/

/-- Whether a finished bolt can retire (R129): in an ordered launch every bolt of lower index has retired, and
its held atomics have flushed and its stores are in its buffers. -/
def State.mayRetire (s : State) (b : Bolt) : Bool :=
  b.finished &&
    match s.launch? b.lid with
    | none => true
    | some l =>
      !l.env.ordered ||
        (decide (b.index.toNat = l.retired) && !s.held.any (fun e => e.bid == b.bid && e.atomic) &&
          s.ops.all fun o => o.bid != b.bid || (o.chunks.isEmpty && !o.waiting.any Elem.remote))

/-- BOLT_RETIRE (R129): a finished bolt retires; the stores that an ordered launch has held for it perform. -/
def execBoltRetire (k : Nat) (s : State) : Host.Outcome State Fault Refusal :=
  .next (match s.bolt? k with
    | none => s
    | some b =>
      if s.mayRetire b then
        let s := (s.settleHeld k).sendStores k
        if s.mayRetire b then
          let s := (s.performHeld k).modLaunch b.lid fun l => { l with retired := l.retired + 1 }
          { s with bolts := s.bolts.filter fun c => c.bid != k }
        else s
      else s)

/-! ## Relaunching idem groups (R135) -/

/-- Relaunch groups of a bolt where they are assigned: the same identity, coordinate and private numbers, and the
bolt barriers at generation 0, but for those of a bolt of several groups of which one is relaunched alone, which stand as
the others have left them (R135, R137). [DEDUCED, log 51, 52] -/
def State.relaunch (s : State) (l : Launch) (b : Bolt) (gs : List Group)
    (as : List (Nat × List (BitVec 5))) : State :=
  let first := (s.plyGroups l.lid b.die).isEmpty
  let whole := b.again || b.groups = 1
  let s := s.modBolt b.bid fun b =>
    { b with again := false, bars := if whole then boltBars b.groups else b.bars }
  let s := (gs.zip as).foldl (fun s x =>
    let g := x.1
    let s : State := { s with groups := s.groups.filter fun h => h.gid != g.gid }
    s.placeGroup l b g.gid g.idx.toNat x.2.1 x.2.2 (g.nums.map BitVec.toNat) g.replay g.relaunch 2) s
  if first then s.joinPly l.lid b.die else s

/-- Whether a starving launch of higher priority keeps a bolt that starts again as a whole off its ply (R127); R135 puts it
before new bolts of its own priority. [DEDUCED, log 52] -/
def State.relaunchStarved (s : State) (b : Bolt) (l : Launch) : Bool :=
  b.again && s.launches.any fun m =>
    m.starving && m.lid != l.lid && m.part == l.part && decide (l.desc.prio < m.desc.prio) &&
      m.desc.affinity.getLsbD b.die.val

/-- IDEM_RELAUNCH (R135): a group that a scratch error killed, or its whole bolt, is placed again on its
ply, unless a launch of higher priority takes the room (R127, R128). -/
def execIdemRelaunch (g : Nat) (s : State) : Host.Outcome State Fault Refusal :=
  .next (match s.group? g with
    | none => s
    | some gr =>
      match s.bolt? gr.bid, s.launch? gr.lid with
      | some b, some l =>
        if !gr.killed || l.stopped || s.relaunchStarved b l || s.claimed l.desc.prio l.part b.die then s
        else
          let gs := s.relaunchSet b gr
          (match s.relaunchAt b l gs with
            | some as => s.relaunch l b gs as
            | none => if s.eligible l b.die then s.askRun b.die else s)
      | _, _ => s)

end Sys2Proof.Machine
end

