-- ==== Sys2Proof/Machine/Internal.lean ====
section
/-! DEFINITION. The events that the machine brings about itself when nothing on the agenda asks for
one: their candidates, and which comes next.  Each acts only where its own conditions hold. -/

namespace Sys2Proof.Machine

/-- The events of the warps and of the cores that they stand on. -/
def State.warpEvents (s : State) : List Instr :=
  let cores := s.warps.foldl (fun cs w => if cs.contains w.place.core then cs else cs ++ [w.place.core]) []
  (cores.flatMap fun c => [.activeSetFill c, .warpSwap c, .starveSwap c, .wptrPublish c]) ++
    (((List.finRange 8).flatMap fun d => (s.ply d).trace.cores.filterMap fun c =>
      if (c.queue.isEmpty && c.since == 0) || cores.contains c.core then none else some (Instr.wptrPublish c.core))) ++
    s.warps.flatMap fun w =>
      let i := w.place.wid
      (if w.fetched then [] else [Instr.instructionFetch i]) ++
        (if w.trap.isSome then [.trapTaken i] else []) ++
        (if w.exited then [.warpSlotFree i] else []) ++
        (if w.sched.hold.isSome then [.mwaitReread i] else []) ++ [.swapThreshold i] ++
        match w.busy with
        | .none | .woken => if w.sched.state == .saved then [.savedMwaddrRead i] else []
        | .sweep _ _ | .pgreq _ _ => [.pgreqPost i]

/-- The events of what is in flight: accesses, sweeps, TLB invalidations, copies and loom requests. -/
def State.flightEvents (s : State) : List Instr :=
  let all : BitVec 32 := BitVec.allOnes 32
  (s.ops.flatMap fun o =>
    [.loadReturn o.id all, .registrationComplete o.id all, .atomicPerform o.id all, .requestReturn o.id]) ++
    (s.sweeps.map fun w => .sweepComplete w.part) ++ (s.tlbinvs.map fun t => .tlbinvRemoval t.id) ++
    (s.copies.flatMap fun c =>
      [.copyStart c.cluster, .copyUnitWrite c.cluster, .copyComplete c.cluster, .requestReturn c.id]) ++
    s.looms.flatMap fun x =>
      (if x.2.reqs.isEmpty then []
       else [Instr.loomGrant x.1 .stream, .loomGrant x.1 .load, .loomGrant x.1 .drain, .loomGrant x.1 .plane]) ++
        x.2.reqs.flatMap fun r =>
          if r.granted then [.loomPassFinish x.1 r.id, .loomRequestFinish x.1 r.id]
          else [.loomRequestAging x.1 r.id]

/-- The events of the distributor and of the launches (R126 to R137, R28, R30, R102). -/
def State.launchEvents (s : State) : List Instr :=
  (s.launches.flatMap fun l =>
    [.slotAllocation l.lid, .boltPlacement l.lid, .starving l.lid, .priorityPreemption l.lid,
      .slotReturn l.lid, .launchComplete l.lid]) ++
    (s.bolts.flatMap fun b => [.epochFlush b.bid, .boltSave b.bid, .boltRestore b.bid, .boltRetire b.bid]) ++
    s.groups.flatMap fun g =>
      (if g.fetches.isEmpty then [] else [Instr.fetchwAnswer g.gid]) ++
        (if g.killed then [.idemRelaunch g.gid] else [])

/-- The commands that a stream of a bound context may come to (R98, R99). -/
def streamEvents (b : Beam) (c : CtxN) : List Instr :=
  [.clobusoNop b c, .launch b c, .launchi b c, .cIf b c, .cElse b c, .cEndif b c, .cLoop b c, .cEndloop b c,
    .waitv b c, .waitvRead b c, .signal b c, .clobusoFence b c, .coll b c, .cOpen b c, .commit b c,
    .abort b c, .page b c]

/-- The events of the command processors, reeds and collective engines. -/
def State.beamEvents (s : State) : List Instr :=
  ([0, 1] : List Beam).flatMap fun b =>
    ((List.finRange 16).flatMap fun c =>
      let k := s.ctx b c
      if k.en && (k.head != k.tail || !k.cmds.isEmpty) then streamEvents b c
      else if k.cmds.isEmpty then [] else [.commit b c, .abort b c]) ++
      (s.beam b).links.colls.map (fun c => .collComplete b c.id) ++
      (if (s.beam b).reed.slots.toList.any ReedSlot.owned || !s.launches.isEmpty then [.dentPass b] else []) ++
      (if (s.beam b).reed.passed.isEmpty then [] else [.dentApply b]) ++
      (s.launches.map fun l => .regionClear b l.part)

/-- The events of the plies and of the device's slow registers. -/
def State.plyEvents (s : State) : List Instr :=
  ((List.finRange 8).flatMap fun d =>
    let p := s.ply d
    (if p.pend != 0 || p.state != .run then
       [Instr.plyStateEntry d, .dozeWake d, .listenerLock d, .logReplay d, .mirrorCopy d]
     else []) ++
      if p.autoDoze != 0 then [.autoDoze d] else []) ++
    ((List.finRange 8).filter fun p => (s.part p).l2Busy).map (fun p => .l2wbDone p) ++
    ((List.finRange 2).filter fun q => (s.port q).attBusy).map fun q => .quoteDone q

/-- The internal events that may happen now, as far as the state shows it. [DESIGN CHOICE, log 6] -/
def State.candidates (s : State) : List Instr :=
  s.warpEvents ++ s.flightEvents ++ s.launchEvents ++ s.beamEvents ++ s.plyEvents

/-- The internal events still to come in this round, or those of the next round: what stays possible comes about
in every round, so that nothing that R138 promises is put off for ever. [DESIGN CHOICE, log 6] -/
def State.events (s : State) : List Instr := if s.round.isEmpty then s.candidates else s.round

end Sys2Proof.Machine
end

