-- ==== Sys2Proof/Machine/Sched.lean ====
section
/-! DEFINITION. The active set of a core (R139 to R144) and its events.  These choices change only
time, trace records and counters (R149); how long a warp has waited is not modelled, so an event
that a threshold triggers (R141, R143) may happen whenever the rest of its condition holds. -/

namespace Sys2Proof.Machine

/-! ## The two sets (R139, R140) -/

/-- The warps of a core in a slot state. -/
def State.coreWarps (s : State) (core : Nat) (st : SlotState) : List Warp :=
  s.warps.filter fun w => w.place.core == core && w.sched.state == st

/-- The warp in an active position. -/
def State.activeAt (s : State) (core : Nat) (pos : BitVec 3) : Option Warp :=
  (s.coreWarps core .active).find? fun w => w.sched.pos == pos

/-- Whether one warp is older than another in the order of R140. -/
def Warp.older (a b : Warp) : Bool :=
  decide (a.sched.age < b.sched.age) ||
    (a.sched.age == b.sched.age && decide (a.place.slot.toNat ≤ b.place.slot.toNat))

/-- The ready pending warps of a core, oldest first (R140). -/
def State.readyPending (s : State) (core : Nat) : List Warp :=
  sortBy Warp.older ((s.coreWarps core .pending).filter s.isReady)

/-- Put a pending warp into an active position; while a warp is active its age is the time at which
it entered the set. -/
def State.activate (s : State) (wid : Nat) (pos : BitVec 3) : State :=
  let t := s.time
  s.modWarp wid fun w =>
    { w with sched := { w.sched with state := .active, pos := pos, age := t, blocked := false } }

/-- Whether a core holds eight warps or fewer: every one of them is active, and no swap occurs (R144). -/
def State.fewWarps (s : State) (core : Nat) : Bool := decide ((s.onCore core).length ≤ 8)

/-- Swap the warp of an active position for a pending one (R142, R143): a SWAP record, and one swap
counted. -/
def State.swapFor (s : State) (core : Nat) (out w : Warp) (reason : Nat) : State :=
  let t := s.time
  let s := s.modWarp out.place.wid fun w =>
    { w with sched := { w.sched with state := .pending, age := t } }
  let s := s.activate w.place.wid out.sched.pos
  let s := s.recordSwap out w.place.slot.toNat out.sched.pos.toNat reason
  s.count (coreDie core) .swaps 1

/-- Swap the warp of an active position for the oldest ready pending warp, where there is one (R142); a core
of eight warps or fewer makes no swap (R144). -/
def State.swapOut (s : State) (core : Nat) (out : Warp) (reason : Nat) : State :=
  if s.fewWarps core then s
  else (s.readyPending core).head?.elim s fun w => s.swapFor core out w reason

/-- The active positions that are empty, lowest first. -/
def State.emptyPositions (s : State) (core : Nat) : List (BitVec 3) :=
  ((List.range 8).map (BitVec.ofNat 3)).filter fun p => (s.activeAt core p).isNone

/-- The pending warps that may fill an empty position, oldest first: the ready ones (R140), and every one
where the core holds eight warps or fewer (R144). -/
def State.mayEnter (s : State) (core : Nat) : List Warp :=
  if s.fewWarps core then sortBy Warp.older (s.coreWarps core .pending) else s.readyPending core

/-- Fill the empty positions with the oldest pending warps (R140). -/
def State.fillActive (s : State) (core : Nat) : State :=
  (s.emptyPositions core).foldl (fun s p =>
    (s.mayEnter core).head?.elim s fun w => s.activate w.place.wid p) s

/-- The active warp of the lowest position that is blocked: at once, by what its next group waits for, whenever it met
that, or since it has been held for the swap threshold (R141, R142, R144). -/
def State.blockedActive (s : State) (core : Nat) : Option Warp :=
  (((List.range 8).map (BitVec.ofNat 3)).filterMap (s.activeAt core)).find? fun w =>
    (w.sched.blocked || w.sched.hold.elim false Hold.atOnce) && !s.isReady w

/-- The holds that block a warp after the swap threshold (R141). -/
def Hold.afterThreshold : Hold → Bool
  | .wait _ _ _ _ | .reedf _ | .fence _ | .drain | .ofence | .tfence | .counter _ | .loomTable _
  | .fifthFetchw | .reedQueue _ | .holdingRoom _ | .requests | .fetchMiss => true
  | .barw _ _ _ | .secondArrival _ _ _ | .mwait | .tile _ _ | .tdef | .firstAcquire | .acquire
  | .behind | .flush | .tret => false

/-! ## Events -/

/-- WARP_SWAP (R142): the lowest blocked active position is swapped for the oldest ready pending
warp. -/
def execWarpSwap (core : Nat) (s : State) : Host.Outcome State Fault Refusal :=
  .next (match s.blockedActive core with
    | some w => s.swapOut core w (if w.sched.hold.elim false Hold.atOnce then 0 else 1)
    | none => s)

/-- What holds a warp's next group: the hold that the group met, or a packet that has not been fetched
(R141). -/
def Warp.holdNow (w : Warp) : Option Hold :=
  w.sched.hold.or
    (if w.fetched || w.exited || w.trap.isSome || w.busy != .none then none else some .fetchMiss)

/-- SWAP_THRESHOLD (R141): an active warp whose next group has been held long enough becomes blocked.
[DESIGN CHOICE, log 8] -/
def execSwapThreshold (wid : Nat) (s : State) : Host.Outcome State Fault Refusal :=
  .next (s.modWarp wid fun w =>
    if w.sched.state = .active ∧
        (w.holdNow.elim false Hold.afterThreshold ∨ (w.busy ≠ .none ∧ w.busy ≠ .woken)) then
      { w with sched := { w.sched with hold := w.holdNow, blocked := true } }
    else w)

/-- STARVE_SWAP (R143): a ready pending warp that has waited too long displaces the warp that has been active
longest; which of them has is not known to the model. [DESIGN CHOICE, log 8] -/
def execStarveSwap (core : Nat) (s : State) : Host.Outcome State Fault Refusal :=
  .next (match sortBy Warp.older (s.coreWarps core .active), s.readyPending core with
    | out :: _, ws@(_ :: _) =>
      if s.fewWarps core || !(s.emptyPositions core).isEmpty then s
      else
        let (i, s) := s.draw
        ws[Config.starved i % ws.length]?.elim s fun w => s.swapFor core out w 2
    | _, _ => s)

/-- ACTIVE_SET_FILL (R140): the oldest ready pending warps fill the empty positions. -/
def execActiveSetFill (core : Nat) (s : State) : Host.Outcome State Fault Refusal :=
  .next (s.fillActive core)

end Sys2Proof.Machine
end

