-- ==== Sys2Proof/Machine/Fetch.lean ====
section
/-! DEFINITION. Fetching a packet and forming an issue group (R151, R202, R308, R309), the order in
which the warps of a core try to issue (R147), and the steps ILLEGAL_INSTRUCTION, ILLEGAL_PACKET and
INSTRUCTION_FETCH. -/

namespace Sys2Proof.Machine

/-! ## Fetch (R202, R308) -/

/-- The code base of a warp's mode (R308). -/
def State.codeBase (s : State) (w : Warp) : Word64 :=
  if w.handler then s.handlerVa w.env.part else w.env.code

/-- A fetch fault (R202): its cause, and whether a peer gave no answer (R59). -/
structure FetchFault where
  cause : BitVec 8
  late  : Bool
  deriving DecidableEq, Repr

/-- The two parts of a packet that lie in one page each, as offsets and lengths. -/
def packetParts (pc : Word64) : List (Nat × Nat) :=
  let here := min 12 (0x10000 - pc.toNat % 0x10000)
  [(0, here), (here, 12 - here)]

/-- The locations of the bytes of a packet, translated once for each page that it lies in, at the homes that its mappings
name (R202, R212, R308), or the cause of the fetch fault; it counts one hit for each entry that it uses (R213). -/
def State.packetPas (s : State) (w : Warp) (pc : Word64) : Except (BitVec 8) (List Nat) × State :=
  let step := fun (r : Except (BitVec 8) (List Nat) × State) (part : Nat × Nat) =>
    match r with
    | (.error e, s) => (Except.error e, s)
    | (.ok as, s) =>
      if part.2 = 0 then (.ok as, s)
      else
        match s.translate w.xctx .fetch (pc + BitVec.ofNat 64 part.1) true with
        | (.protect, s) => (.error 0x10, s)
        | (.nonres, s) => (.error 0x11, s)
        | (.ok pa home, s) =>
          let s := home.elim s fun h =>
            s.lineRequestIf (Config.fetchAsks s.time (pa / 128)) (some (coreDie w.place.core)) h
          let (a, s) := s.atHome pa home
          (.ok (as ++ (List.range part.2).map (a + ·)), s)
  let r := (packetParts pc).foldl step (.ok [], s)
  (r.1, r.2.oneHit s.tlb)

/-- The bytes of the parts of a packet that lie at some locations: those in the remote aperture are the peer's (R57). -/
def State.packetBytes (s : State) (w : Warp) (pc : Word64) (pas : List Nat) :
    Except FetchFault (List Byte) × State :=
  if !pas.any isRemote then (.ok (pas.map (cellGet s.mem)), s)
  else
    (packetParts pc).foldl (fun (r : Except FetchFault (List Byte) × State) part =>
      match r with
      | (.error e, s) => (.error e, s)
      | (.ok bs, s) =>
        let at_ := (pas.drop part.1).take part.2
        let pa := at_.headD 0
        if at_.any isRemote then
          match s.askPeer (dieBeam (coreDie w.place.core)) pa part.2 with
          | (.ok new, s) => (.ok (bs ++ new), s)
          | (.error late, s) => (.error ⟨0x10, late⟩, s)
        else (.ok (bs ++ at_.map (cellGet s.mem)), s)) (.ok [], s)

/-- The words of the packet at an address (R308), or the fetch fault. -/
def State.fetchPacket (s : State) (w : Warp) (pc : Word64) :
    Except FetchFault (List (BitVec 32)) × State :=
  match s.packetPas w pc with
  | (.error e, s) => (.error ⟨e, false⟩, s)
  | (.ok pas, s) =>
    match s.packetBytes w pc pas with
    | (.ok bs, s) => (.ok (wordsOfBytes bs), s)
    | (.error e, s) => (.error e, s)

/-- The words of a warp's packet: those already fetched, or those that it fetches now (R146, R308).
[DEDUCED, log 54] -/
def State.packetOf (s : State) (w : Warp) : Except FetchFault (List (BitVec 32)) × State :=
  match w.packet with
  | some p => if p.pc = w.pc then (.ok p.words, s) else s.fetchPacket w w.pc
  | none => s.fetchPacket w w.pc

/-- Whether a packet lies outside its code segment: its distance from the code base is no multiple of 12 bytes
(R308). -/
def State.offPackets (s : State) (w : Warp) : Bool :=
  ((w.pc.toNat : Int) - (s.codeBase w).toNat) % 12 != 0

/-! ## Issue groups (R151, R309) -/

/-- The pipes (R318). -/
inductive Pipe where
  | s | v | f | m | x | b
  deriving DecidableEq, Repr

/-- The pipe of a word (R309, R318). -/
def pipeOf (w : BitVec 32) : Pipe :=
  let m := wordMaj w
  if m < 0x10 then .s
  else if m < 0x1C then .v
  else if m < 0x20 then .f
  else if m < 0x2C then .m
  else if m < 0x38 then .x
  else .b

/-- The lowest word of a group whose C bit or position breaks R309: a LIT at the head of the group or
after a LIT, or a word 2 whose C bit is 1. -/
def badChain (widx : Nat) : Bool → List (BitVec 32) → Option (BitVec 32)
  | _, [] => none
  | afterWord, w :: ws =>
    if (isLit w && !afterWord) || (widx == 2 && wordC w) then some w
    else badChain (widx + 1) (!isLit w) ws

/-- The later word of the first pair of a group that needs one pipe twice (R309). -/
def badPipe (seen : List Pipe) : List (BitVec 32) → Option (BitVec 32)
  | [] => none
  | w :: ws =>
    if isLit w then badPipe seen ws
    else if seen.contains (pipeOf w) then some w
    else badPipe (pipeOf w :: seen) ws

/-- The word against which an illegal packet is reported (R309, R310). [DESIGN CHOICE, log 56] -/
def badGroup (widx : Nat) (ws : List (BitVec 32)) : Option (BitVec 32) :=
  (badPipe [] ws).or (badChain widx false ws)

/-- What stands at a warp's next word: a fetch fault, an illegal packet, or the words of a group. -/
inductive Formed where
  | fault (e : FetchFault)
  | packet (word : BitVec 32)
  | group (ws : List GWord)
  deriving DecidableEq, Repr

/-- Where the warp's next group is after one of `n` words (R151, R308). -/
def nextPlace (pc : Word64) (widx n : Nat) : Word64 × BitVec 2 :=
  if 3 ≤ widx + n then (pc + 12, 0) else (pc, BitVec.ofNat 2 (widx + n))

/-- Form the issue group of the warp at issue (R151, R308 to R310): its packet, fetched once for all its groups
(R202), and its words are latched and its PC moves past it. [DEDUCED, log 54] -/
def State.form (s : State) : Formed × State :=
  let w := s.w
  let s := { s with issue := ⟨w.pc, w.widx, 0, 0, [], none, 0, none⟩ }
  match s.packetOf w with
  | (.error e, s) => (.fault e, s)
  | (.ok words, s) =>
    if s.offPackets w then (.packet 0, s)
    else
      let g := chain (words.drop w.widx.toNat)
      match badGroup w.widx.toNat g with
      | some bad => (.packet bad, s)
      | none =>
        let nxt := nextPlace w.pc w.widx.toNat g.length
        let s := s.modW fun v => { v with pc := nxt.1, widx := nxt.2, packet := some ⟨w.pc, words⟩ }
        (.group (groupWords g), { s with issue := { s.issue with words := g } })

/-! ## Who issues (R146, R147) -/

/-- The active position that issued most recently in a core, or 7 (R147). -/
def State.lastOf (s : State) (core : Nat) : Nat :=
  (s.lastPos.find? fun p => p.1 == core).elim 7 fun p => p.2.toNat

/-- The ready active warps of a core in the order in which they may issue (R147). -/
def State.coreOrder (s : State) (core : Nat) : List Nat :=
  ((List.range 8).filterMap fun i =>
    (s.activeAt core (BitVec.ofNat 3 (s.lastOf core + 1 + i))).filter s.isReady).map fun w => w.place.wid

/-- The cores that hold active warps, the one that issued longest ago first: in the model one core
issues at a time. -/
def State.issueCores (s : State) : List Nat :=
  let cores := (s.warps.filter fun w => w.sched.state == .active).foldl (fun cs w =>
    if cs.contains w.place.core then cs else cs ++ [w.place.core]) []
  (cores.filter fun c => !s.lastPos.any fun p => p.1 == c) ++
    (s.lastPos.reverse.map Prod.fst).filter cores.contains

/-- The warps that may issue next, in the order in which they are tried. -/
def State.issueOrder (s : State) : List Nat := s.issueCores.flatMap s.coreOrder

/-! ## Events -/

/-- ILLEGAL_INSTRUCTION (R321): the group at issue holds a word that no encoding assigns; the precise
illegal-instruction trap is raised. [DESIGN CHOICE, log 56] -/
def execIllegalInstruction (word : BitVec 32) (s : State) : Host.Outcome State Fault Refusal :=
  .next (s.precise 0x01 s.issue.pc word false)

/-- ILLEGAL_PACKET (R309): the group at issue breaks the chaining rules; the precise illegal-packet
trap is raised. [DESIGN CHOICE, log 56] -/
def execIllegalPacket (word : BitVec 32) (s : State) : Host.Outcome State Fault Refusal :=
  .next (s.precise 0x02 s.issue.pc word false)

/-- INSTRUCTION_FETCH (R308): the words of a warp's packet become ready to issue; a fetch fault is
taken at the packet when the warp would issue there. [DEDUCED, log 54] -/
def execInstructionFetch (wid : Nat) (s : State) : Host.Outcome State Fault Refusal :=
  .next (match s.warp? wid with
    | none => s
    | some w =>
      if w.fetched || w.exited || w.trap.isSome || w.sched.state == .saved then s
      else
        match s.fetchPacket w w.pc with
        | (.ok ws, s) => s.modWarp wid fun w => { w with packet := some ⟨w.pc, ws⟩ }
        | (.error e, s) =>
          if s.boltRuns w && w.sched.state == .active && w.busy == .none &&
              (w.sched.hold == none || w.sched.hold == some .fetchMiss) then
            let s := s.focus wid
            { s with issue := ⟨w.pc, w.widx, 0, 0, [], none, 0, none⟩ }.precise e.cause w.pc 0 true e.late
          else s)

end Sys2Proof.Machine
end

