-- ==== Sys2Proof/Machine/Placed.lean ====
section
/-! DEFINITION. How a program is placed from outside the machine for one step: a default warp with its
page tables, and the bytes of its next words (log 5). -/

namespace Sys2Proof.Machine

/-- The launch of the default warp: one bolt of one group of one warp, with the whole allotment.
[DESIGN CHOICE, log 5] -/
def Launch.placed : Launch where
  lid := 1
  beam := 0
  ctx := 0
  part := 0
  desc :=
    { code := 0x10000, entry := 0, trace := false, vdom := 0, attr := 0, grid := ⟨0, 0, 0⟩, warps := 0
      groups := 0, acc := 32, preg := 16, sreg := 64, vreg := 32, scratch := 256, priv := 256
      privBase := 0x1000000, vwr := true, vhi := 47, vlo := 0, vply := 0xFF, affinity := 0xFF, heat := 0
      prio := 0, dents := 0, args := 0 }
  ext := (1, 1, 1)
  tag := none
  slots := true
  next := 1
  retired := 0
  ripe := false
  starving := false
  woke := none
  chosen := []
  faulted := false
  stopped := false
  age := 0

/-- The bolt of the default warp. -/
def Bolt.placed : Bolt where
  bid := 2
  lid := 1
  index := 0
  coord := ⟨0, 0, 0⟩
  die := 0
  groups := 1
  bars := boltBars 1
  flushed := 0
  acquired := false
  finished := false
  save := .resident
  relaunch := 0
  again := false
  gone := []
  order := 0

/-- The page tables of the default warp (R198, R199): one page of 1 GiB at VA 0, resident, writable
and executable. -/
def placedTables : List Host.Cell :=
  let table := fun next : Nat => 2 ^ 63 + next
  let leaf : Nat := 2 ^ 63 + 2 ^ 62 + 2 ^ 61 + 2 ^ 60 + 2 ^ 59 + 2 ^ 58 + 2 ^ 57
  cellPutWord (cellPutWord (cellPutWord [] 0x2000 8 (table 0x4000)) 0x4000 8 (table 0x6000)) 0x6000 8
    leaf

/-- Place the default warp on core 0 of ply 0: partition 0 with 1 GiB of memory, and context 0 of
beam 0 with its tables. [DESIGN CHOICE, log 5] -/
def State.placeDefault (s : State) : State :=
  let p : Place := ⟨4, 3, 2, 1, 0, 0, 0, 0, 0, 0⟩
  let w := Warp.start p Launch.placed ⟨0, 0, 0⟩ 0
  let s := s.modPart 0 fun r => { r with en := true, size := 0, pmBase := 0, pmSize := 1 }
  let s := s.modCtx 0 0 fun c => { c with en := true, part := 0, root := 2, asid := 1 }
  { s with
    w := { w with sched := ⟨.active, 0, 0, false, none⟩ }
    rest := []
    launches := [Launch.placed]
    bolts := [Bolt.placed]
    groups := [Group.start 3 2 1 0 0 1 32 [0] [] 0]
    mem := cellLoad s.mem 0x2000 0x6000 placedTables
    serial := max s.serial 8 }

/-- Store bytes at the next word of the warp that issues next, placing the default warp where no warp
can issue. [DESIGN CHOICE, log 5] -/
def State.storeNext (s : State) (bytes : List Byte) : State :=
  let s := { s with agenda := [], turn := .issue }
  let s :=
    match s.issueOrder with
    | wid :: _ => s.focus wid
    | [] => s.placeDefault
  let w := s.w
  match s.packetPas w w.pc with
  | (.ok pas, t) =>
    let at_ := (pas.drop (4 * w.widx.toNat)).zip bytes
    { s with
      slices := { s.slices with homes := t.slices.homes }
      mem := at_.foldl (fun m c => cellSet m c.1 c.2) t.mem
      w := { w with packet := none } }
  | (.error _, _) => s

end Sys2Proof.Machine
end

