-- ==== Sys2Proof/Machine/Control.lean ====
section
/-! DEFINITION. The control and region words of MAJ 0x38 to 0x3D (R344 to R359): branches, the mask
stack, YIELD, EXIT, REGION and TRAP. -/

namespace Sys2Proof.Machine

/-! ## Branches and calls (R344 to R348) -/

/-- Branch by an offset in packets when a transfer is taken (R344, R348). -/
def State.branch (s : State) (taken : Bool) (off : Int) : State :=
  if taken then s.modW fun w => w.jump (s.target off) else s

/-- BR: taken when the guard lane set is not empty (R345). -/
def execBr (x : Ext) (f : BitVec 37) (s : State) : Host.Outcome State Fault Refusal :=
  issueWord (.br x f) s fun s => s.branch (s.lanes x != 0) f.toInt

/-- BRA: taken when the guard lane set equals the active mask (R345). -/
def execBra (x : Ext) (f : BitVec 37) (s : State) : Host.Outcome State Fault Refusal :=
  issueWord (.bra x f) s fun s => s.branch (s.lanes x == s.rd.ctl.am) f.toInt

/-- BRV: taken when the guard lane set is empty (R345). -/
def execBrv (x : Ext) (f : BitVec 37) (s : State) : Host.Outcome State Fault Refusal :=
  issueWord (.brv x f) s fun s => s.branch (s.lanes x == 0) f.toInt

/-- CALL: the address of the next packet to sD, and a branch (R346). -/
def execCall (x : Ext) (d : SReg) (f : BitVec 37) (s : State) : Host.Outcome State Fault Refusal :=
  issueWord (.call x d f) s fun s => s.warpWord x fun s =>
    (s.modW fun w => w.sset d (s.issue.pc + 12)).branch true f.toInt

/-- RET: a branch to the byte address in sA (R347). -/
def execRet (x : Ext) (a : SReg) (s : State) : Host.Outcome State Fault Refusal :=
  issueWord (.ret x a) s fun s => s.warpWord x fun s => s.modW fun w => w.jump (s.rd.sget a)

/-- JMPI: a branch to the byte address in sA (R347). -/
def execJmpi (x : Ext) (a : SReg) (s : State) : Host.Outcome State Fault Refusal :=
  issueWord (.jmpi x a) s fun s => s.warpWord x fun s => s.modW fun w => w.jump (s.rd.sget a)

/-! ## The mask stack (R349 to R353) -/

/-- What a mask-stack word does: the new active mask and stack, and whether it branches (R350). -/
structure MaskStep where
  am     : Lanes
  stack  : List MaskEntry
  branch : Bool
  deriving DecidableEq, Repr

/-- Apply a mask-stack word to the warp, computed from its state before the group (R350). -/
def State.maskStep (s : State) (off : Int) (f : Warp → MaskStep) : State :=
  let r := f s.rd
  (s.modW fun w => { w with ctl := { w.ctl with am := r.am, stack := r.stack } }).branch r.branch off

/-- MIF on a warp (R350). -/
def Warp.mif (x : Ext) (w : Warp) : MaskStep :=
  let am := w.ctl.am
  let g := w.guard x
  if g = 0 then ⟨am, ⟨am, 0⟩ :: w.ctl.stack, true⟩
  else ⟨g, ⟨am, am &&& ~~~g⟩ :: w.ctl.stack, false⟩

/-- MELSE on a warp (R350). -/
def Warp.melse (w : Warp) : MaskStep :=
  match w.ctl.stack with
  | [] => ⟨w.ctl.am, [], false⟩
  | e :: st => if e.rest = 0 then ⟨e.outer, e :: st, true⟩ else ⟨e.rest, ⟨e.outer, 0⟩ :: st, false⟩

/-- MEND on a warp (R350). -/
def Warp.mend (w : Warp) : MaskStep :=
  match w.ctl.stack with
  | [] => ⟨w.ctl.am, [], false⟩
  | e :: st => ⟨e.outer, st, false⟩

/-- MLOOP on a warp: the guard is computed after the parked lanes rejoin (R350). -/
def Warp.mloop (x : Ext) (w : Warp) : MaskStep :=
  match w.ctl.stack with
  | [] => ⟨w.ctl.am, [], false⟩
  | e :: st =>
    let g := w.guardIn x (w.ctl.am ||| e.rest)
    if g = 0 then ⟨e.outer, st, false⟩ else ⟨g, ⟨e.outer, 0⟩ :: st, true⟩

/-- MBRK on a warp (R350). -/
def Warp.mbrk (x : Ext) (w : Warp) : MaskStep :=
  let am := w.ctl.am &&& ~~~(w.guard x)
  ⟨am, w.ctl.stack, am == 0⟩

/-- MCONT on a warp (R350). -/
def Warp.mcont (x : Ext) (w : Warp) : MaskStep :=
  match w.ctl.stack with
  | [] => ⟨w.ctl.am, [], false⟩
  | e :: st =>
    let g := w.guard x
    let am := w.ctl.am &&& ~~~g
    ⟨am, ⟨e.outer, e.rest ||| g⟩ :: st, am == 0⟩

/-- MIF: opens an if or a loop (R350). -/
def execMif (x : Ext) (f : BitVec 39) (s : State) : Host.Outcome State Fault Refusal :=
  issueWord (.mif x f) s fun s => s.maskStep f.toInt (Warp.mif x)

/-- MELSE: the waiting lanes, or a branch (R350). -/
def execMelse (x : Ext) (f : BitVec 39) (s : State) : Host.Outcome State Fault Refusal :=
  issueWord (.melse x f) s fun s => s.maskStep f.toInt Warp.melse

/-- MEND: closes an if (R350). -/
def execMend (x : Ext) (s : State) : Host.Outcome State Fault Refusal :=
  issueWord (.mend x) s fun s => s.maskStep 0 Warp.mend

/-- MLOOP: rejoins parked lanes, and loops or closes the loop (R350). -/
def execMloop (x : Ext) (f : BitVec 39) (s : State) : Host.Outcome State Fault Refusal :=
  issueWord (.mloop x f) s fun s => s.maskStep f.toInt (Warp.mloop x)

/-- MBRK: lanes leave the loop (R350). -/
def execMbrk (x : Ext) (f : BitVec 39) (s : State) : Host.Outcome State Fault Refusal :=
  issueWord (.mbrk x f) s fun s => s.maskStep f.toInt (Warp.mbrk x)

/-- MCONT: lanes are parked until MLOOP (R350). -/
def execMcont (x : Ext) (f : BitVec 39) (s : State) : Host.Outcome State Fault Refusal :=
  issueWord (.mcont x f) s fun s => s.maskStep f.toInt (Warp.mcont x)

/-! ## Warp control (R354 to R359) -/

/-- NOP: no effect (R355). -/
def execNop (x : Ext) (s : State) : Host.Outcome State Fault Refusal :=
  issueWord (.nop x) s fun s => s

/-- YIELD: the warp is swapped out where a ready pending warp exists (R356). -/
def execYield (x : Ext) (s : State) : Host.Outcome State Fault Refusal :=
  issueWord (.yield x) s fun s => s.warpWord x fun s =>
    if s.w.sched.state = .active then s.swapOut s.w.place.core s.w 0 else s

/-- The warp at issue leaves the active set at once; its slot is exiting until its counters are zero
(R159), and it counts as arrived at every barrier (R445). -/
def State.exitWarp (s : State) : State :=
  let p := s.w.place
  let s := s.modW fun w =>
    { w with exited := true, sched := { w.sched with state := .exiting, hold := none, blocked := false } }
  (s.settleGroup p.gid p.bid p.lid (coreDie p.core)).boltDone p.bid

/-- EXIT: the whole warp exits (R357, R159). -/
def execExit (x : Ext) (s : State) : Host.Outcome State Fault Refusal :=
  issueWord (.exit x) s fun s => s.warpWord x State.exitWarp

/-- REGION: the entry becomes this word, the sequence rises by 1, and the control state is recorded, as the words
chained before it leave it (R253, R358). -/
def execRegion (x : Ext) (s : State) : Host.Outcome State Fault Refusal :=
  issueWord (.region x) s fun s => s.warpWord x fun s => s.modW fun w =>
    { w with
      region :=
        { pc := s.issue.pc
          widx := s.issue.widx + BitVec.ofNat 2 s.issue.pos
          seq := w.region.seq + 1
          ctl := w.ctl } }

/-- TRAP: the precise trap is raised as the group would issue (R247, R359), so a TRAP that takes part
in a group has an empty guard, and no effect. -/
def execTrap (x : Ext) (i : BitVec 33) (s : State) : Host.Outcome State Fault Refusal :=
  issueWord (.trap x i) s fun s => s

/-! ## The end of a warp (R159) -/

/-- Free the slot of a warp, which makes its END record (R298); its private lines are written back (R178). -/
def State.freeSlot (s : State) (wid : Nat) : State :=
  let s := ((s.warp? wid).elim s fun w => s.recordEnd w 0).l1Exit wid
  { s with
    w := if s.w.place.wid = wid then Warp.free else s.w
    rest := s.rest.filter fun w => w.place.wid != wid
    regPoison := s.regPoison.filter fun q =>
      match q with
      | .lane v _ _ => v != wid
      | .scale v _ => v != wid
      | .acc _ _ _ _ => true }

/-- Free what a group holds once its last warp's slot is free: scratch, tiles, tile-table entries and
its loom planes' ownership (R159, R183, R267), and settle what waits for its end. -/
def State.freeGroup (s : State) (gid : Nat) : State :=
  match s.group? gid with
  | none => s
  | some g =>
    if (s.groupWarps gid).isEmpty then
      let s := { s with
        groups := s.groups.filter fun g => g.gid != gid
        poison := s.poison.filter fun q =>
          match q.loc with
          | .scratch h _ => h != gid
          | _ => true
        regPoison := s.regPoison.filter fun q =>
          match q with
          | .acc h _ _ _ => h != gid
          | _ => true
        looms := s.looms.map fun (x : Nat × Loom) => (x.1, x.2.disown gid) }
      let keep := (s.launch? g.lid).elim false fun l => l.desc.attr.getLsbD 1
      let s := s.modBolt g.bid fun b =>
        if keep && b.groups != 1 then { b with gone := b.gone ++ [g.stub false] } else b
      (s.boltDone g.bid).leavePly g.lid (coreDie g.core)
    else s

/-- WARP_SLOT_FREE (R159): an exiting slot becomes free once its counters are zero. -/
def execWarpSlotFree (wid : Nat) (s : State) : Host.Outcome State Fault Refusal :=
  .next (match s.warp? wid with
    | some w =>
      if w.sched.state = .exiting ∧ w.cnt.isZero then
        let p := w.place
        ((s.freeSlot wid).settleGroup p.gid p.bid p.lid (coreDie p.core)).freeGroup p.gid
      else s
    | none => s)

/-- TRAP_TAKEN (R251): a warp that has stopped for a trap takes it once it has drained. -/
def execTrapTaken (wid : Nat) (s : State) : Host.Outcome State Fault Refusal :=
  .next (s.tryTrap wid)

end Sys2Proof.Machine
end

