-- ==== Sys2Proof/Machine/CrossLane.lean ====
section
/-! DEFINITION. The cross-lane words of MAJ 0x17 (R383 to R386) and VRAND (R387). -/

namespace Sys2Proof.Machine

/-- The tile size of the partition register (R160). -/
def partLanes : PartSz → Nat
  | .t2 => 2
  | .t4 => 4
  | .t8 => 8
  | .t16 => 16
  | .t32 => 32

/-- The first lane of the tile of a lane (R383). -/
def tileFirst (t l : Nat) : Nat := l - l % t

/-- The tile size of a warp. -/
def Warp.tileSize (w : Warp) : Nat := partLanes w.ctl.part

/-- A shuffle (R384): each active lane takes the lane that `src` names, active or not. -/
def State.shuffle (s : State) (x : Ext) (d a : VOp) (more : List VOp) (src : Warp → Nat → Nat) :
    State :=
  let r := s.rd
  let g := s.lanes x
  let bad := s.badWords (laneMask ((laneList g).map (src r))) [r.vidx x a] [] ++
    s.badWords g (more.map (r.vidx x)) []
  (s.vput (r.vidx x d) g fun l =>
    if bad.isEmpty then r.lane (r.vidx x a) (src r l) else 0).regFault bad

/-- VSHFL: the lane of the tile that vB names (R384). -/
def execVshfl (x : Ext) (d a b : VOp) (s : State) : Host.Outcome State Fault Refusal :=
  issueWord (.vshfl x d a b) s fun s =>
    s.shuffle x d a [b] fun r l =>
      tileFirst r.tileSize l + (r.lane (r.vidx x b) l).toNat % r.tileSize

/-- VSHFLUP: the lane n below, within the tile (R384). -/
def execVshflup (x : Ext) (d a : VOp) (n : BitVec 5) (s : State) : Host.Outcome State Fault Refusal :=
  issueWord (.vshflup x d a n) s fun s =>
    s.shuffle x d a [] fun r l =>
      if tileFirst r.tileSize l + n.toNat ≤ l then l - n.toNat else l

/-- VSHFLDN: the lane n above, within the tile (R384). -/
def execVshfldn (x : Ext) (d a : VOp) (n : BitVec 5) (s : State) : Host.Outcome State Fault Refusal :=
  issueWord (.vshfldn x d a n) s fun s =>
    s.shuffle x d a [] fun r l =>
      if l + n.toNat < tileFirst r.tileSize l + r.tileSize then l + n.toNat else l

/-- VSHFLX: the lane whose place in the tile differs by an exclusive or (R384). -/
def execVshflx (x : Ext) (d a : VOp) (n : BitVec 5) (s : State) : Host.Outcome State Fault Refusal :=
  issueWord (.vshflx x d a n) s fun s =>
    s.shuffle x d a [] fun r l =>
      tileFirst r.tileSize l + Nat.xor (l % r.tileSize) (n.toNat % r.tileSize)

/-- The lanes of a lane's tile that are active. -/
def tileOf (t l : Nat) (g : Lanes) : List Nat :=
  (laneList g).filter fun i => tileFirst t i == tileFirst t l

/-- VVOTE: a vote of the active lanes of each tile, or a ballot (R385). [DEDUCED, log 23] -/
def execVvote (x : Ext) (t : Vote) (d : BitVec 6) (a : PReg) (s : State) : Host.Outcome State Fault Refusal :=
  issueWord (.vvote x t d a) s fun s =>
    let r := s.rd
    let g := s.lanes x
    let p := r.pget a
    let by_ := fun f : List Nat → Bool =>
      laneMask ((List.range 32).filter fun l => f (tileOf r.tileSize l g))
    if g = 0 then s
    else
      s.modW fun w =>
        match t with
        | .all => w.pset (d.setWidth 4) g (by_ fun ls => ls.all fun i => p.getLsbD i)
        | .any => w.pset (d.setWidth 4) g (by_ fun ls => ls.any fun i => p.getLsbD i)
        | .ballot => w.sset d ((p &&& g).zeroExtend 64)

/-- An operator of VRED and VSCAN on the codes of its type (R292, R386). -/
def reduceOp (t : RTy) (o : ROp) (a b : Nat) : Nat :=
  let int := fun v : Nat => if t = .i32 then (BitVec.ofNat 32 v).toInt else (v : Int)
  match t, o with
  | .f32, .add => fp32.add a b
  | .f32, .min => fp32.fmin a b
  | .f32, .max => fp32.fmax a b
  | _, .add => (a + b) % 2 ^ 32
  | _, .min => if int b < int a then b else a
  | _, .max => if int a < int b then b else a
  | _, .andB => Nat.land a b
  | _, .orB => Nat.lor a b
  | _, .xorB => Nat.xor a b

/-- The identity of an operator (R292). -/
def reduceId (t : RTy) (o : ROp) : Nat :=
  match t, o with
  | .f32, .add => 0x80000000
  | .f32, .min => 0x7F800000
  | .f32, .max => 0xFF800000
  | .i32, .min => 0x7FFFFFFF
  | .i32, .max => 0x80000000
  | .u32, .min => 0xFFFFFFFF
  | _, .andB => 0xFFFFFFFF
  | _, _ => 0

/-- The leaves of the tile of a lane (R292): the lanes outside a set are the identity. -/
def Warp.leaves (w : Warp) (i l : Nat) (g : Lanes) (ident : Nat) : List Nat :=
  let t := w.tileSize
  (List.range t).map fun j =>
    let m := tileFirst t l + j
    if g.getLsbD m then (w.lane i m).toNat else ident

/-- VRED: the fixed-tree reduction of each tile (R386, R292). -/
def execVred (x : Ext) (t : RTy) (d a : VOp) (o : ROp) (s : State) : Host.Outcome State Fault Refusal :=
  issueWord (.vred x t d a o) s fun s =>
    let r := s.rd
    s.crossWord x (r.vidx x d) (s.lanes x) [r.vidx x a] fun r l =>
      BitVec.ofNat 32 (treeReduce (reduceOp t o) (reduceId t o) r.ctl.part.code
        (r.leaves (r.vidx x a) l (s.lanes x) (reduceId t o)))

/-- VSCAN: the fixed-tree inclusive or exclusive prefix within each tile (R386, R292). -/
def execVscan (x : Ext) (t : RTy) (d a : VOp) (ex : Bool) (o : ROp) (s : State) : Host.Outcome State Fault Refusal :=
  issueWord (.vscan x t d a ex o) s fun s =>
    let r := s.rd
    s.crossWord x (r.vidx x d) (s.lanes x) [r.vidx x a] fun r l =>
      let n := l % r.tileSize + (if ex then 0 else 1)
      BitVec.ofNat 32 (treePrefix (reduceOp t o) (reduceId t o) n
        (r.leaves (r.vidx x a) l (s.lanes x) (reduceId t o)))

/-- VRAND: four random words per active lane, and the draw index advances (R387, R293, R294). [DEDUCED, log 11] -/
def execVrand (x : Ext) (d : VOp) (a : SReg) (s : State) : Host.Outcome State Fault Refusal :=
  issueWord (.vrand x d a) s fun s =>
    let r := s.rd
    let g := s.lanes x
    if g = 0 then s
    else
      let ws := fun l => vrandDraw (r.sget a) (r.lid l) s.w.ctl.draw
      ((List.finRange 4).foldl (fun s k => s.vput (r.vidx x d + k.val) g fun l => (ws l)[k]) s).modW
        fun w => { w with ctl := { w.ctl with draw := w.ctl.draw + 1 } }

end Sys2Proof.Machine
end

