-- ==== Sys2Proof/Machine/Remote.lean ====
section
/-! DEFINITION. What a peer answers (R56, R58, R59): the events that end an access, a unit of a copy or a loom
request that has been sent to the remote aperture. -/

namespace Sys2Proof.Machine

/-- The loom request of an identifier, with its cluster. -/
def State.loomReq? (s : State) (id : Nat) : Option (Nat × LoomReq) :=
  s.looms.findSome? fun x => (x.2.reqs.find? fun r => r.id == id && r.granted).map fun r => (x.1, r)

/-- Something that has been sent to a peer ends: an access, a unit of a copy, or a loom request. -/
def State.peerEvent (s : State) (id : Nat) (op : State → Op → State) (copy : State → Copy → State)
    (req : State → Nat → LoomReq → State) : State :=
  match s.ops.find? fun o => o.id == id, s.copies.find? fun c => c.id == id, s.loomReq? id with
  | some o, _, _ => op s o
  | none, some c, _ => copy s c
  | none, none, some r => req s r.1 r.2
  | none, none, none => s

/-- REMOTE_ACKNOWLEDGE (R56, R58): the peer has performed what it was sent, or has rejected it. -/
def execRemoteAcknowledge (op : Nat) (s : State) : Host.Outcome State Fault Refusal :=
  .next (s.peerEvent op State.opAnswered State.copyAnswered State.reqAnswered)

/-- REMOTE_TIMEOUT (R59): the peer gives no answer within the time-out. -/
def execRemoteTimeout (op : Nat) (s : State) : Host.Outcome State Fault Refusal :=
  .next (s.peerEvent op State.opTimedOut State.copyTimedOut State.reqTimedOut)

end Sys2Proof.Machine
end

