-- ==== Sys2Proof/Machine/Sync.lean ====
section
/-! DEFINITION. The words of MAJ 0x2E (R443 to R452): arriving at barriers, waiting at them and setting
their membership, FETCHW and REEDF. -/

namespace Sys2Proof.Machine

/-! ## BARV (R446, R447) -/

/-- Whether a warp is a member of a barrier's current generation (R444). -/
def State.isMember (s : State) (w : Warp) (l : Lvl) (n : BitVec 4) : Bool :=
  match s.group? w.place.gid with
  | none => false
  | some g =>
    let i := w.place.widx.toNat
    match l with
    | .grp => (g.named[n.toNat]).mask.getLsbD i
    | .bolt =>
      (g.boltLvl[n.toNat % 8]'(Nat.mod_lt _ (by omega))).mask.getLsbD i &&
        (s.bolt? w.place.bid).elim false fun b =>
          (b.bars[n.toNat % 8]'(Nat.mod_lt _ (by omega))).mask.getLsbD w.place.gidx.toNat
    | .beam => (g.beamLvl[n.toNat % 8]'(Nat.mod_lt _ (by omega))).mask.getLsbD i

/-- A warp of a group has arrived at the current generation of a barrier (R168), which its membership then keeps
(R170, R444). -/
def State.noteBegun (s : State) (p : Place) (l : Lvl) (n : BitVec 4) : State :=
  match l with
  | .grp => s.modGroup p.gid fun g => { g with named := vmod g.named n.toNat fun b => { b with begun := true } }
  | .bolt =>
    (s.modGroup p.gid fun g => { g with boltLvl := vmod g.boltLvl (n.toNat % 8) fun b => { b with begun := true } }).modBolt
      p.bid fun b => { b with bars := vmod b.bars (n.toNat % 8) fun r => { r with begun := true } }
  | .beam =>
    s.modGroup p.gid fun g => { g with beamLvl := vmod g.beamLvl (n.toNat % 8) fun b => { b with begun := true } }

/-- Put an arrival of the warp at issue in flight: a release that reaches the barrier's counter once
every earlier access is complete (R446). -/
def State.startArrival (s : State) (l : Lvl) (n : BitVec 4) : State :=
  let w := s.rd
  let gen := s.generation w l n
  let (id, s) := (s.noteBegun w.place l n).fresh
  let o : Op :=
    { s.newOp w id (.arrive l n) with rel := true }
  (s.modW fun w => w.noteArrival l n gen).putOp o

/-- BARV: arrives at the current generation of a barrier (R446); a second arrival is held (R168), and
a beam arrival of a launch without slots faults (R447). -/
def execBarv (x : Ext) (l : Lvl) (n : BitVec 4) (s : State) : Host.Outcome State Fault Refusal :=
  issueWord (.barv x l n) s fun s => s.warpWord x fun s =>
    let w := s.rd
    if l == .beam && !s.ownsSlot w.place.lid (coreDie w.place.core) then
      s.pendFaults 4 true [(0, .bad 3 0x15 (n.zeroExtend 64))]
    else if !s.isMember w l n then s
    else s.unless (!s.arrivalPending w l n) (.secondArrival l n (s.generation w l n)) fun s =>
      s.startArrival l n

/-! ## BARW (R448) -/

/-- BARW: completes, as an acquire, once the generation of the warp's latest arrival has completed
(R169, R448); in an ordered launch a bolt-level BARW also waits for the flush of the warp's epoch, and
may be the bolt's first acquire (R129, R244). -/
def execBarw (x : Ext) (l : Lvl) (n : BitVec 4) (s : State) : Host.Outcome State Fault Refusal :=
  issueWord (.barw x l n) s fun s => s.warpWord x fun s =>
    let w := s.rd
    s.unless (!s.arrivalPending w l n) (.barw l n (s.generation w l n)) fun s =>
      s.unless (l != .bolt || s.flushed) .flush fun s =>
        s.acqUnless (l == .bolt) fun s => s.acquire w.place.core

/-! ## BARM (R170, R444, R449) -/

/-- A named barrier under a new mask: at once where no warp has arrived, and otherwise from the next
generation on (R170). -/
def NamedBar.setMask (b : NamedBar) (m : Lanes) : NamedBar :=
  if b.begun then { b with next := some m } else { b with mask := m, next := none }

/-- A group's copy of a named mask for the bolt or beam level, under a new mask (R444). -/
def LevelBar.setMask (b : LevelBar) (m : Lanes) : LevelBar :=
  if b.begun then { b with next := some m } else { b with mask := m, next := none }

/-- A bolt barrier under a new mask (R170). -/
def BoltBar.setMask (b : BoltBar) (m : BitVec 16) : BoltBar :=
  if b.begun then { b with next := some m } else { b with mask := m, next := none }

/-- BARM.grp: the mask of a named barrier and the copies that the bolt and beam levels use (R444). -/
def State.setNamedMask (s : State) (w : Warp) (n : BitVec 4) (m : Lanes) : State :=
  let i := n.toNat
  let s := s.modGroup w.place.gid fun g =>
    let m := m &&& lowLanes g.warps
    { g with
      named := vmod g.named i fun b => b.setMask m
      boltLvl := vmod g.boltLvl i fun b => b.setMask m
      beamLvl := vmod g.beamLvl i fun b => b.setMask m }
  if i < 8 then
    (s.settleBolt1 w.place.bid (Fin.ofNat 8 i)).settleBeam w.place.lid (coreDie w.place.core)
      (Fin.ofNat 8 i)
  else s

/-- BARM.bolt: the mask of a bolt barrier, at once where no warp has arrived (R170). -/
def State.setBoltMask (s : State) (w : Warp) (n : BitVec 4) (m : BitVec 16) : State :=
  s.modBolt w.place.bid fun b =>
    let m := m &&& BitVec.ofNat 16 (2 ^ b.groups - 1)
    { b with bars := vmod b.bars (n.toNat % 8) fun r => r.setMask m }

/-- BARM: a new membership from sA (R449). -/
def execBarm (x : Ext) (l : Lvl) (n : BitVec 4) (a : SReg) (s : State) :
    Host.Outcome State Fault Refusal :=
  issueWord (.barm x l n a) s fun s => s.warpWord x fun s =>
    let w := s.rd
    match l with
    | .grp => s.setNamedMask w n ((w.sget a).setWidth 32)
    | .bolt => s.setBoltMask w n ((w.sget a).setWidth 16)
    | .beam => s

/-! ## FETCHW (R450, R451) -/

/-- FETCHW: reserves the next slot of a counted entry and asks the distributor for work; rejected for an
unmapped or plain entry, and held while the group has four unanswered or the entry has no slot.
[DEDUCED, log 24] -/
def execFetchw (x : Ext) (a : TileName) (s : State) : Host.Outcome State Fault Refusal :=
  issueWord (.fetchw x a) s fun s => s.warpWord x fun s =>
    let w := s.rd
    let t := s.entry a
    if !t.mapped then s.reject a.toNat true
    else if !t.counted then s.reject t.offset true
    else
      let few := (s.group? w.place.gid).elim false fun g => decide (g.fetches.length < 4)
      s.unless few .fifthFetchw fun s => s.unless (tileMeets t .slot) (.tile a .slot) fun s =>
        let (id, s) := s.fresh
        let s := s.modTile w.place.gid a fun t => t.reserve id
        s.modGroup w.place.gid fun g => { g with fetches := g.fetches ++ [⟨id, a, t.nextSlot⟩] }

/-! ## REEDF (R37, R452) -/

/-- REEDF: held until the warp's earlier reed writes, and the tokens in the queue that carry its
arrivals, have passed and been applied. -/
def execReedf (x : Ext) (s : State) : Host.Outcome State Fault Refusal :=
  issueWord (.reedf x) s fun s => s.warpWord x fun s =>
    let ids := s.reedfTokens
    s.unless (s.reedfMet s.rd s.issue.mark ids) (.reedf ids) fun s => s

end Sys2Proof.Machine
end

