-- ==== Sys2Proof/Machine/System.lean ====
section
/-! DEFINITION. The words of MAJ 0x3E (R453 to R467): fences over the engines and the translation
system, TLBINV, special registers, and the return from a handler. -/

namespace Sys2Proof.Machine

/-! ## Fences (R455 to R459) -/

/-- TFENCE: its release part completes first, and then the warp is held while a sweep of its partition
runs, whose report goes to sD (R456). -/
def execTfence (x : Ext) (d : SReg) (s : State) : Host.Outcome State Fault Refusal :=
  issueWord (.tfence x d) s fun s => s.warpWord x fun s =>
    s.unless (s.releaseMet s.rd) .tfence fun s => s.acqUnless true fun s =>
      let w := s.rd
      let (id, s) := s.requestSweep w.env.part (.tfence w.place.wid)
      s.modW fun w => { w with busy := .sweep id d }

/-- OFENCE: held until earlier stores have performed or registered; a loom request after it reads no older
register or scratch value (R239, R455). -/
def execOfence (x : Ext) (s : State) : Host.Outcome State Fault Refusal :=
  issueWord (.ofence x) s fun s => s.warpWord x fun s => s.unless (s.ofenceMet s.rd) .ofence fun s =>
    let m := s.groupMem s.rd.place.gid
    s.modW fun w => { w with fenced := w.regs.file, fencedMem := m, fenceSeq := w.issued }

/-- EFENCE: held until every counter is zero (R249, R458), and, where it covers a held atomic, until the warp's epoch
has been flushed (R244). [DEDUCED, log 13] -/
def execEfence (x : Ext) (s : State) : Host.Outcome State Fault Refusal :=
  issueWord (.efence x) s fun s => s.warpWord x fun s => s.unless s.rd.cnt.isZero .drain fun s =>
    s.unless (!s.covering || s.flushed) .flush fun s => s

/-! ## TLBINV (R460) -/

/-- TLBINV: asks every TLB of the partition to remove entries. -/
def execTlbinv (x : Ext) (a : SReg) (s : State) : Host.Outcome State Fault Refusal :=
  issueWord (.tlbinv x a) s fun s => s.warpWord x fun s =>
    let w := s.rd
    let (id, s) := s.fresh
    { s with
      tlbinvs := s.tlbinvs ++ [⟨id, w.env.part, (s.ctx w.env.beam w.env.ctx).asid, w.sget a⟩] }

/-- Whether a TLBINV removes an entry. -/
def TlbInv.removes (i : TlbInv) (e : TlbEntry) : Bool :=
  e.part == i.part &&
    (bitOf i.arg 63 ||
      (e.asid == i.asid && e.vpn == bitsOf i.arg 56 16 * 2 ^ 16 / 2 ^ levelShift e.level))

/-- TLBINV_REMOVAL (R460): the TLBs remove the entries that a TLBINV names, and their hit counts go to
the heat table. [DEDUCED, log 36] -/
def execTlbinvRemoval (op : Nat) (s : State) : Host.Outcome State Fault Refusal :=
  .next (match s.tlbinvs.find? fun i => i.id == op with
    | none => s
    | some i => { s.tlbDrop i.removes with tlbinvs := s.tlbinvs.filter fun j => j.id != op })

/-! ## Special registers (R461 to R464) -/

/-- WHO (R462). -/
def Warp.who (w : Warp) : Word64 :=
  let p := w.place
  let seen := fun n : Nat => if w.env.ordered then 0 else n
  BitVec.ofNat 64 (lay [(48, seen p.core), (40, seen (coreDie p.core).val), (32, seen p.slot.toNat),
    (16, seen p.num.toNat), (8, p.widx.toNat), (0, p.gidx.toNat)])

/-- LAUNCH (R461, R462). -/
def Warp.launchWord (w : Warp) : Word64 :=
  let e := w.env
  BitVec.ofNat 64 (lay [(20, e.vdom.toNat), (19, e.versioned.toNat), (18, e.persist.toNat),
    (17, e.idem.toNat), (16, e.ordered.toNat), (8, e.ctx.val), (0, if e.ordered then 0 else e.tag.toNat)])

/-- What SRD reads (R461, R302). [DEDUCED, log 33] -/
def State.special (s : State) (w : Warp) : SpReg → Word64 × State
  | .clock =>
    if w.env.ordered then
      (w.lclock + BitVec.ofNat 64 (if w.handler then 0 else s.issue.pos), s)
    else s.clockOf w.place.core
  | .rmask => (w.rmask.zeroExtend 64, s.modW fun v => { v with rmask := v.rmask &&& ~~~w.rmask })
  | .draw => (w.ctl.draw, s)
  | .rseq => (w.region.seq.zeroExtend 64, s)
  | .who => (w.who, s)
  | .launch => (w.launchWord, s)
  | .boltlo => (w.place.bolt.setWidth 64, s)
  | .bolthi => ((w.place.bolt >>> 64).setWidth 64, s)
  | .plyheat =>
    (if w.env.ordered then 0 else (s.ply (coreDie w.place.core)).heat.zeroExtend 64, s)
  | .tframe => (s.frameVa w, s)
  | .ctxid =>
    (BitVec.ofNat 64 (lay [(52, (s.ctx w.env.beam w.env.ctx).asid.toNat), (0, w.env.part.val)]), s)
  | .hscr0 => (w.hscr0, s)
  | .hscr1 => (w.hscr1, s)

/-- SRD: a special register to sD; a read of RMASK clears it (R461). [DEDUCED, log 33] -/
def execSrd (x : Ext) (d : SReg) (r : SpReg) (s : State) : Host.Outcome State Fault Refusal :=
  issueWord (.srd x d r) s fun s => s.warpWord x fun s =>
    let (v, s) := s.special s.rd r
    s.modW fun w => w.sset d v

/-- Write a special register: HSCR0 and HSCR1 alone are writable (R461, R463). -/
def Warp.setSpecial (w : Warp) (r : SpReg) (v : Word64) : Warp :=
  match r with
  | .hscr0 => { w with hscr0 := v }
  | .hscr1 => { w with hscr1 := v }
  | .clock | .rmask | .draw | .rseq | .who | .launch | .boltlo | .bolthi | .plyheat | .tframe
  | .ctxid => w

/-- SWR: sA to a special register (R461). -/
def execSwr (x : Ext) (a : SReg) (r : SpReg) (s : State) : Host.Outcome State Fault Refusal :=
  issueWord (.swr x a r) s fun s => s.warpWord x fun s =>
    s.modW fun w => w.setSpecial r (s.rd.sget a)

/-! ## TRET (R255, R465, R466) -/

/-- The bytes of a frame that TRET reads, as offsets and lengths (R257). -/
def frameRanges (e : LaunchEnv) : List (Nat × Nat) :=
  [(0, 0x300), (0x300, 8 * e.sregs), (0x500, 4 * e.vregs), (0x900, (e.vregs + 7) / 8),
    (0x1000, 8 * e.vregs), (0x2000, 128 * e.vregs)]

/-- The issue group after the one at a place of a warp's launch (R255): it is found by the chain bits of
the packet there. [DEDUCED, log 32] -/
def State.groupAfter (s : State) (w : Warp) (pc : Word64) (widx : BitVec 2) : Word64 × BitVec 2 :=
  match (s.fetchPacket w pc).1 with
  | .ok ws => nextPlace pc widx.toNat (chain (ws.drop widx.toNat)).length
  | .error _ => (pc, widx)

/-- Memory as a warp itself sees it: the bolt's held stores over it, and its own stores in flight and those
in its core's L1 (R225, R227, R243). -/
def State.warpMem (s : State) (w : Warp) : List Host.Cell :=
  (s.forward w.place.wid w.place.core (s.w.issued + 1)).foldl (fun m r =>
    match r.1 with
    | .phys a => cellPut m a r.2
    | .scratch _ _ | .vault _ | .reed _ _ => m) (s.boltMem w.place.bid)

/-- Read the frame of a warp, whose granules lie at some places, into memory as the warp sees it: a peer's bytes are asked
for (R57); or the cause of the fault. -/
def State.readFrame (s : State) (w : Warp) (pas : List Nat) : Except (BitVec 8) (List Host.Cell) × State :=
  let d := coreDie w.place.core
  let rs := (framePieces (frameRanges w.env)).map fun p => (placeIn pas p.1, p.2)
  let near := rs.filter fun r => !isRemote r.1
  if near.any fun r => (s.poisonAt (.phys r.1) r.2).isSome then (.error 0x19, s)
  else
    let s := near.foldl (fun s r => s.l1Recall (some w.place.core) r.1 r.2) (s.askLines (some d) rs)
    (rs.filter fun r => isRemote r.1).foldl (fun (r : Except (BitVec 8) (List Host.Cell) × State) x =>
      match r with
      | (.error e, s) => (.error e, s)
      | (.ok m, s) =>
        match s.askPeer (dieBeam d) x.1 x.2 with
        | (.ok bs, s) =>
          (.ok (cellPut m x.1 (overlayAll (.phys x.1) bs ((s.heldStores w.place.bid).flatMap HEntry.runs))), s)
        | (.error _, s) => (.error 0x10, s)) (.ok (s.warpMem w), s)

/-- TRET: reloads the warp from its frame and leaves handler mode, once the handler's own operations
have finished (R465); the handler's stores to the frame come before it in program order (R225), and a frame
that cannot be read kills the group (R466). [DEDUCED, log 32] -/
def execTret (x : Ext) (s : State) : Host.Outcome State Fault Refusal :=
  issueWord (.tret x) s fun s => s.warpWord x fun s =>
    s.unless s.rd.cnt.isZero .tret fun s =>
      let w := s.rd
      let va := s.frameVa w
      match s.framePas w .load with
      | (.error e, s) => s.kill w.place.gid e
      | (.ok pas, s) =>
        if s.behindAtomic w.place.wid
            (pas.map fun pa => ⟨0, .phys pa, 4096, va, va, .none, 0, 0, 0, none, .waiting⟩) then
          s.retryWith .behind
        else
          match s.readFrame w pas with
          | (.error e, s) => s.kill w.place.gid e
          | (.ok m, s) => s.reload w m (placeIn pas) (s.groupAfter { w with handler := false })

end Sys2Proof.Machine
end

