-- ==== Sys2Proof/Machine/VFloat.lean ====
section
/-! DEFINITION. The floating-point words of the vector pipe, MAJ 0x13 and 0x14 (R369 to R371), and
the special functions of MAJ 0x1C (R372, R373). -/

namespace Sys2Proof.Machine

/-- The format of a floating-point type (R317). -/
def floatFmt : FTy → FFmt
  | .f32 => fp32
  | .f16 => fp16
  | .bf16 => bf16

/-- An element-wise floating-point word of three sources (R369). -/
def State.vecF3 (s : State) (x : Ext) (t : FTy) (d a b e : VOp) (f : FFmt → Nat → Nat → Nat → Nat) :
    State :=
  s.vecWord x d [a, b, e] fun r l =>
    laneElems (floatFmt t).bits (f (floatFmt t)) (r.lane (r.vidx x a) l) (r.lane (r.vidx x b) l)
      (r.lane (r.vidx x e) l)

/-- An element-wise floating-point word of two sources (R369). -/
def State.vecF2 (s : State) (x : Ext) (t : FTy) (d a b : VOp) (f : FFmt → Nat → Nat → Nat) : State :=
  s.vecWord x d [a, b] fun r l =>
    laneElems (floatFmt t).bits (fun m n _ => f (floatFmt t) m n) (r.lane (r.vidx x a) l)
      (r.lane (r.vidx x b) l) 0

/-- An element-wise floating-point word of one source (R369, R370). -/
def State.vecF1 (s : State) (x : Ext) (t : FTy) (d a : VOp) (f : FFmt → Nat → Nat) : State :=
  s.vecWord x d [a] fun r l =>
    laneElems (floatFmt t).bits (fun m _ _ => f (floatFmt t) m) (r.lane (r.vidx x a) l) 0 0

/-- VFADD: a + b, rounded once (R369). -/
def execVfadd (x : Ext) (t : FTy) (d a b : VOp) (s : State) : Host.Outcome State Fault Refusal :=
  issueWord (.vfadd x t d a b) s fun s => s.vecF2 x t d a b FFmt.add

/-- VFSUB: a - b, rounded once (R369). -/
def execVfsub (x : Ext) (t : FTy) (d a b : VOp) (s : State) : Host.Outcome State Fault Refusal :=
  issueWord (.vfsub x t d a b) s fun s => s.vecF2 x t d a b FFmt.sub

/-- VFMUL: a x b, rounded once (R369). -/
def execVfmul (x : Ext) (t : FTy) (d a b : VOp) (s : State) : Host.Outcome State Fault Refusal :=
  issueWord (.vfmul x t d a b) s fun s => s.vecF2 x t d a b FFmt.mul

/-- VFMA: a x b + c with one rounding (R369). -/
def execVfma (x : Ext) (t : FTy) (d a b e : VOp) (s : State) : Host.Outcome State Fault Refusal :=
  issueWord (.vfma x t d a b e) s fun s => s.vecF3 x t d a b e fun f => f.fma false

/-- VFMS: a x b - c with one rounding (R369). -/
def execVfms (x : Ext) (t : FTy) (d a b e : VOp) (s : State) : Host.Outcome State Fault Refusal :=
  issueWord (.vfms x t d a b e) s fun s => s.vecF3 x t d a b e fun f => f.fma true

/-- VFMIN: the lesser, -0 below +0 (R369). -/
def execVfmin (x : Ext) (t : FTy) (d a b : VOp) (s : State) : Host.Outcome State Fault Refusal :=
  issueWord (.vfmin x t d a b) s fun s => s.vecF2 x t d a b FFmt.fmin

/-- VFMAX: the greater, -0 below +0 (R369). -/
def execVfmax (x : Ext) (t : FTy) (d a b : VOp) (s : State) : Host.Outcome State Fault Refusal :=
  issueWord (.vfmax x t d a b) s fun s => s.vecF2 x t d a b FFmt.fmax

/-- VFABS: the sign bit cleared (R369). -/
def execVfabs (x : Ext) (t : FTy) (d a : VOp) (s : State) : Host.Outcome State Fault Refusal :=
  issueWord (.vfabs x t d a) s fun s => s.vecF1 x t d a FFmt.mag

/-- VFNEG: the sign bit inverted (R369). -/
def execVfneg (x : Ext) (t : FTy) (d a : VOp) (s : State) : Host.Outcome State Fault Refusal :=
  issueWord (.vfneg x t d a) s fun s => s.vecF1 x t d a fun f m => Nat.xor m f.sign

/-- VFCLASS: the class word of each element (R370). -/
def execVfclass (x : Ext) (t : FTy) (d a : VOp) (s : State) : Host.Outcome State Fault Refusal :=
  issueWord (.vfclass x t d a) s fun s => s.vecF1 x t d a FFmt.classWord

/-- VFCMP: an IEEE 754 comparison into a predicate (R371). -/
def execVfcmp (x : Ext) (k : FCond) (d : PReg) (a b : VOp) (s : State) : Host.Outcome State Fault Refusal :=
  issueWord (.vfcmp x k d a b) s fun s =>
    s.cmpWord x d [a, b] fun r l =>
      compare32 k (r.lane (r.vidx x a) l).toNat (r.lane (r.vidx x b) l).toNat

/-! ## MAJ 0x1C (R372, R373) -/

/-- A special function in each active lane (R372). -/
def State.vecSpecial (s : State) (x : Ext) (d a : VOp) (k : Special) : State :=
  s.vecWord x d [a] fun r l => BitVec.ofNat 32 (k.apply (r.lane (r.vidx x a) l).toNat)

/-- VRCP: 1/x, correctly rounded (R372, R373). -/
def execVrcp (x : Ext) (d a : VOp) (s : State) : Host.Outcome State Fault Refusal :=
  issueWord (.vrcp x d a) s fun s => s.vecSpecial x d a .rcp

/-- VRSQ: the reciprocal square root, correctly rounded (R372, R373). -/
def execVrsq (x : Ext) (d a : VOp) (s : State) : Host.Outcome State Fault Refusal :=
  issueWord (.vrsq x d a) s fun s => s.vecSpecial x d a .rsq

/-- VSQRT: the square root, correctly rounded (R372, R373). -/
def execVsqrt (x : Ext) (d a : VOp) (s : State) : Host.Outcome State Fault Refusal :=
  issueWord (.vsqrt x d a) s fun s => s.vecSpecial x d a .sqrt

/-- VEXP2: 2^x, correctly rounded (R372, R373). -/
def execVexp2 (x : Ext) (d a : VOp) (s : State) : Host.Outcome State Fault Refusal :=
  issueWord (.vexp2 x d a) s fun s => s.vecSpecial x d a .exp2

/-- VLOG2: the base-2 logarithm, correctly rounded (R372, R373). -/
def execVlog2 (x : Ext) (d a : VOp) (s : State) : Host.Outcome State Fault Refusal :=
  issueWord (.vlog2 x d a) s fun s => s.vecSpecial x d a .log2

/-- VSIN: the sine, correctly rounded (R372, R373). -/
def execVsin (x : Ext) (d a : VOp) (s : State) : Host.Outcome State Fault Refusal :=
  issueWord (.vsin x d a) s fun s => s.vecSpecial x d a .sin

/-- VCOS: the cosine, correctly rounded (R372, R373). -/
def execVcos (x : Ext) (d a : VOp) (s : State) : Host.Outcome State Fault Refusal :=
  issueWord (.vcos x d a) s fun s => s.vecSpecial x d a .cos

/-- VTANH: the hyperbolic tangent, correctly rounded (R372, R373). -/
def execVtanh (x : Ext) (d a : VOp) (s : State) : Host.Outcome State Fault Refusal :=
  issueWord (.vtanh x d a) s fun s => s.vecSpecial x d a .tanh

end Sys2Proof.Machine
end

