-- ==== Sys2Proof/Machine/Vector.lean ====
section
/-! DEFINITION. The integer words of the vector pipe, MAJ 0x10, 0x11, 0x12 and 0x19 (R364 to
R368). -/

namespace Sys2Proof.Machine

/-- The bits of an element of a vector integer type (R360). -/
def vecWidth : VTy → Nat
  | .i32 | .u32 => 32
  | .i16 => 16
  | .i8 => 8

/-- An element as a number: signed, or unsigned for .u32 (R365). -/
def vecInt (t : VTy) (n : Nat) : Int :=
  match t with
  | .u32 => n
  | .i32 | .i16 | .i8 => (BitVec.ofNat (vecWidth t) n).toInt

/-- A number as an element, wrapping (R365). -/
def vecWrap (t : VTy) (i : Int) : Nat := (i % (2 ^ vecWidth t : Nat)).toNat

/-- An element-wise integer word of two sources (R365). -/
def State.vecInt2 (s : State) (x : Ext) (t : VTy) (d a b : VOp) (f : Nat → Nat → Int) : State :=
  s.vecWord x d [a, b] fun r l =>
    laneElems (vecWidth t) (fun m n _ => vecWrap t (f m n)) (r.lane (r.vidx x a) l)
      (r.lane (r.vidx x b) l) 0

/-- An element-wise integer word of one source (R365, R366). -/
def State.vecInt1 (s : State) (x : Ext) (t : VTy) (d a : VOp) (f : Nat → Int) : State :=
  s.vecWord x d [a] fun r l =>
    laneElems (vecWidth t) (fun m _ _ => vecWrap t (f m)) (r.lane (r.vidx x a) l) 0 0

/-! ## MAJ 0x10 (R365) -/

/-- VADD: a + b (R365). -/
def execVadd (x : Ext) (t : VTy) (d a b : VOp) (s : State) : Host.Outcome State Fault Refusal :=
  issueWord (.vadd x t d a b) s fun s => s.vecInt2 x t d a b fun m n => m + n

/-- VSUB: a - b (R365). -/
def execVsub (x : Ext) (t : VTy) (d a b : VOp) (s : State) : Host.Outcome State Fault Refusal :=
  issueWord (.vsub x t d a b) s fun s => s.vecInt2 x t d a b fun m n => (m : Int) - n

/-- VMUL: the low bits of a x b (R365). -/
def execVmul (x : Ext) (t : VTy) (d a b : VOp) (s : State) : Host.Outcome State Fault Refusal :=
  issueWord (.vmul x t d a b) s fun s => s.vecInt2 x t d a b fun m n => m * n

/-- VMULH: the high bits of the exact product (R365). -/
def execVmulh (x : Ext) (t : VTy) (d a b : VOp) (s : State) : Host.Outcome State Fault Refusal :=
  issueWord (.vmulh x t d a b) s fun s => s.vecInt2 x t d a b fun m n => vecInt t m * vecInt t n / (2 ^ vecWidth t : Nat)

/-- VMAD: the low bits of a x b + c (R365). -/
def execVmad (x : Ext) (t : VTy) (d a b e : VOp) (s : State) : Host.Outcome State Fault Refusal :=
  issueWord (.vmad x t d a b e) s fun s =>
    s.vecWord x d [a, b, e] fun r l =>
      laneElems (vecWidth t) (fun m n k => vecWrap t (m * n + k)) (r.lane (r.vidx x a) l)
        (r.lane (r.vidx x b) l) (r.lane (r.vidx x e) l)

/-- VAND: a AND b (R365). -/
def execVand (x : Ext) (t : VTy) (d a b : VOp) (s : State) : Host.Outcome State Fault Refusal :=
  issueWord (.vand x t d a b) s fun s => s.vecInt2 x t d a b fun m n => Nat.land m n

/-- VOR: a OR b (R365). -/
def execVor (x : Ext) (t : VTy) (d a b : VOp) (s : State) : Host.Outcome State Fault Refusal :=
  issueWord (.vor x t d a b) s fun s => s.vecInt2 x t d a b fun m n => Nat.lor m n

/-- VXOR: a XOR b (R365). -/
def execVxor (x : Ext) (t : VTy) (d a b : VOp) (s : State) : Host.Outcome State Fault Refusal :=
  issueWord (.vxor x t d a b) s fun s => s.vecInt2 x t d a b fun m n => Nat.xor m n

/-- VSHL: a shifted left by b mod w (R365). -/
def execVshl (x : Ext) (t : VTy) (d a b : VOp) (s : State) : Host.Outcome State Fault Refusal :=
  issueWord (.vshl x t d a b) s fun s => s.vecInt2 x t d a b fun m n => m * 2 ^ (n % vecWidth t)

/-- VSHR: a shifted right by b mod w, zeros entering (R365). -/
def execVshr (x : Ext) (t : VTy) (d a b : VOp) (s : State) : Host.Outcome State Fault Refusal :=
  issueWord (.vshr x t d a b) s fun s => s.vecInt2 x t d a b fun m n => m / 2 ^ (n % vecWidth t)

/-- VSRA: a shifted right by b mod w, copies of the top bit entering (R365). -/
def execVsra (x : Ext) (t : VTy) (d a b : VOp) (s : State) : Host.Outcome State Fault Refusal :=
  issueWord (.vsra x t d a b) s fun s => s.vecInt2 x t d a b fun m n => (BitVec.ofNat (vecWidth t) m).toInt / (2 ^ (n % vecWidth t) : Nat)

/-- VMIN: the lesser of a and b (R365). -/
def execVmin (x : Ext) (t : VTy) (d a b : VOp) (s : State) : Host.Outcome State Fault Refusal :=
  issueWord (.vmin x t d a b) s fun s => s.vecInt2 x t d a b fun m n => if vecInt t n < vecInt t m then n else m

/-- VMAX: the greater of a and b (R365). -/
def execVmax (x : Ext) (t : VTy) (d a b : VOp) (s : State) : Host.Outcome State Fault Refusal :=
  issueWord (.vmax x t d a b) s fun s => s.vecInt2 x t d a b fun m n => if vecInt t m < vecInt t n then n else m

/-- VSEL: the lane of vA where the predicate holds, and of vB elsewhere (R365). -/
def execVsel (x : Ext) (d a b : VOp) (n : PReg) (s : State) : Host.Outcome State Fault Refusal :=
  issueWord (.vsel x d a b n) s fun s =>
    s.vecWord x d [a, b] fun r l =>
      if (r.pget n).getLsbD l then r.lane (r.vidx x a) l else r.lane (r.vidx x b) l

/-- VMOV: the active lanes of vA, and the whole of kA (R365). -/
def execVmov (x : Ext) (d a : VOp) (s : State) : Host.Outcome State Fault Refusal :=
  issueWord (.vmov x d a) s fun s =>
    let r := s.rd
    if s.lanes x = 0 then s
    else
      let bad := s.badWords 0 [] [r.vidx x a]
      ((s.vecWord x d [a] fun r l => r.lane (r.vidx x a) l).kput (r.vidx x d)
        (if bad.isEmpty then r.kget (r.vidx x a) else 0)).regFault bad

/-- VABS: the absolute value, wrapping (R365). -/
def execVabs (x : Ext) (t : VTy) (d a : VOp) (s : State) : Host.Outcome State Fault Refusal :=
  issueWord (.vabs x t d a) s fun s => s.vecInt1 x t d a fun m => (vecInt t m).natAbs

/-! ## MAJ 0x11 (R366) -/

/-- VPOPC: the number of set bits of each element (R366). -/
def execVpopc (x : Ext) (t : VTy) (d a : VOp) (s : State) : Host.Outcome State Fault Refusal :=
  issueWord (.vpopc x t d a) s fun s => s.vecInt1 x t d a fun m => popCount (BitVec.ofNat (vecWidth t) m)

/-- VCLZ: the number of zero bits above the highest set bit (R366). -/
def execVclz (x : Ext) (t : VTy) (d a : VOp) (s : State) : Host.Outcome State Fault Refusal :=
  issueWord (.vclz x t d a) s fun s => s.vecInt1 x t d a fun m => leadingZeros (BitVec.ofNat (vecWidth t) m)

/-- VIOTA: each lane's number (R366). -/
def execViota (x : Ext) (d : VOp) (s : State) : Host.Outcome State Fault Refusal :=
  issueWord (.viota x d) s fun s => s.vecWord x d [] fun _ l => BitVec.ofNat 32 l

/-- VBCAST: sA[31:0] in each active lane (R366). -/
def execVbcast (x : Ext) (d : VOp) (a : SReg) (s : State) : Host.Outcome State Fault Refusal :=
  issueWord (.vbcast x d a) s fun s => s.vecWord x d [] fun r _ => (r.sget a).setWidth 32

/-- VEXTR: the lane of vA that sB names, active or not (R366). -/
def execVextr (x : Ext) (d : SReg) (a : VOp) (b : SReg) (s : State) : Host.Outcome State Fault Refusal :=
  issueWord (.vextr x d a b) s fun s =>
    s.warpWord x fun s =>
      let r := s.rd
      let l := (r.sget b).toNat % 32
      let bad := s.badWords (BitVec.twoPow 32 l) [r.vidx x a] []
      (s.modW fun w =>
        w.sset d (if bad.isEmpty then (r.lane (r.vidx x a) l).zeroExtend 64 else 0)).regFault bad

/-! ## MAJ 0x12 and 0x19 (R367, R368) -/

/-- VCMP: a condition of two lanes into a predicate (R367). -/
def execVcmp (x : Ext) (k : Cond) (t : VTy) (d : PReg) (a b : VOp) (s : State) : Host.Outcome State Fault Refusal :=
  issueWord (.vcmp x k t d a b) s fun s =>
    s.cmpWord x d [a, b] fun r l =>
      let m := vecInt t (r.lane (r.vidx x a) l).toNat
      let n := vecInt t (r.lane (r.vidx x b) l).toNat
      condTest k (decide (m < n)) (m == n)

/-- VBFX: a bit field of each lane (R368). -/
def execVbfx (x : Ext) (d a : VOp) (p l : BitVec 5) (sx : Bool) (s : State) : Host.Outcome State Fault Refusal :=
  issueWord (.vbfx x d a p l sx) s fun s =>
    s.vecWord x d [a] fun r i =>
      BitVec.ofInt 32 (bitField (r.lane (r.vidx x a) i).toNat p.toNat (l.toNat + 1) sx)

end Sys2Proof.Machine
end

