-- ==== Sys2Proof/Machine/Dispatch.lean ====
section
/-! DEFINITION. The dispatch of an instruction to its meaning: one arm for each constructor. -/

namespace Sys2Proof.Machine

def exec (i : Instr) (s : State) : Host.Outcome State Fault Refusal :=
  match i with
  | .sadd a1 a2 a3 a4 a5 => Sys2Proof.Machine.execSadd a1 a2 a3 a4 a5 s
  | .ssub a1 a2 a3 a4 a5 => Sys2Proof.Machine.execSsub a1 a2 a3 a4 a5 s
  | .smul a1 a2 a3 a4 a5 => Sys2Proof.Machine.execSmul a1 a2 a3 a4 a5 s
  | .smulh a1 a2 a3 a4 a5 => Sys2Proof.Machine.execSmulh a1 a2 a3 a4 a5 s
  | .sdiv a1 a2 a3 a4 a5 => Sys2Proof.Machine.execSdiv a1 a2 a3 a4 a5 s
  | .srem a1 a2 a3 a4 a5 => Sys2Proof.Machine.execSrem a1 a2 a3 a4 a5 s
  | .sand a1 a2 a3 a4 a5 => Sys2Proof.Machine.execSand a1 a2 a3 a4 a5 s
  | .sor a1 a2 a3 a4 a5 => Sys2Proof.Machine.execSor a1 a2 a3 a4 a5 s
  | .sxor a1 a2 a3 a4 a5 => Sys2Proof.Machine.execSxor a1 a2 a3 a4 a5 s
  | .sshl a1 a2 a3 a4 a5 => Sys2Proof.Machine.execSshl a1 a2 a3 a4 a5 s
  | .sshr a1 a2 a3 a4 a5 => Sys2Proof.Machine.execSshr a1 a2 a3 a4 a5 s
  | .ssra a1 a2 a3 a4 a5 => Sys2Proof.Machine.execSsra a1 a2 a3 a4 a5 s
  | .smin a1 a2 a3 a4 a5 => Sys2Proof.Machine.execSmin a1 a2 a3 a4 a5 s
  | .smax a1 a2 a3 a4 a5 => Sys2Proof.Machine.execSmax a1 a2 a3 a4 a5 s
  | .smad a1 a2 a3 a4 a5 a6 => Sys2Proof.Machine.execSmad a1 a2 a3 a4 a5 a6 s
  | .smov a1 a2 a3 a4 => Sys2Proof.Machine.execSmov a1 a2 a3 a4 s
  | .smovToIx a1 a2 a3 => Sys2Proof.Machine.execSmovToIx a1 a2 a3 s
  | .smovFromIx a1 a2 a3 => Sys2Proof.Machine.execSmovFromIx a1 a2 a3 s
  | .scmp a1 a2 a3 a4 a5 a6 => Sys2Proof.Machine.execScmp a1 a2 a3 a4 a5 a6 s
  | .ssel a1 a2 a3 a4 a5 => Sys2Proof.Machine.execSsel a1 a2 a3 a4 a5 s
  | .spopc a1 a2 a3 => Sys2Proof.Machine.execSpopc a1 a2 a3 s
  | .sclz a1 a2 a3 => Sys2Proof.Machine.execSclz a1 a2 a3 s
  | .scvt a1 a2 a3 a4 a5 a6 => Sys2Proof.Machine.execScvt a1 a2 a3 a4 a5 a6 s
  | .saddi a1 a2 a3 a4 => Sys2Proof.Machine.execSaddi a1 a2 a3 a4 s
  | .sli a1 a2 a3 => Sys2Proof.Machine.execSli a1 a2 a3 s
  | .slih a1 a2 a3 => Sys2Proof.Machine.execSlih a1 a2 a3 s
  | .sbfx a1 a2 a3 a4 a5 a6 => Sys2Proof.Machine.execSbfx a1 a2 a3 a4 a5 a6 s
  | .sbfi a1 a2 a3 a4 a5 => Sys2Proof.Machine.execSbfi a1 a2 a3 a4 a5 s
  | .pand a1 a2 a3 a4 => Sys2Proof.Machine.execPand a1 a2 a3 a4 s
  | .por a1 a2 a3 a4 => Sys2Proof.Machine.execPor a1 a2 a3 a4 s
  | .pxor a1 a2 a3 a4 => Sys2Proof.Machine.execPxor a1 a2 a3 a4 s
  | .pnot a1 a2 a3 => Sys2Proof.Machine.execPnot a1 a2 a3 s
  | .pmov a1 a2 a3 => Sys2Proof.Machine.execPmov a1 a2 a3 s
  | .ppopc a1 a2 a3 => Sys2Proof.Machine.execPpopc a1 a2 a3 s
  | .part a1 a2 => Sys2Proof.Machine.execPart a1 a2 s
  | .vadd a1 a2 a3 a4 a5 => Sys2Proof.Machine.execVadd a1 a2 a3 a4 a5 s
  | .vsub a1 a2 a3 a4 a5 => Sys2Proof.Machine.execVsub a1 a2 a3 a4 a5 s
  | .vmul a1 a2 a3 a4 a5 => Sys2Proof.Machine.execVmul a1 a2 a3 a4 a5 s
  | .vmulh a1 a2 a3 a4 a5 => Sys2Proof.Machine.execVmulh a1 a2 a3 a4 a5 s
  | .vmad a1 a2 a3 a4 a5 a6 => Sys2Proof.Machine.execVmad a1 a2 a3 a4 a5 a6 s
  | .vand a1 a2 a3 a4 a5 => Sys2Proof.Machine.execVand a1 a2 a3 a4 a5 s
  | .vor a1 a2 a3 a4 a5 => Sys2Proof.Machine.execVor a1 a2 a3 a4 a5 s
  | .vxor a1 a2 a3 a4 a5 => Sys2Proof.Machine.execVxor a1 a2 a3 a4 a5 s
  | .vshl a1 a2 a3 a4 a5 => Sys2Proof.Machine.execVshl a1 a2 a3 a4 a5 s
  | .vshr a1 a2 a3 a4 a5 => Sys2Proof.Machine.execVshr a1 a2 a3 a4 a5 s
  | .vsra a1 a2 a3 a4 a5 => Sys2Proof.Machine.execVsra a1 a2 a3 a4 a5 s
  | .vmin a1 a2 a3 a4 a5 => Sys2Proof.Machine.execVmin a1 a2 a3 a4 a5 s
  | .vmax a1 a2 a3 a4 a5 => Sys2Proof.Machine.execVmax a1 a2 a3 a4 a5 s
  | .vsel a1 a2 a3 a4 a5 => Sys2Proof.Machine.execVsel a1 a2 a3 a4 a5 s
  | .vmov a1 a2 a3 => Sys2Proof.Machine.execVmov a1 a2 a3 s
  | .vabs a1 a2 a3 a4 => Sys2Proof.Machine.execVabs a1 a2 a3 a4 s
  | .vpopc a1 a2 a3 a4 => Sys2Proof.Machine.execVpopc a1 a2 a3 a4 s
  | .vclz a1 a2 a3 a4 => Sys2Proof.Machine.execVclz a1 a2 a3 a4 s
  | .viota a1 a2 => Sys2Proof.Machine.execViota a1 a2 s
  | .vbcast a1 a2 a3 => Sys2Proof.Machine.execVbcast a1 a2 a3 s
  | .vextr a1 a2 a3 a4 => Sys2Proof.Machine.execVextr a1 a2 a3 a4 s
  | .vcmp a1 a2 a3 a4 a5 a6 => Sys2Proof.Machine.execVcmp a1 a2 a3 a4 a5 a6 s
  | .vfadd a1 a2 a3 a4 a5 => Sys2Proof.Machine.execVfadd a1 a2 a3 a4 a5 s
  | .vfsub a1 a2 a3 a4 a5 => Sys2Proof.Machine.execVfsub a1 a2 a3 a4 a5 s
  | .vfmul a1 a2 a3 a4 a5 => Sys2Proof.Machine.execVfmul a1 a2 a3 a4 a5 s
  | .vfma a1 a2 a3 a4 a5 a6 => Sys2Proof.Machine.execVfma a1 a2 a3 a4 a5 a6 s
  | .vfms a1 a2 a3 a4 a5 a6 => Sys2Proof.Machine.execVfms a1 a2 a3 a4 a5 a6 s
  | .vfmin a1 a2 a3 a4 a5 => Sys2Proof.Machine.execVfmin a1 a2 a3 a4 a5 s
  | .vfmax a1 a2 a3 a4 a5 => Sys2Proof.Machine.execVfmax a1 a2 a3 a4 a5 s
  | .vfabs a1 a2 a3 a4 => Sys2Proof.Machine.execVfabs a1 a2 a3 a4 s
  | .vfneg a1 a2 a3 a4 => Sys2Proof.Machine.execVfneg a1 a2 a3 a4 s
  | .vfclass a1 a2 a3 a4 => Sys2Proof.Machine.execVfclass a1 a2 a3 a4 s
  | .vfcmp a1 a2 a3 a4 a5 => Sys2Proof.Machine.execVfcmp a1 a2 a3 a4 a5 s
  | .vcvt a1 a2 a3 a4 a5 a6 => Sys2Proof.Machine.execVcvt a1 a2 a3 a4 a5 a6 s
  | .vpack a1 a2 a3 a4 a5 a6 => Sys2Proof.Machine.execVpack a1 a2 a3 a4 a5 a6 s
  | .vunpack a1 a2 a3 a4 a5 => Sys2Proof.Machine.execVunpack a1 a2 a3 a4 a5 s
  | .kmov a1 a2 a3 => Sys2Proof.Machine.execKmov a1 a2 a3 s
  | .kset a1 a2 a3 => Sys2Proof.Machine.execKset a1 a2 a3 s
  | .kget a1 a2 a3 => Sys2Proof.Machine.execKget a1 a2 a3 s
  | .kamax a1 a2 a3 a4 => Sys2Proof.Machine.execKamax a1 a2 a3 a4 s
  | .vshfl a1 a2 a3 a4 => Sys2Proof.Machine.execVshfl a1 a2 a3 a4 s
  | .vshflup a1 a2 a3 a4 => Sys2Proof.Machine.execVshflup a1 a2 a3 a4 s
  | .vshfldn a1 a2 a3 a4 => Sys2Proof.Machine.execVshfldn a1 a2 a3 a4 s
  | .vshflx a1 a2 a3 a4 => Sys2Proof.Machine.execVshflx a1 a2 a3 a4 s
  | .vvote a1 a2 a3 a4 => Sys2Proof.Machine.execVvote a1 a2 a3 a4 s
  | .vred a1 a2 a3 a4 a5 => Sys2Proof.Machine.execVred a1 a2 a3 a4 a5 s
  | .vscan a1 a2 a3 a4 a5 a6 => Sys2Proof.Machine.execVscan a1 a2 a3 a4 a5 a6 s
  | .vrand a1 a2 a3 => Sys2Proof.Machine.execVrand a1 a2 a3 s
  | .vbfx a1 a2 a3 a4 a5 a6 => Sys2Proof.Machine.execVbfx a1 a2 a3 a4 a5 a6 s
  | .vrcp a1 a2 a3 => Sys2Proof.Machine.execVrcp a1 a2 a3 s
  | .vrsq a1 a2 a3 => Sys2Proof.Machine.execVrsq a1 a2 a3 s
  | .vsqrt a1 a2 a3 => Sys2Proof.Machine.execVsqrt a1 a2 a3 s
  | .vexp2 a1 a2 a3 => Sys2Proof.Machine.execVexp2 a1 a2 a3 s
  | .vlog2 a1 a2 a3 => Sys2Proof.Machine.execVlog2 a1 a2 a3 s
  | .vsin a1 a2 a3 => Sys2Proof.Machine.execVsin a1 a2 a3 s
  | .vcos a1 a2 a3 => Sys2Proof.Machine.execVcos a1 a2 a3 s
  | .vtanh a1 a2 a3 => Sys2Proof.Machine.execVtanh a1 a2 a3 s
  | .ld a1 a2 a3 a4 a5 a6 a7 a8 => Sys2Proof.Machine.execLd a1 a2 a3 a4 a5 a6 a7 a8 s
  | .st a1 a2 a3 a4 a5 a6 a7 => Sys2Proof.Machine.execSt a1 a2 a3 a4 a5 a6 a7 s
  | .vld a1 a2 a3 a4 a5 a6 a7 a8 => Sys2Proof.Machine.execVld a1 a2 a3 a4 a5 a6 a7 a8 s
  | .vst a1 a2 a3 a4 a5 a6 a7 => Sys2Proof.Machine.execVst a1 a2 a3 a4 a5 a6 a7 s
  | .vldg a1 a2 a3 a4 a5 a6 a7 a8 a9 => Sys2Proof.Machine.execVldg a1 a2 a3 a4 a5 a6 a7 a8 a9 s
  | .vsts a1 a2 a3 a4 a5 a6 a7 a8 => Sys2Proof.Machine.execVsts a1 a2 a3 a4 a5 a6 a7 a8 s
  | .vldmx a1 a2 a3 a4 a5 a6 a7 a8 => Sys2Proof.Machine.execVldmx a1 a2 a3 a4 a5 a6 a7 a8 s
  | .vstmx a1 a2 a3 a4 a5 a6 a7 => Sys2Proof.Machine.execVstmx a1 a2 a3 a4 a5 a6 a7 s
  | .atom a1 a2 a3 a4 a5 a6 a7 a8 a9 a10 => Sys2Proof.Machine.execAtom a1 a2 a3 a4 a5 a6 a7 a8 a9 a10 s
  | .vatom a1 a2 a3 a4 a5 a6 a7 a8 a9 a10 => Sys2Proof.Machine.execVatom a1 a2 a3 a4 a5 a6 a7 a8 a9 a10 s
  | .fence a1 a2 => Sys2Proof.Machine.execFence a1 a2 s
  | .wait a1 a2 a3 a4 a5 => Sys2Proof.Machine.execWait a1 a2 a3 a4 a5 s
  | .mwatch a1 a2 a3 a4 a5 => Sys2Proof.Machine.execMwatch a1 a2 a3 a4 a5 s
  | .mwait a1 => Sys2Proof.Machine.execMwait a1 s
  | .pgreq a1 a2 a3 => Sys2Proof.Machine.execPgreq a1 a2 a3 s
  | .pgpref a1 a2 a3 => Sys2Proof.Machine.execPgpref a1 a2 a3 s
  | .oflush a1 => Sys2Proof.Machine.execOflush a1 s
  | .itset a1 a2 a3 => Sys2Proof.Machine.execItset a1 a2 a3 s
  | .tdef a1 a2 a3 a4 a5 a6 => Sys2Proof.Machine.execTdef a1 a2 a3 a4 a5 a6 s
  | .tfree a1 a2 => Sys2Proof.Machine.execTfree a1 a2 s
  | .tstat a1 a2 a3 => Sys2Proof.Machine.execTstat a1 a2 a3 s
  | .cpy a1 a2 a3 => Sys2Proof.Machine.execCpy a1 a2 a3 s
  | .cpyt a1 a2 a3 => Sys2Proof.Machine.execCpyt a1 a2 a3 s
  | .cpym a1 a2 a3 => Sys2Proof.Machine.execCpym a1 a2 a3 s
  | .ldw a1 a2 a3 => Sys2Proof.Machine.execLdw a1 a2 a3 s
  | .swpw a1 a2 => Sys2Proof.Machine.execSwpw a1 a2 s
  | .mmq a1 a2 a3 a4 a5 => Sys2Proof.Machine.execMmq a1 a2 a3 a4 a5 s
  | .mmqTile a1 a2 a3 a4 a5 => Sys2Proof.Machine.execMmqTile a1 a2 a3 a4 a5 s
  | .mmqt a1 a2 a3 a4 a5 => Sys2Proof.Machine.execMmqt a1 a2 a3 a4 a5 s
  | .mmqtTile a1 a2 a3 a4 a5 => Sys2Proof.Machine.execMmqtTile a1 a2 a3 a4 a5 s
  | .mclr a1 a2 => Sys2Proof.Machine.execMclr a1 a2 s
  | .mdrn a1 a2 a3 a4 => Sys2Proof.Machine.execMdrn a1 a2 a3 a4 s
  | .mdrnt a1 a2 a3 a4 => Sys2Proof.Machine.execMdrnt a1 a2 a3 a4 s
  | .msav a1 a2 a3 => Sys2Proof.Machine.execMsav a1 a2 a3 s
  | .mrst a1 a2 a3 => Sys2Proof.Machine.execMrst a1 a2 a3 s
  | .mstat a1 a2 a3 => Sys2Proof.Machine.execMstat a1 a2 a3 s
  | .rq a1 a2 a3 a4 => Sys2Proof.Machine.execRq a1 a2 a3 a4 s
  | .rqVector a1 a2 a3 a4 => Sys2Proof.Machine.execRqVector a1 a2 a3 a4 s
  | .rqs a1 a2 a3 a4 a5 => Sys2Proof.Machine.execRqs a1 a2 a3 a4 a5 s
  | .rqsVector a1 a2 a3 a4 a5 => Sys2Proof.Machine.execRqsVector a1 a2 a3 a4 a5 s
  | .barv a1 a2 a3 => Sys2Proof.Machine.execBarv a1 a2 a3 s
  | .barw a1 a2 a3 => Sys2Proof.Machine.execBarw a1 a2 a3 s
  | .barm a1 a2 a3 a4 => Sys2Proof.Machine.execBarm a1 a2 a3 a4 s
  | .fetchw a1 a2 => Sys2Proof.Machine.execFetchw a1 a2 s
  | .reedf a1 => Sys2Proof.Machine.execReedf a1 s
  | .br a1 a2 => Sys2Proof.Machine.execBr a1 a2 s
  | .bra a1 a2 => Sys2Proof.Machine.execBra a1 a2 s
  | .call a1 a2 a3 => Sys2Proof.Machine.execCall a1 a2 a3 s
  | .brv a1 a2 => Sys2Proof.Machine.execBrv a1 a2 s
  | .mif a1 a2 => Sys2Proof.Machine.execMif a1 a2 s
  | .melse a1 a2 => Sys2Proof.Machine.execMelse a1 a2 s
  | .mend a1 => Sys2Proof.Machine.execMend a1 s
  | .mloop a1 a2 => Sys2Proof.Machine.execMloop a1 a2 s
  | .mbrk a1 a2 => Sys2Proof.Machine.execMbrk a1 a2 s
  | .mcont a1 a2 => Sys2Proof.Machine.execMcont a1 a2 s
  | .nop a1 => Sys2Proof.Machine.execNop a1 s
  | .ret a1 a2 => Sys2Proof.Machine.execRet a1 a2 s
  | .jmpi a1 a2 => Sys2Proof.Machine.execJmpi a1 a2 s
  | .yield a1 => Sys2Proof.Machine.execYield a1 s
  | .exit a1 => Sys2Proof.Machine.execExit a1 s
  | .region a1 => Sys2Proof.Machine.execRegion a1 s
  | .trap a1 a2 => Sys2Proof.Machine.execTrap a1 a2 s
  | .tfence a1 a2 => Sys2Proof.Machine.execTfence a1 a2 s
  | .ofence a1 => Sys2Proof.Machine.execOfence a1 s
  | .efence a1 => Sys2Proof.Machine.execEfence a1 s
  | .tlbinv a1 a2 => Sys2Proof.Machine.execTlbinv a1 a2 s
  | .srd a1 a2 a3 => Sys2Proof.Machine.execSrd a1 a2 a3 s
  | .swr a1 a2 a3 => Sys2Proof.Machine.execSwr a1 a2 a3 s
  | .tret a1 => Sys2Proof.Machine.execTret a1 s
  | .clobusoNop a1 a2 => Sys2Proof.Machine.execClobusoNop a1 a2 s
  | .launch a1 a2 => Sys2Proof.Machine.execLaunch a1 a2 s
  | .launchi a1 a2 => Sys2Proof.Machine.execLaunchi a1 a2 s
  | .cIf a1 a2 => Sys2Proof.Machine.execCIf a1 a2 s
  | .cElse a1 a2 => Sys2Proof.Machine.execCElse a1 a2 s
  | .cEndif a1 a2 => Sys2Proof.Machine.execCEndif a1 a2 s
  | .cLoop a1 a2 => Sys2Proof.Machine.execCLoop a1 a2 s
  | .cEndloop a1 a2 => Sys2Proof.Machine.execCEndloop a1 a2 s
  | .waitv a1 a2 => Sys2Proof.Machine.execWaitv a1 a2 s
  | .waitvRead a1 a2 => Sys2Proof.Machine.execWaitvRead a1 a2 s
  | .signal a1 a2 => Sys2Proof.Machine.execSignal a1 a2 s
  | .clobusoFence a1 a2 => Sys2Proof.Machine.execClobusoFence a1 a2 s
  | .coll a1 a2 => Sys2Proof.Machine.execColl a1 a2 s
  | .cOpen a1 a2 => Sys2Proof.Machine.execCOpen a1 a2 s
  | .commit a1 a2 => Sys2Proof.Machine.execCommit a1 a2 s
  | .abort a1 a2 => Sys2Proof.Machine.execAbort a1 a2 s
  | .page a1 a2 => Sys2Proof.Machine.execPage a1 a2 s
  | .launchComplete a1 => Sys2Proof.Machine.execLaunchComplete a1 s
  | .powerUp => Sys2Proof.Machine.execPowerUp s
  | .quoteDone a1 => Sys2Proof.Machine.execQuoteDone a1 s
  | .l2wbDone a1 => Sys2Proof.Machine.execL2wbDone a1 s
  | .wptrPublish a1 => Sys2Proof.Machine.execWptrPublish a1 s
  | .beamLinkDown => Sys2Proof.Machine.execBeamLinkDown s
  | .flitRetry => Sys2Proof.Machine.execFlitRetry s
  | .autoDoze a1 => Sys2Proof.Machine.execAutoDoze a1 s
  | .plyStateEntry a1 => Sys2Proof.Machine.execPlyStateEntry a1 s
  | .dozeWake a1 => Sys2Proof.Machine.execDozeWake a1 s
  | .listenerLock a1 => Sys2Proof.Machine.execListenerLock a1 s
  | .logReplay a1 => Sys2Proof.Machine.execLogReplay a1 s
  | .mirrorCopy a1 => Sys2Proof.Machine.execMirrorCopy a1 s
  | .patrolScrub a1 => Sys2Proof.Machine.execPatrolScrub a1 s
  | .dentPass a1 => Sys2Proof.Machine.execDentPass a1 s
  | .dentApply a1 => Sys2Proof.Machine.execDentApply a1 s
  | .regionClear a1 a2 => Sys2Proof.Machine.execRegionClear a1 a2 s
  | .slotAllocation a1 => Sys2Proof.Machine.execSlotAllocation a1 s
  | .slotReturn a1 => Sys2Proof.Machine.execSlotReturn a1 s
  | .collComplete a1 a2 => Sys2Proof.Machine.execCollComplete a1 a2 s
  | .boltPlacement a1 => Sys2Proof.Machine.execBoltPlacement a1 s
  | .starving a1 => Sys2Proof.Machine.execStarving a1 s
  | .priorityPreemption a1 => Sys2Proof.Machine.execPriorityPreemption a1 s
  | .boltSave a1 => Sys2Proof.Machine.execBoltSave a1 s
  | .boltRestore a1 => Sys2Proof.Machine.execBoltRestore a1 s
  | .savedMwaddrRead a1 => Sys2Proof.Machine.execSavedMwaddrRead a1 s
  | .fetchwAnswer a1 => Sys2Proof.Machine.execFetchwAnswer a1 s
  | .boltRetire a1 => Sys2Proof.Machine.execBoltRetire a1 s
  | .idemRelaunch a1 => Sys2Proof.Machine.execIdemRelaunch a1 s
  | .warpSwap a1 => Sys2Proof.Machine.execWarpSwap a1 s
  | .swapThreshold a1 => Sys2Proof.Machine.execSwapThreshold a1 s
  | .starveSwap a1 => Sys2Proof.Machine.execStarveSwap a1 s
  | .activeSetFill a1 => Sys2Proof.Machine.execActiveSetFill a1 s
  | .warpSlotFree a1 => Sys2Proof.Machine.execWarpSlotFree a1 s
  | .trapTaken a1 => Sys2Proof.Machine.execTrapTaken a1 s
  | .loomGrant a1 a2 => Sys2Proof.Machine.execLoomGrant a1 a2 s
  | .loomRequestAging a1 a2 => Sys2Proof.Machine.execLoomRequestAging a1 a2 s
  | .loomPassFinish a1 a2 => Sys2Proof.Machine.execLoomPassFinish a1 a2 s
  | .loomRequestFinish a1 a2 => Sys2Proof.Machine.execLoomRequestFinish a1 a2 s
  | .copyStart a1 => Sys2Proof.Machine.execCopyStart a1 s
  | .copyUnitWrite a1 => Sys2Proof.Machine.execCopyUnitWrite a1 s
  | .copyComplete a1 => Sys2Proof.Machine.execCopyComplete a1 s
  | .loadReturn a1 a2 => Sys2Proof.Machine.execLoadReturn a1 a2 s
  | .registrationComplete a1 a2 => Sys2Proof.Machine.execRegistrationComplete a1 a2 s
  | .atomicPerform a1 a2 => Sys2Proof.Machine.execAtomicPerform a1 a2 s
  | .epochFlush a1 => Sys2Proof.Machine.execEpochFlush a1 s
  | .sweepComplete a1 => Sys2Proof.Machine.execSweepComplete a1 s
  | .requestReturn a1 => Sys2Proof.Machine.execRequestReturn a1 s
  | .tlbinvRemoval a1 => Sys2Proof.Machine.execTlbinvRemoval a1 s
  | .pgreqPost a1 => Sys2Proof.Machine.execPgreqPost a1 s
  | .mwaitReread a1 => Sys2Proof.Machine.execMwaitReread a1 s
  | .powerRemoval => Sys2Proof.Machine.execPowerRemoval s
  | .illegalInstruction a1 => Sys2Proof.Machine.execIllegalInstruction a1 s
  | .illegalPacket a1 => Sys2Proof.Machine.execIllegalPacket a1 s
  | .instructionFetch a1 => Sys2Proof.Machine.execInstructionFetch a1 s
  | .registerWrite a1 => Sys2Proof.Machine.execRegisterWrite a1 s
  | .partitionWrite a1 => Sys2Proof.Machine.execPartitionWrite a1 s
  | .ctxTailWrite a1 => Sys2Proof.Machine.execCtxTailWrite a1 s
  | .ctxHeadWrite a1 => Sys2Proof.Machine.execCtxHeadWrite a1 s
  | .ctxBindEnable a1 => Sys2Proof.Machine.execCtxBindEnable a1 s
  | .ctxBindDisable a1 => Sys2Proof.Machine.execCtxBindDisable a1 s
  | .plyReqRun a1 => Sys2Proof.Machine.execPlyReqRun a1 s
  | .plyReqDoze a1 => Sys2Proof.Machine.execPlyReqDoze a1 s
  | .plyReqSleep a1 => Sys2Proof.Machine.execPlyReqSleep a1 s
  | .bootColdStart a1 => Sys2Proof.Machine.execBootColdStart a1 s
  | .bootWarmStart a1 => Sys2Proof.Machine.execBootWarmStart a1 s
  | .fundamentalReset a1 => Sys2Proof.Machine.execFundamentalReset a1 s
  | .bootReady a1 => Sys2Proof.Machine.execBootReady a1 s
  | .flashWindowWrite a1 => Sys2Proof.Machine.execFlashWindowWrite a1 s
  | .attestRequest a1 => Sys2Proof.Machine.execAttestRequest a1 s
  | .l2wbStart a1 => Sys2Proof.Machine.execL2wbStart a1 s
  | .preemptSave a1 => Sys2Proof.Machine.execPreemptSave a1 s
  | .preemptKill a1 => Sys2Proof.Machine.execPreemptKill a1 s
  | .preemptRelease a1 => Sys2Proof.Machine.execPreemptRelease a1 s
  | .traceEnable a1 => Sys2Proof.Machine.execTraceEnable a1 s
  | .traceDisable a1 => Sys2Proof.Machine.execTraceDisable a1 s
  | .counterClear a1 => Sys2Proof.Machine.execCounterClear a1 s
  | .counterLatchRead a1 => Sys2Proof.Machine.execCounterLatchRead a1 s
  | .bar4Access a1 => Sys2Proof.Machine.execBar4Access a1 s
  | .ualDown a1 => Sys2Proof.Machine.execUalDown a1 s
  | .inboundRemoteAccess a1 => Sys2Proof.Machine.execInboundRemoteAccess a1 s
  | .remoteTimeout a1 => Sys2Proof.Machine.execRemoteTimeout a1 s
  | .clockStepDown a1 => Sys2Proof.Machine.execClockStepDown a1 s
  | .heatPublish a1 => Sys2Proof.Machine.execHeatPublish a1 s
  | .contributionArrival a1 a2 => Sys2Proof.Machine.execContributionArrival a1 a2 s
  | .collTimeout a1 a2 a3 => Sys2Proof.Machine.execCollTimeout a1 a2 a3 s
  | .softError a1 => Sys2Proof.Machine.execSoftError a1 s
  | .cpHalt a1 => Sys2Proof.Machine.execCpHalt a1 s
  | .clockStepUp a1 => Sys2Proof.Machine.execClockStepUp a1 s
  | .portLinkChange a1 a2 => Sys2Proof.Machine.execPortLinkChange a1 a2 s
  | .remoteAcknowledge a1 => Sys2Proof.Machine.execRemoteAcknowledge a1 s
  | .resizableBarSet a1 a2 => Sys2Proof.Machine.execResizableBarSet a1 a2 s

end Sys2Proof.Machine
end

