-- ==== Sys2Proof/Machine/Run.lean ====
section
/-! DEFINITION. How an issue group that has been fetched runs: a group of one word is the meaning of that
word, and a warp whose group is held is passed over. -/

namespace Sys2Proof.Machine

/-- Whether an instruction is a word of a program, or the trap of one, which only a warp that issues
brings about (R151, R309, R321). [DESIGN CHOICE, log 6] -/
def isWord (i : Instr) : Bool :=
  (fields i).isSome ||
    match i with
    | .illegalInstruction _ | .illegalPacket _ => true
    | _ => false

/-- Run the words of a group, each on the warp as it stood before the group (R151). -/
def runWords : List GWord → Nat → State → State
  | [], _, s => s
  | g :: gs, pos, s =>
    let s := { s with issue := { s.issue with word := g.word, pos := pos } }.tick
    match exec g.instr s with
    | .next s => runWords gs (pos + g.size) s
    | .fault _ => runWords gs (pos + g.size) s
    | .refused _ => runWords gs (pos + g.size) s

/-- Issue what a warp's next word begins: a group of one word is the meaning of that word. -/
def issueFormed : Formed × State → Host.Outcome State Fault Refusal
  | (.fault e, s) => .next (s.precise e.cause s.issue.pc 0 true e.late)
  | (.packet word, s) => exec (.illegalPacket word) s
  | (.group [g], s) => exec g.instr { s with issue := { s.issue with word := g.word } }
  | (.group gs, s) => .next (s.issueGroup gs (runWords gs 0))

/-- Try the warps in order until one issues or traps; a warp whose group is held is passed over
(R141, R147). -/
def issueTry : List Nat → State → Host.Outcome State Fault Refusal
  | [], s => .next s
  | wid :: wids, s =>
    match issueFormed (s.focus wid).form with
    | .next t => if t.issue.retry.isSome then issueTry wids t else .next t
    | .fault f => .fault f
    | .refused r => .refused r

end Sys2Proof.Machine
end

