-- ==== Sys2Proof/Machine/Step.lean ====
section
/-! DEFINITION. The step of the machine.  A step takes the head of the agenda, the model's schedule of
what the world and the machine's own engines do; with an empty agenda the warps and the internal
events take turns, each event that is possible once in every round (R138). -/

namespace Sys2Proof.Machine

/-- One step. [DESIGN CHOICE, log 6] -/
def step (s : State) : Host.Outcome State Fault Refusal :=
  match s.agenda with
  | i :: is =>
    if isWord i then .fault .agendaWord else exec i { s with agenda := is, time := s.time + 1 }
  | [] =>
    match s.turn, s.events with
    | .events, i :: is => exec i { s with turn := .issue, round := is, time := s.time + 1 }
    | _, _ => issueTry s.issueOrder { s with turn := .events, time := s.time + 1 }

/-- A state whose next step fetches and runs an instruction. -/
def State.withFetchWord (s : State) (nbits w : Nat) : State :=
  s.storeNext (leBytes 12 (w % 2 ^ nbits))

end Sys2Proof.Machine
end

