-- ==== Sys2Proof/Safety.lean ====
section
/-! DEFINITION. What counts as a safe state and a safe run: memories in their canonical form, the
hard-wired registers as R312 says, and a step that answers a next state. -/

namespace Sys2Proof.Machine

/-- A warp whose hard-wired registers read as R312 says. -/
def Warp.hardwired (w : Warp) : Bool := w.regs.p[0] == BitVec.allOnes 32 && w.regs.s[0] == 0

/-- Every memory of a state is in its canonical form. -/
def State.memWf (s : State) : Bool :=
  Memory.wf s.mem && Memory.wf s.vault && Memory.wf s.flash &&
    s.groups.all (fun g => Memory.wf g.scratch) &&
    s.bolts.all (fun b => b.gone.all fun g => Memory.wf g.scratch) &&
    s.plies.toList.all fun p => Memory.wf p.mirror

/-- A state in which nothing has gone wrong. -/
def State.safe (s : State) : Bool := s.memWf && s.w.hardwired && s.rest.all Warp.hardwired

/-- Whether the machine makes `n` steps from a state, and each state on the way is safe. -/
def runSafe : Nat → State → Bool
  | 0, s => s.safe
  | n + 1, s =>
    s.safe &&
      match step s with
      | .next t => runSafe n t
      | .fault _ => false
      | .refused _ => false

end Sys2Proof.Machine
end

