-- ==== Sys2Proof/Certificates/Slice0/Obligations.lean ====
section
/-! DEFINITION. The statements for the provers.  A statement about a word is made for a state `s` in
which an issue group takes effect: `s.issue.snap = some w` says that the words of the group read the
warp `w` as it stood before the group (R151), and `s.w` is the warp that they write.  A statement
whose conclusion is an equation of states says in full what the word changes and that it changes
nothing else. -/

namespace Sys2Proof.Claim

open Sys2Proof.Machine

/-! ## Writing registers (R312, R313, R361) -/

/-- `s` with `v` in scalar register `d`, where some lane of `g` acts; s0 discards the write. -/
def setS (s : State) (g : Lanes) (d : SReg) (v : Word64) : State :=
  if g = 0 ∨ d = 0 then s
  else { s with w := { s.w with regs := { s.w.regs with s := s.w.regs.s.set d.toNat v } } }

/-- `s` with the lanes `m` of `v` in predicate `d`, where some lane of `g` acts; p0 discards the
write. -/
def setP (s : State) (g m : Lanes) (d : PReg) (v : Lanes) : State :=
  if g = 0 ∨ d = 0 then s
  else
    { s with w := { s.w with regs := { s.w.regs with
        p := s.w.regs.p.set d.toNat ((s.w.regs.p[d.toNat] &&& ~~~m) ||| (v &&& m)) } } }

/-- `s` with `f l` in every lane `l` of `g` of vector register `i`; the other lanes keep all their
bits. -/
def setV (s : State) (i : Nat) (g : Lanes) (f : Nat → Word32) : State :=
  { s with w := { s.w with regs := { s.w.regs with
      v := s.w.regs.v.setIfInBounds i
        (Vector.ofFn fun l => if g.getLsbD l.val then f l.val else s.w.lane i l.val) } } }

/-- `s` with `v` in scale register `i`, where some lane of `g` acts. -/
def setK (s : State) (g : Lanes) (i : Nat) (v : Word64) : State :=
  if g = 0 then s
  else { s with w := { s.w with regs := { s.w.regs with k := s.w.regs.k.setIfInBounds i v } } }

/-! ## Scalar numbers (R330) -/

/-- The width of a scalar type. -/
def width : STy → Nat
  | .i64 => 64
  | .i32 | .u32 => 32

/-- A source as a number of its type. -/
def num (t : STy) (v : Word64) : Int :=
  match t with
  | .i64 => v.toInt
  | .i32 => (v.setWidth 32).toInt
  | .u32 => (v.setWidth 32).toNat

/-- The low bits of a result as a register holds them: extended by their sign for .i32, and by zeros
for .u32. -/
def ext (t : STy) (r : Int) : Word64 :=
  match t with
  | .i64 => BitVec.ofInt 64 r
  | .i32 => (BitVec.ofInt 32 r).signExtend 64
  | .u32 => (BitVec.ofInt 32 r).zeroExtend 64

/-- A source with two's complement reading in its width, whatever its type. -/
def signedNum (t : STy) (v : Word64) : Int :=
  match t with
  | .i64 => v.toInt
  | .i32 | .u32 => (v.setWidth 32).toInt

/-- A comparison of two numbers. -/
def compares (k : Cond) (a b : Int) : Bool :=
  match k with
  | .eq => decide (a = b)
  | .ne => decide (a ≠ b)
  | .lt => decide (a < b)
  | .le => decide (a ≤ b)
  | .gt => decide (b < a)
  | .ge => decide (b ≤ a)

/-- How many of the low `n` bits of a number are set. -/
def setBits (n v : Nat) : Nat := (List.range n).countP fun i => v / 2 ^ i % 2 == 1

/-- How many of `n` bits lie above the highest set bit of a number. -/
def zerosAbove (n v : Nat) : Nat := (List.range n).countP fun i => decide (v < 2 ^ i)

/-! ## Vector elements (R360) -/

/-- The bits of an element. -/
def eltBits : VTy → Nat
  | .i32 | .u32 => 32
  | .i16 => 16
  | .i8 => 8

/-- Element `h` of a lane, unsigned. -/
def elt (bits : Nat) (v : Word32) (h : Nat) : Nat := v.toNat / 2 ^ (bits * h) % 2 ^ bits

/-- Element `h` of a lane as a number of its type. -/
def eltNum (t : VTy) (v : Word32) (h : Nat) : Int :=
  let n := elt (eltBits t) v h
  if t = .u32 ∨ n < 2 ^ (eltBits t - 1) then n else (n : Int) - (2 ^ eltBits t : Nat)

/-- A lane whose element `h` is the low bits of `r h`. -/
def ofElts (bits : Nat) (r : Nat → Int) : Word32 :=
  BitVec.ofNat 32
    ((List.range (32 / bits)).map fun h => (r h % (2 ^ bits : Nat)).toNat * 2 ^ (bits * h)).sum

/-- The codes `c 0` to `c (n - 1)`, each of `bits` bits, side by side with the first lowest (R193). -/
def packed (bits n : Nat) (c : Nat → Nat) : Nat :=
  ((List.range n).map fun i => c i % 2 ^ bits * 2 ^ (bits * i)).sum

/-- The 32 lanes of vector register `i` as a bit string, byte b of R363 at bits [8b + 7 : 8b]. -/
def imageOf (w : Warp) (i : Nat) : Nat := packed 32 32 fun l => (w.lane i l).toNat

/-- Lane `l` of a register image. -/
def imageLane (m l : Nat) : Word32 := BitVec.ofNat 32 (m / 2 ^ (32 * l) % 2 ^ 32)

/-- The 32 values of a source register that are folded into a block: +0.0 outside `g` (R377). -/
def blockValues (w : Warp) (i : Nat) (g : Lanes) : List Nat :=
  (List.range 32).map fun l => if g.getLsbD l then (w.lane i l).toNat else 0

/-! ## Tiles of lanes (R383, R292) -/

/-- The tile size of the partition register. -/
def tileSize (w : Warp) : Nat := 2 ^ w.ctl.part.code

/-- The first lane of the tile of a lane. -/
def tileStart (w : Warp) (l : Nat) : Nat := l - l % tileSize w

/-- The node of a tree over 2^k leaves from leaf `i`. -/
def treeNode (op : Nat → Nat → Nat) (leaf : Nat → Nat) : Nat → Nat → Nat
  | 0, i => leaf i
  | k + 1, i => op (treeNode op leaf k i) (treeNode op leaf k (i + 2 ^ k))

/-- The aligned blocks that the low `k` binary digits of `n` name from position `pos` on, combined from
the left with what has been combined before. -/
def treeBlocks (op : Nat → Nat → Nat) (leaf : Nat → Nat) (n : Nat) :
    Nat → Nat → Option Nat → Option Nat
  | 0, _, acc => acc
  | k + 1, pos, acc =>
    if n / 2 ^ k % 2 = 1 then
      let b := treeNode op leaf k pos
      treeBlocks op leaf n k (pos + 2 ^ k) (some (acc.elim b fun a => op a b))
    else treeBlocks op leaf n k pos acc

/-- The operators of VRED and VSCAN on lanes: two's complement for .i32, unsigned for .u32, and the
FP32 operations of VFADD, VFMIN and VFMAX. -/
def treeOp (t : RTy) (o : ROp) (a b : Nat) : Nat :=
  match t, o with
  | .f32, .add => fp32.add a b
  | .f32, .min => fp32.fmin a b
  | .f32, .max => fp32.fmax a b
  | _, .add => (a + b) % 2 ^ 32
  | .u32, .min => min a b
  | .u32, .max => max a b
  | _, .min => if (BitVec.ofNat 32 b).slt (BitVec.ofNat 32 a) then b else a
  | _, .max => if (BitVec.ofNat 32 a).slt (BitVec.ofNat 32 b) then b else a
  | _, .andB => Nat.land a b
  | _, .orB => Nat.lor a b
  | _, .xorB => Nat.xor a b

/-- The identities of the operators (R292). -/
def treeUnit (t : RTy) (o : ROp) : Nat :=
  match t, o with
  | .f32, .add => 0x80000000
  | .f32, .min => 0x7F800000
  | .f32, .max => 0xFF800000
  | .i32, .min => 0x7FFFFFFF
  | .i32, .max => 0x80000000
  | .u32, .min => 0xFFFFFFFF
  | _, .andB => 0xFFFFFFFF
  | _, _ => 0

/-! ## Control (R344, R349) -/

/-- `s` with the warp's next group at a target. -/
def goTo (s : State) (a : Word64) : State := { s with w := { s.w with pc := a, widx := 0 } }

/-- `s` with a new active mask and mask stack. -/
def setMask (s : State) (am : Lanes) (st : List MaskEntry) : State :=
  { s with w := { s.w with ctl := { s.w.ctl with am := am, stack := st } } }

/-- `s` with the issue group held (R141): nothing of it takes effect. -/
def heldWith (s : State) (h : Hold) : State := { s with issue := { s.issue with retry := some h } }

/-- `s` after an acquire by a core: the core's L1 holds no word but private ones and those that it owns (R178,
R229). -/
def acquired (s : State) (core : Nat) : State :=
  { s with l1 := s.l1.filter fun x => x.core != core || x.priv.isSome || s.l1Owns x }

/-! ## Accesses -/

/-- The warp whose issue group takes effect stands alone: nothing of it or of any other warp is in
flight or held, no byte that a copy has filled is still seen as it was (R185), its counters are zero, no word has an
uncorrectable error, and its launch is not ordered; its latest OFENCE lies behind it. -/
def Quiet (s : State) (w : Warp) : Prop :=
  s.issue.snap = some w ∧ s.w.place = w.place ∧ s.w.env = w.env ∧ w.place.wid ≠ 0 ∧
    (∀ v ∈ s.rest, v.place.wid ≠ w.place.wid) ∧ s.ops = [] ∧ s.held = [] ∧ s.poison = [] ∧
    s.regPoison = [] ∧ s.w.cnt = Counters.zero ∧ s.w.aside = Counters.zero ∧ w.env.ordered = false ∧
    s.w.sched.state ≠ .saved ∧ (∀ c ∈ s.copies, c.before = []) ∧ s.w.fenceSeq ≤ s.w.issued

/-- `g` is the group of the warp, and no other group has its number. -/
def GroupIs (s : State) (w : Warp) (g : Group) : Prop :=
  g ∈ s.groups ∧ g.gid = w.place.gid ∧ ∀ h ∈ s.groups, h.gid = w.place.gid → h = g

/-- `n` bytes of a memory as a number, the first lowest (R3). -/
def wordAt (m : List Host.Cell) (a n : Nat) : Nat :=
  ((List.range n).map fun i => (cellGet m (a + i)).toNat * 256 ^ i).sum

/-- The byte that the lanes of `g` store at `k`, each `n` bytes of its data from its address: that of
the highest lane (R224). -/
def stored (g : Lanes) (addr : Nat → Nat) (n : Nat) (data : Nat → Word64) (k : Nat) : Option Byte :=
  (((List.range 32).filter fun l => g.getLsbD l && decide (addr l ≤ k) && decide (k < addr l + n)).getLast?).map
    fun l => BitVec.ofNat 8 ((data l).toNat / 256 ^ (k - addr l))

/-- `m` is the memory of `z` after a store of `n` bytes at a location: they are written there, and in the other
frame of a versioned page of a closed domain (R220), and nowhere else. -/
def StoredAt (z : State) (m : List Host.Cell) (at_ n : Nat) (byte : Nat → Byte) : Prop :=
  let twins := z.slices.twins.filter fun y => decide (y.base ≤ at_) && decide (at_ < y.base + y.size)
  (twins = [] → ∀ k : Nat, cellGet m k =
    if at_ ≤ k ∧ k < at_ + n then byte (k - at_) else cellGet z.mem k) ∧
  ∀ y : Twin, twins = [y] → ∀ k : Nat, cellGet m k =
    let other := y.other + (at_ - y.base)
    if other ≤ k ∧ k < other + n then byte (k - other)
    else if at_ ≤ k ∧ k < at_ + n then byte (k - at_) else cellGet z.mem k

/-- The new value of an atomic (R399), and whether it is written. -/
def atomically (o : AOp) (t : ATy) (old b c : Nat) : Nat × Bool :=
  let n := 256 ^ t.bytes
  let int := fun v : Nat => if t = .u32 ∨ v < n / 2 then (v : Int) else (v : Int) - n
  match t, o with
  | .f32, .add => (fp32.add old b, true)
  | .f32, .min => (fp32.fmin old b, true)
  | .f32, .max => (fp32.fmax old b, true)
  | _, .xchg => (b, true)
  | _, .add => ((old + b) % n, true)
  | _, .min => (if int b < int old then b else old, true)
  | _, .max => (if int old < int b then b else old, true)
  | _, .andB => (Nat.land old b, true)
  | _, .orB => (Nat.lor old b, true)
  | _, .xorB => (Nat.xor old b, true)
  | _, .cas => if old = b then (c, true) else (old, false)

/-- A memory and the old values that lanes have read, after lane `l` has acted (R400). -/
def atomLane (o : AOp) (t : ATy) (addr : Nat → Nat) (b c : Nat → Word64)
    (r : List Host.Cell × (Nat → Nat)) (l : Nat) : List Host.Cell × (Nat → Nat) :=
  let old := wordAt r.1 (addr l) t.bytes
  let v := atomically o t old ((b l).toNat % 256 ^ t.bytes) ((c l).toNat % 256 ^ t.bytes)
  (if v.2 then cellPutWord r.1 (addr l) t.bytes v.1 else r.1, fun k => if k = l then old else r.2 k)

/-- The bytes of a block of a format, the blocks of a register image and the blocks of a line (R193,
R363). -/
def mxShape : MxF → Nat × Nat × Nat
  | .e4m3 | .e5m2 => (32, 4, 7)
  | .e2m3 | .e3m2 => (24, 4, 10)
  | .e2m1 => (16, 8, 15)

/-- The lanes of `g`, the lowest first. -/
def lanesOf (g : Lanes) : List Nat := (List.range 32).filter g.getLsbD

/-- `s` with a group's scratch replaced. -/
def setScratch (s : State) (w : Warp) (m : List Host.Cell) : State :=
  { s with groups := s.groups.map fun g => if g.gid = w.place.gid then { g with scratch := m } else g }

/-! ## Tiles and looms (R183 to R193, R161) -/

/-- `s` with the entry that a warp's group maps by a tile name replaced. -/
def setTile (s : State) (w : Warp) (n : TileName) (t : Tile) : State :=
  { s with groups := s.groups.map fun g =>
      if g.gid = w.place.gid then { g with tiles := g.tiles.set n.toNat t } else g }

/-- `s` with a word of MAJ 0x2C or 0x2D rejected: one page-protection fault at an address, and no
other effect (R412). -/
def Rejected (s t : State) (addr : Nat) : Prop :=
  ∃ r : FaultRec, t = { s with w := { s.w with faults := [r] } } ∧ r.cause = 0x10 ∧
    r.addr = BitVec.ofNat 64 addr ∧ r.space = 1 ∧ r.flanes = 0 ∧ r.seq = s.w.issued

/-- The two low doublewords of an entry's image (R184). -/
def tileWord0 (t : Tile) : Nat :=
  let st := if t.counted then (if t.count = 0 then 1 else 2)
    else match t.state with
      | .empty => 0
      | .filling => 1
      | .ready => 2
      | .draining => 3
  st + 2 ^ 8 + t.counted.toNat * 2 ^ 9 + t.arm.toNat * 2 ^ 10 + t.hmc.toNat * 2 ^ 11 +
    t.fmt.toNat * 2 ^ 12 + t.drops.toNat * 2 ^ 30 + (if t.counted then t.rsv.length else 0) * 2 ^ 38 +
    t.count.toNat * 2 ^ 47 + t.head.toNat * 2 ^ 56

/-- The second doubleword, whose BASE is that of the head slot for a counted entry (R416). -/
def tileWord1 (t : Tile) : Nat :=
  (if t.counted then t.base.toNat + t.head.toNat * (t.pitch.toNat + 1) else t.base.toNat) +
    t.pitch.toNat * 2 ^ 28 + t.cols.toNat * 2 ^ 40 + t.rows.toNat * 2 ^ 56

/-- A copy of an entry's fields with its resume counters at the start. -/
def rewound (i : Iter) : Iter := { i with dims := i.dims.map fun d => { d with cnt := 0 } }

/-- `s` after a warp has issued an operation, numbered from the serial counter, that CC counts. -/
def countedCopy (s : State) (c : Copy) : State :=
  { s with
    serial := s.serial + 1
    w := { s.w with cnt := { s.w.cnt with cc := [⟨s.serial, false⟩] } }
    copies := s.copies ++ [c] }

/-- What a copy at issue is: its warp, its entry as it stood, its kind and its units (R188, R417). -/
def IsCopy (s : State) (w : Warp) (n : TileName) (t : Tile) (k : CopyKind) (tr filling : Bool)
    (slot : Option (BitVec 8)) (c : Copy) : Prop :=
  c.id = s.serial ∧ c.wid = w.place.wid ∧ c.gid = w.place.gid ∧ c.bid = w.place.bid ∧
    c.cluster = w.place.core / 4 ∧ c.seq = s.w.issued ∧ c.name = n ∧ c.kind = k ∧ c.src = t ∧
    c.tr = tr ∧ c.filling = filling ∧ c.slot = slot ∧ c.running = false ∧ c.stopped = false ∧ c.sent = none ∧
    c.holes = 0 ∧ c.oldHoles = t.holes ∧ c.origin = c.cluster ∧ c.kept = false ∧ c.before = []

/-- The loom of a cluster. -/
def loomAt (s : State) (cl : Nat) : Loom := (s.looms.find? fun x => x.1 == cl).elim Loom.start Prod.snd

/-- `s` with the loom of a cluster replaced. -/
def setLoom (s : State) (cl : Nat) (l : Loom) : State :=
  { s with looms := (cl, l) :: s.looms.filter fun x => x.1 != cl }

/-- `s` after the warp at issue has placed `n` requests of one instruction, which TC counts (R161). -/
def requested (s : State) (w : Warp) (rs : List LoomReq) : State :=
  let cl := w.place.core / 4
  { setLoom s cl { loomAt s cl with reqs := (loomAt s cl).reqs ++ rs } with
    serial := s.serial + 1 + rs.length
    w := { s.w with cnt := { s.w.cnt with tc := [⟨s.serial, false⟩] } } }

/-- The vector and scale registers of a warp. -/
def fileOf (w : Warp) : RegFile := ⟨w.regs.v, w.regs.k⟩

/-- What each of the requests of an instruction holds (R161, R239, R420): with its own operands, the registers as they
stand at its issue, and as they stood at the OFENCE before it. -/
def AreRequests (s : State) (w : Warp) (i : Instr) (rs : List LoomReq) : Prop :=
  ∀ r ∈ rs, r.instr = i ∧ r.op = s.serial ∧ r.wid = w.place.wid ∧ r.gid = w.place.gid ∧
    r.core = w.place.core ∧ r.wslot = w.place.slot ∧ r.seq = s.w.issued ∧ r.prio = w.env.prio ∧
    r.age = s.time ∧ r.granted = false ∧ r.aged = false ∧ r.issued = fileOf s.w ∧ r.fenced = s.w.fenced ∧
    r.streamed = false ∧ r.remote = []

/-- A request that reads or fills an entry holds the scratch of its group as it stands at the issue, and as it stood at the
OFENCE before it (R239, R240). -/
def HoldsScratch (s : State) (g : Group) (r : LoomReq) : Prop := r.scratch = g.scratch ∧ r.fencedMem = s.w.fencedMem

/-- The quarters of a stream word: those that hold a lane of the guard in partition-8 mode (R160,
R420). -/
def quartersOf (w : Warp) (g : Lanes) : List (Option (BitVec 2)) :=
  if w.ctl.part = .t8 then
    ([0, 1, 2, 3] : List (BitVec 2)).filterMap fun q =>
      if (List.range 8).any fun l => g.getLsbD (8 * q.toNat + l) then some (some q) else none
  else [none]

/-! ## Engines -/

/-- The machine holds one warp, which is not saved, and no word has an uncorrectable error. -/
def Alone (s : State) (w : Warp) : Prop :=
  s.w = w ∧ w.place.wid ≠ 0 ∧ s.rest = [] ∧ w.sched.state ≠ .saved ∧ s.poison = [] ∧ s.regPoison = []

/-- The loom of a cluster holds one request, as the rest of its state says. -/
def LoneReq (s : State) (cl : Nat) (r : LoomReq) : Prop :=
  (loomAt s cl).reqs = [r] ∧ ((s.looms.filter fun x => x.1 == cl).length ≤ 1)

/-- `s` with an accumulator tile of a group replaced. -/
def setAcc (s : State) (gid n : Nat) (t : AccTile) : State :=
  { s with groups := s.groups.map fun g =>
      if g.gid = gid then { g with accs := g.accs.modify n fun _ => t } else g }

/-- An accumulator tile of a group. -/
def accAt (s : State) (gid n : Nat) : Option AccTile := (s.group? gid).bind fun g => g.accs[n]?

/-- What a drain writes for an element (R289, R433): the NaN of its row's flag, else that of its column's, else its
product with the scale. -/
def drainWord (t : AccTile) (i : Fin 8) (c : Fin 128) (scale : Nat) : Nat :=
  if t.rowFlag[i] ≠ 0 then fp32.nanGen (t.rowFlag[i]).toNat
  else if t.colFlag[c] ≠ 0 then fp32.nanGen (t.colFlag[c]).toNat
  else fp32.mul (t.els[i][c]).toNat scale

/-- The rounding of element `i` of the `p`th block of a requantisation (R439, R440): to nearest for RQ, and for RQS with
slot p mod 8 of draw p / 8 of lane `i`. -/
def rqMode (draws : List (Vector Word32 32)) (p i : Nat) : Mode :=
  if draws = [] then .rne
  else .sr (((draws[4 * (p / 8) + p % 8 / 2]?).elim 0 fun v => ((v[i]?).getD 0).toNat) / 2 ^ (16 * (p % 2)) % 2 ^ 16)

/-- The MX register image and the scale register of `n` blocks of values (R377, R439). -/
def mxImage (f : FFmt) (n : Nat) (mode : Nat → Nat → Mode) (vals : Nat → List Nat) : Vector Word32 32 × Word64 :=
  let block := fun j => requantise f (mode j) (vals j)
  (Vector.ofFn fun l => imageLane (packed (32 * f.bits) n fun j => packed f.bits 32 fun i => (block j).2.getD i 0) l.val,
    BitVec.ofNat 64 (packed 8 n fun j => (block j).1))

/-- Every 4-byte element of an image of an accumulator tile at a virtual address passes its checks and lies on the device
at `at_`, no two in one place, and the checks leave `z` (R436, R437). -/
def ImageAt (s : State) (w : Warp) (acc : Access) (a : Word64) (at_ : Nat → Nat) (z : State) : Prop :=
  (s.imageChecks w acc a).2 = z ∧ (s.imageChecks w acc a).1.length = 1056 ∧
    (∀ i : Nat, i < 1056 → at_ i / 2 ^ 51 % 2 = 0 ∧ ∃ home va,
      (s.imageChecks w acc a).1[i]? = some (i, .ok (.phys (at_ i)) home va)) ∧
    ∀ i j : Nat, i < 1056 → j < 1056 → i ≠ j → at_ i + 4 ≤ at_ j ∨ at_ j + 4 ≤ at_ i

/-- A memory holds the image of a tile where `at_` says (R266, R436): its elements row by row, and its flag record. -/
def TileImage (m : List Host.Cell) (at_ : Nat → Nat) (t : AccTile) : Prop :=
  let flag := fun k : Nat => (cellGet m (at_ (1024 + k / 4) + k % 4)).toNat
  (∀ (i : Fin 8) (c : Fin 128), wordAt m (at_ (128 * i.val + c.val)) 4 = (t.els[i][c]).toNat) ∧
    (∀ i : Fin 8, flag (i.val / 4) / 4 ^ (i.val % 4) % 4 = (t.rowFlag[i]).toNat) ∧
    (∀ c : Fin 128, flag (2 + c.val / 4) / 4 ^ (c.val % 4) % 4 = (t.colFlag[c]).toNat) ∧
    flag 34 % 4 = t.err.toNat + 2 * t.stale.toNat

/-- A row of an entry, from its group's scratch (R421). -/
def entryRow (g : Group) (t : Tile) (slot : Option (BitVec 8)) (i : Nat) : LoomRow :=
  t.loomRow slot i ((List.range t.rowBytes).map fun k => cellGet g.scratch (t.operandRow slot i + k))

/-- What a stream request runs (R422, R429, R430): its first tile, its A format, whether it is MMQT, its K, its rows, and
the entry that holds them, if one does. -/
def StreamOf (w : Warp) (g : Group) (r : LoomReq) (n : AccReg) (f : AFmt) (trans : Bool) (k : Nat) (row : Nat → LoomRow)
    (tile : Option TileName) : Prop :=
  (∃ x v b, (trans = false ∧ r.instr = .mmq x n v b f ∨ trans = true ∧ r.instr = .mmqt x n v b f) ∧ tile = none ∧
    k = regK f ∧ row = fun i => w.loomRow f (r.vreg + rowRegs f * i)) ∨
  ∃ x a b, (trans = false ∧ r.instr = .mmqTile x n a b f ∨ trans = true ∧ r.instr = .mmqtTile x n a b f) ∧
    tile = some a ∧ k = g.tiles[a.toNat].ncols ∧ row = entryRow g g.tiles[a.toNat] r.slot

/-- A warp with scheduling state replaced. -/
def inSlot (w : Warp) (st : SlotState) (pos : BitVec 3) (age : Nat) : Warp :=
  { w with sched := { w.sched with state := st, pos := pos, age := age, blocked := false } }

/-! ## The host and the streams -/

/-- A host write reaches a register, with a whole value, and starts what a kind says (R75, R76). -/
def Writes (s : State) (h : HostWrite) (r : Reg) (v : Nat) (k : WriteKind) : Prop :=
  ∃ w : RegWrite, s.regWrite h = some w ∧ w.reg = r ∧ w.value = v ∧ w.port = h.port ∧
    s.writeKind w = k

/-- Bits of a value. -/
def bits (v lo n : Nat) : Nat := v / 2 ^ lo % 2 ^ n

/-- A stream stands at a command that it does not skip, nothing of it waits, and reading the command, with
the translations that this needs, leaves the state `t`. -/
def AtCmd (s : State) (b : Beam) (c : CtxN) (w : CmdWord) (opc : Nat) (t : State) : Prop :=
  s.peek b c = (.cmd w, t) ∧ w.opc = opc ∧ w.skipped = false ∧ t.beams = s.beams ∧ t.parts = s.parts ∧
    t.serial = s.serial ∧ t.launches = s.launches ∧ t.sweeps = s.sweeps ∧ t.poison = s.poison ∧
    (s.ctx b c).cmds = [] ∧ (s.ctx b c).faulted = false ∧ (s.ctx b c).vec = 0 ∧
    (s.ctx b c).halted = false

/-- An access of a command processor has changed nothing but what its translations change. -/
def SameButXlat (s t : State) : Prop :=
  t = { s with mem := t.mem, l1 := t.l1, tlb := t.tlb, slices := t.slices, draws := t.draws, out := t.out }

/-- `s` with a stream past a command that began. -/
def past (s : State) (b : Beam) (c : CtxN) (w : CmdWord) (f : Context → Context) : State :=
  s.modCtx b c fun k => f { k with head := w.next, skip := none }

/-- `s` with a stream halted at a command that did not begin, its vector zero. -/
def halted (s : State) (b : Beam) (c : CtxN) (w : CmdWord) (err : BitVec 8) : State :=
  s.modCtx b c fun k =>
    { k with head := w.off, skip := none, halted := true, err := err, errOff := w.off }

/-- No L1 holds a private word that memory does not have (R178), and no two frames are kept identical (R220). -/
def Settled (s : State) : Prop := (∀ x ∈ s.l1, x.ahead = false) ∧ s.slices.twins = []

/-- `s` once a page has been filled with zeros and its entry's RES bit is set (R113): no core owns the words any
more (R227). -/
def pageFilled (s : State) (frame n entry : Nat) : State :=
  let m := cellClear s.mem frame n
  { s with
    mem := cellPutWord m entry 8 (Nat.lor (wordAt m entry 8) (2 ^ 61))
    l1 := ((s.l1Revoke frame n).l1Revoke entry 8).l1 }

/-- A command of a context that has begun and waits. -/
def begun (s : State) (b : Beam) (c : CtxN) (off : BitVec 20) (x : CmdWait) : Cmd :=
  ⟨s.serial, off, Fin.ofNat 8 (s.ctx b c).part.toNat, x⟩

/-- What a dent makes of a mirror (R32, R35, R39): a write changes the bytes of its mask, an atomic its one word, and
a region-clear a whole region; a token changes nothing. -/
def Dented (k : DentKind) (m m' : List Host.Cell) : Prop :=
  match k with
  | .write blk mask data => ∀ i : Nat, cellGet m' i =
      if i / 256 = blk ∧ mask.getLsbD (i % 256) = true then BitVec.ofNat 8 (data.toNat / 256 ^ (i % 256)) else cellGet m i
  | .atomic blk off o t b c _ _ =>
    let at_ := 256 * blk + off
    let r := atomically o t (wordAt m at_ t.bytes) (b.toNat % 256 ^ t.bytes) (c.toNat % 256 ^ t.bytes)
    ∀ i : Nat, cellGet m' i =
      if r.2 = true ∧ at_ ≤ i ∧ i < at_ + t.bytes then BitVec.ofNat 8 (r.1 / 256 ^ (i - at_)) else cellGet m i
  | .clear _ base size => ∀ i : Nat, cellGet m' i = if base ≤ i ∧ i < base + size then 0 else cellGet m i
  | .join _ _ | .leave _ _ | .arrive _ _ _ _ _ => m' = m

/-- What a token makes of the counts of one beam barrier of its launch (R41): a JOIN adds a ply that has not arrived, a
LEAVE takes it from both sets, and an ARRIVE counts for a joined ply and the current generation; a generation is over
once some ply is joined and every joined ply has arrived. -/
def tokened (k : DentKind) (x : BeamBar) : BeamBar :=
  let bit := fun d : Die => BitVec.twoPow 8 d.val
  let y : BeamBar :=
    match k with
    | .join _ d => { x with joined := x.joined ||| bit d, arrived := x.arrived &&& ~~~(bit d) }
    | .leave _ d => { x with joined := x.joined &&& ~~~(bit d), arrived := x.arrived &&& ~~~(bit d) }
    | .arrive _ n d gen _ =>
      if x.n = n ∧ x.gen = gen ∧ x.joined.getLsbD d.val = true then { x with arrived := x.arrived ||| bit d } else x
    | .write _ _ _ | .atomic _ _ _ _ _ _ _ _ | .clear _ _ _ => x
  if y.joined ≠ 0 ∧ y.joined &&& ~~~y.arrived = 0 then { y with gen := y.gen + 1, arrived := 0 } else y

/-- A ply that wakes to run (0) or doze (1) has reached that state with a current mirror (R21, R22, R45). -/
def awoken (p : Ply) (n : BitVec 2) : Ply :=
  { p with
    state := if n = 0 then .run else .doze
    listen := true
    wake := .none
    pend := if p.pend = (if n = 0 then 3 else 1) then 0 else p.pend }

/-- Fields as a string of bits: each field's width and value, its least significant bit first. -/
def bitString (fs : List (Nat × Nat)) : List Bool := fs.flatMap fun f => (List.range f.1).map f.2.testBit

/-- `base` is the least exponent of a block's values that is neither 0 nor 255, or 0 where there is none (R68). -/
def IsBase (ws : Fin 16 → Word32) (base : Nat) : Prop :=
  let e := fun i => bits (ws i).toNat 23 8
  let counts := fun i => 0 < e i ∧ e i < 255
  (∃ i, counts i ∧ base = e i ∧ ∀ j, counts j → base ≤ e j) ∨ (∀ i, ¬counts i) ∧ base = 0

/-- The bit string that encodes a block of 16 f32 values (R68). -/
def blockBits (ws : Fin 16 → Word32) (base : Nat) : List Bool :=
  let value := fun i : Fin 16 =>
    let w := (ws i).toNat
    let e := bits w 23 8
    let code := if 0 < e ∧ e < 255 ∧ e - base ≤ 6 then e - base else 7
    [(1, bits w 31 1), (3, code)] ++ (if code = 7 then [(8, e)] else []) ++ [(23, bits w 0 23)]
  let coded := bitString ([(1, 0), (8, base)] ++ (List.finRange 16).flatMap value)
  if coded.length < 513 then coded else bitString ((1, 1) :: (List.finRange 16).map fun i => (32, (ws i).toNat))

/-- What a start leaves as it begins and as it ends (R86, R88): nothing runs, the on-package memories are zero, and
every register has its reset value but those that a start keeps; `cal` says whether the reeds are calibrated. -/
def Cleared (s u : State) (cal : Bool) : Prop :=
  u.w = Warp.free ∧ u.rest = [] ∧ u.groups = [] ∧ u.bolts = [] ∧ u.launches = [] ∧ u.ops = [] ∧
    u.l1 = [] ∧ u.held = [] ∧ u.tlb = [] ∧ u.sweeps = [] ∧ u.tlbinvs = [] ∧ u.looms = [] ∧
    u.slices = State.reset.slices ∧ u.copies = [] ∧ u.vault = [] ∧ u.flash = s.flash ∧
    u.parts = Vector.replicate 8 PartRegs.reset ∧ u.plies = Vector.replicate 8 Ply.reset ∧
    (∀ b : Beam, u.beam b = { BeamRegs.reset with reed := { Reed.reset with calOk := cal } }) ∧
    ∀ q : Port, (u.port q).linkUp = (s.port q).linkUp ∧ (u.port q).hostErr = 0 ∧ (u.port q).attBusy = false ∧
      (u.port q).fwPage = 0

/-- HBM4E as a start retains it: what stands below 2^53, where no second home of a granule has its copy. -/
def retained (s : State) : List Host.Cell := s.mem.filter fun c => decide (c.1 < 2 ^ 53)

/-- What every start leaves as it begins (R85, R86, R88, R89): the machine is cleared, memory survives a warm start
alone, MCHK.VTEST stays, and its step 1 has read the image in flash. -/
def Started (s u : State) (warm : Bool) : Prop :=
  Cleared s u false ∧ u.mem = (if warm then retained s else []) ∧
    (∀ q : Port, (u.port q).mchk = (s.port q).mchk &&& 2) ∧
    u.dev.ready = false ∧ u.dev.authFail = false ∧ u.dev.starting = true ∧ u.dev.power = true ∧
    u.dev.vtestRan = false ∧ u.dev.kind = (if warm then 2 else 1) ∧ u.dev.linkDown = false ∧
    u.dev.retCal = s.dev.retCal ∧ u.dev.retDigest = s.dev.retDigest ∧ u.dev.vaultEcc = s.dev.vaultEcc ∧
    u.dev.img = ⟨s.imageOk, s.imageDigest, BitVec.ofNat 16 (wordAt s.flash 8 2)⟩ ∧
    u.dev.fuseSvn = (if s.imageOk then BitVec.ofNat 16 (max s.dev.fuseSvn.toNat (wordAt s.flash 10 2))
      else s.dev.fuseSvn)

/-- `s` with its warp stopped at a precise trap of the issue group (R247, R250): nothing of the group has
taken effect, and the trap waits until the warp has drained. -/
def raised (s : State) (cause : BitVec 8) (addr : Word64) (word : BitVec 32) : State :=
  { s with w := { s.w with
      pc := s.issue.pc, widx := s.issue.widx, packet := none, flushing := false
      trap := some
        { cause := cause, addr := addr, lane := 0, flanes := 0, struct := 0, space := 7, remoteTo := false
          fetch := false, precise := true, more := false, rmode := decide (cause = 5), word := word
          pc := s.issue.pc, widx := s.issue.widx } } }

end Sys2Proof.Claim

open Sys2Proof Sys2Proof.Machine Sys2Proof.Claim

/-! ## Scalar words -/

/-- R330, R332: SADD, SSUB, SMUL, SMULH, SMIN, SMAX, SMAD, SAND, SOR, SXOR and the shifts. -/
def Obligations.ScalarArithmeticResult : Prop :=
  ∀ (s : State) (w : Warp), s.issue.snap = some w → ∀ (x : Ext) (t : STy) (d a b c : SReg),
    let A := num t (w.sget a)
    let B := num t (w.sget b)
    let n := (w.sget b).toNat % width t
    let put := fun r : Int => Host.Outcome.next (setS s (w.guard x) d (ext t r))
    exec (.sadd x t d a b) s = put (A + B) ∧
    exec (.ssub x t d a b) s = put (A - B) ∧
    exec (.smul x t d a b) s = put (A * B) ∧
    exec (.smulh x t d a b) s = put (A * B / (2 ^ width t : Nat)) ∧
    exec (.smin x t d a b) s = put (min A B) ∧
    exec (.smax x t d a b) s = put (max A B) ∧
    exec (.smad x t d a b c) s = put (A * B + num t (w.sget c)) ∧
    exec (.sand x t d a b) s = put (w.sget a &&& w.sget b).toInt ∧
    exec (.sor x t d a b) s = put (w.sget a ||| w.sget b).toInt ∧
    exec (.sxor x t d a b) s = put (w.sget a ^^^ w.sget b).toInt ∧
    exec (.sshl x t d a b) s = put (A * (2 ^ n : Nat)) ∧
    exec (.sshr x t d a b) s = put (((w.sget a).toNat % 2 ^ width t / 2 ^ n : Nat) : Int) ∧
    exec (.ssra x t d a b) s = put (signedNum t (w.sget a) / (2 ^ n : Nat))

/-- R333: the quotient and the remainder, the divisor of zero and the quotient that overflows
included. -/
def Obligations.ScalarDivisionResult : Prop :=
  ∀ (s : State) (w : Warp), s.issue.snap = some w → ∀ (x : Ext) (t : STy) (d a b : SReg),
    let A := num t (w.sget a)
    let B := num t (w.sget b)
    let put := fun r : Int => Host.Outcome.next (setS s (w.guard x) d (ext t r))
    exec (.sdiv x t d a b) s = put (if B = 0 then -1 else A.tdiv B) ∧
    exec (.srem x t d a b) s = put (if B = 0 then A else A - B * A.tdiv B) ∧
    (B ≠ 0 → A - B * A.tdiv B ≠ 0 → (A < 0 ↔ A - B * A.tdiv B < 0)) ∧
    (t ≠ .u32 → A = -(2 ^ (width t - 1) : Nat) → B = -1 →
      exec (.sdiv x t d a b) s = put A ∧ exec (.srem x t d a b) s = put 0)

/-- R334, R339, R340: the moves and the immediates. -/
def Obligations.ScalarMoveResult : Prop :=
  ∀ (s : State) (w : Warp), s.issue.snap = some w →
    ∀ (x : Ext) (t : STy) (d a : SReg) (n : IxReg) (i : BitVec 31) (j : BitVec 37) (k : BitVec 32),
    let g := w.guard x
    exec (.smov x t d a) s = .next (setS s g d (ext t (w.sget a).toInt)) ∧
    exec (.smovFromIx x d n) s = .next (setS s g d (BitVec.ofNat 64 (w.regs.ix[n.toNat]).toNat)) ∧
    exec (.smovToIx x n a) s = .next
      (if g = 0 then s
       else { s with w := { s.w with regs := { s.w.regs with
                ix := s.w.regs.ix.set n.toNat (BitVec.ofNat 16 (w.sget a).toNat) } } }) ∧
    exec (.saddi x d a i) s = .next (setS s g d (BitVec.ofInt 64 ((w.sget a).toInt + i.toInt))) ∧
    exec (.sli x d j) s = .next (setS s g d (BitVec.ofInt 64 j.toInt)) ∧
    exec (.slih x d k) s = .next
      (setS s g d (BitVec.ofNat 64 (k.toNat * 2 ^ 32 + (w.sget d).toNat % 2 ^ 32)))

/-- R338, R341: SPOPC, SCLZ, SBFX and SBFI, whose fields lie within a register. -/
def Obligations.ScalarBitsResult : Prop :=
  ∀ (s : State) (w : Warp), s.issue.snap = some w →
    ∀ (x : Ext) (d a : SReg) (p l : BitVec 6) (sx : Bool),
    p.toNat + l.toNat + 1 ≤ 64 →
    let g := w.guard x
    let len := l.toNat + 1
    let field := (w.sget a).toNat / 2 ^ p.toNat % 2 ^ len
    exec (.spopc x d a) s = .next (setS s g d (BitVec.ofNat 64 (setBits 64 (w.sget a).toNat))) ∧
    exec (.sclz x d a) s = .next (setS s g d (BitVec.ofNat 64 (zerosAbove 64 (w.sget a).toNat))) ∧
    exec (.sbfx x d a p l sx) s = .next (setS s g d (BitVec.ofInt 64
      (if sx ∧ 2 ^ l.toNat ≤ field then (field : Int) - (2 ^ len : Nat) else field))) ∧
    ∃ v : Word64, exec (.sbfi x d a p l) s = .next (setS s g d v) ∧
      ∀ i : Nat, i < 64 → v.getLsbD i =
        if p.toNat ≤ i ∧ i < p.toNat + len then (w.sget a).getLsbD (i - p.toNat)
        else (w.sget d).getLsbD i

/-- R331, R336, R337, R381, R382: SSEL reads a predicate in the active mask; SCMP and the predicate words
write every lane of the active mask and no other; PPOPC and PART. -/
def Obligations.PredicateResult : Prop :=
  ∀ (s : State) (w : Warp), s.issue.snap = some w →
    ∀ (x : Ext) (k : Cond) (t : STy) (d p q : PReg) (e a b : SReg) (z : PartSz),
    let g := w.guard x
    let put := fun v : Lanes => Host.Outcome.next (setP s g w.ctl.am d v)
    exec (.ssel x p e a b) s = .next
      (setS s g e (if w.pget p &&& w.ctl.am ≠ 0 then w.sget a else w.sget b)) ∧
    exec (.scmp x k t d a b) s = put
      (if compares k (num t (w.sget a)) (num t (w.sget b)) then BitVec.allOnes 32 else 0) ∧
    exec (.pand x d p q) s = put (w.pget p &&& w.pget q) ∧
    exec (.por x d p q) s = put (w.pget p ||| w.pget q) ∧
    exec (.pxor x d p q) s = put (w.pget p ^^^ w.pget q) ∧
    exec (.pnot x d p) s = put (~~~(w.pget p)) ∧
    exec (.pmov x d p) s = put (w.pget p) ∧
    exec (.ppopc x e p) s = .next
      (setS s g e (BitVec.ofNat 64 (setBits 32 (w.pget p &&& w.ctl.am).toNat))) ∧
    exec (.part x z) s = .next
      (if g = 0 then s else { s with w := { s.w with ctl := { s.w.ctl with part := z } } })

/-! ## Vector words

The results are stated for states in which no register word has an uncorrectable error; what such a
word does is stated in `Obligations.BadRegisterWord`. -/

/-- R360, R361, R365, R366: the integer words of the vector pipe, element by element. -/
def Obligations.VectorIntegerResult : Prop :=
  ∀ (s : State) (w : Warp), s.issue.snap = some w → s.regPoison = [] →
    ∀ (x : Ext) (t : VTy) (d a b c : VOp),
    let n := eltBits t
    let A := fun l h => eltNum t (w.lane (w.vidx x a) l) h
    let B := fun l h => eltNum t (w.lane (w.vidx x b) l) h
    let C := fun l h => eltNum t (w.lane (w.vidx x c) l) h
    let uA := fun l h => elt n (w.lane (w.vidx x a) l) h
    let uB := fun l h => elt n (w.lane (w.vidx x b) l) h
    let put := fun r : Nat → Nat → Int =>
      Host.Outcome.next (setV s (w.vidx x d) (w.guard x) fun l => ofElts n (r l))
    exec (.vadd x t d a b) s = put (fun l h => A l h + B l h) ∧
    exec (.vsub x t d a b) s = put (fun l h => A l h - B l h) ∧
    exec (.vmul x t d a b) s = put (fun l h => A l h * B l h) ∧
    exec (.vmulh x t d a b) s = put (fun l h => A l h * B l h / (2 ^ n : Nat)) ∧
    exec (.vmad x t d a b c) s = put (fun l h => A l h * B l h + C l h) ∧
    exec (.vmin x t d a b) s = put (fun l h => min (A l h) (B l h)) ∧
    exec (.vmax x t d a b) s = put (fun l h => max (A l h) (B l h)) ∧
    exec (.vabs x t d a) s = put (fun l h => (A l h).natAbs) ∧
    exec (.vshl x t d a b) s = put (fun l h => (uA l h * 2 ^ (uB l h % n) : Nat)) ∧
    exec (.vshr x t d a b) s = put (fun l h => (uA l h / 2 ^ (uB l h % n) : Nat)) ∧
    (t ≠ .u32 → exec (.vsra x t d a b) s = put (fun l h => A l h / (2 ^ (uB l h % n) : Nat))) ∧
    exec (.vsra x .u32 d a b) s = Host.Outcome.next (setV s (w.vidx x d) (w.guard x) fun l =>
      (w.lane (w.vidx x a) l).sshiftRight ((w.lane (w.vidx x b) l).toNat % 32)) ∧
    exec (.vpopc x t d a) s = put (fun l h => setBits n (uA l h)) ∧
    exec (.vclz x t d a) s = put (fun l h => zerosAbove n (uA l h))

/-- R361, R365, R366, R368: the words of the vector pipe that treat a lane as a whole: the bitwise
words, VSEL, VMOV with its scale register, VIOTA, VBCAST, VEXTR and VBFX. -/
def Obligations.VectorLaneResult : Prop :=
  ∀ (s : State) (w : Warp), s.issue.snap = some w → s.regPoison = [] →
    ∀ (x : Ext) (t : VTy) (d a b : VOp) (n : PReg) (e f : SReg) (p q : BitVec 5) (sx : Bool),
    let g := w.guard x
    let A := fun l => w.lane (w.vidx x a) l
    let B := fun l => w.lane (w.vidx x b) l
    let put := fun r : Nat → Word32 => Host.Outcome.next (setV s (w.vidx x d) g r)
    let field := fun l => (A l).toNat / 2 ^ p.toNat % 2 ^ (q.toNat + 1)
    exec (.vand x t d a b) s = put (fun l => A l &&& B l) ∧
    exec (.vor x t d a b) s = put (fun l => A l ||| B l) ∧
    exec (.vxor x t d a b) s = put (fun l => A l ^^^ B l) ∧
    exec (.vsel x d a b n) s = put (fun l => if (w.pget n).getLsbD l then A l else B l) ∧
    exec (.vmov x d a) s = .next (setK (setV s (w.vidx x d) g A) g (w.vidx x d) (w.kget (w.vidx x a))) ∧
    exec (.viota x d) s = put (fun l => BitVec.ofNat 32 l) ∧
    exec (.vbcast x d e) s = put (fun _ => BitVec.ofNat 32 (w.sget e).toNat) ∧
    exec (.vextr x e a f) s = .next
      (setS s g e (BitVec.ofNat 64 (A ((w.sget f).toNat % 32)).toNat)) ∧
    (p.toNat + q.toNat + 1 ≤ 32 → exec (.vbfx x d a p q sx) s = put (fun l => BitVec.ofInt 32
      (if sx ∧ 2 ^ q.toNat ≤ field l then (field l : Int) - (2 ^ (q.toNat + 1) : Nat) else field l)))

/-- R361, R367, R371: VCMP and VFCMP write every lane of the guard and no other. -/
def Obligations.VectorCompareResult : Prop :=
  ∀ (s : State) (w : Warp), s.issue.snap = some w → s.regPoison = [] →
    ∀ (x : Ext) (k : Cond) (j : FCond) (t : VTy) (d : PReg) (a b : VOp),
    let g := w.guard x
    let A := fun l => w.lane (w.vidx x a) l
    let B := fun l => w.lane (w.vidx x b) l
    let nan := fun l => fp32.isNan (A l).toNat || fp32.isNan (B l).toNat
    let less := fun m n : Nat => fp32.rank m < fp32.rank n ∧ ¬(fp32.mag m = 0 ∧ fp32.mag n = 0)
    let same := fun m n : Nat => m = n ∨ (fp32.mag m = 0 ∧ fp32.mag n = 0)
    let holds := fun l =>
      let m := (A l).toNat
      let n := (B l).toNat
      match j with
      | .un => nan l
      | .ord => !nan l
      | .ne => nan l || decide (¬same m n)
      | .eq => !nan l && decide (same m n)
      | .lt => !nan l && decide (less m n)
      | .le => !nan l && decide (less m n ∨ same m n)
      | .gt => !nan l && decide (less n m)
      | .ge => !nan l && decide (less n m ∨ same m n)
    (t = .i32 ∨ t = .u32 → ∃ v : Lanes, exec (.vcmp x k t d a b) s = .next (setP s g g d v) ∧
      ∀ l : Nat, l < 32 → v.getLsbD l = compares k (eltNum t (A l) 0) (eltNum t (B l) 0)) ∧
    ∃ v : Lanes, exec (.vfcmp x j d a b) s = .next (setP s g g d v) ∧
      ∀ l : Nat, l < 32 → v.getLsbD l = holds l

/-- R283 to R285, R360, R361, R369 to R372: the floating-point words, element by element, on the formats'
own operations; and of these the NaN operands, generated NaNs, signed zeros and class words, for every
code of the vector unit's formats. -/
def Obligations.VectorFloatResult : Prop :=
  (∀ (s : State) (w : Warp), s.issue.snap = some w → s.regPoison = [] →
    ∀ (x : Ext) (t : FTy) (d a b c : VOp),
    let f := floatFmt t
    let n := f.bits
    let A := fun l h => elt n (w.lane (w.vidx x a) l) h
    let B := fun l h => elt n (w.lane (w.vidx x b) l) h
    let C := fun l h => elt n (w.lane (w.vidx x c) l) h
    let put := fun r : Nat → Nat → Nat =>
      Host.Outcome.next (setV s (w.vidx x d) (w.guard x) fun l => ofElts n fun h => (r l h : Int))
    let special := fun k : Special =>
      Host.Outcome.next (setV s (w.vidx x d) (w.guard x) fun l =>
        BitVec.ofNat 32 (k.apply (w.lane (w.vidx x a) l).toNat))
    exec (.vfadd x t d a b) s = put (fun l h => f.add (A l h) (B l h)) ∧
    exec (.vfsub x t d a b) s = put (fun l h => f.sub (A l h) (B l h)) ∧
    exec (.vfmul x t d a b) s = put (fun l h => f.mul (A l h) (B l h)) ∧
    exec (.vfma x t d a b c) s = put (fun l h => f.fma false (A l h) (B l h) (C l h)) ∧
    exec (.vfms x t d a b c) s = put (fun l h => f.fma true (A l h) (B l h) (C l h)) ∧
    exec (.vfmin x t d a b) s = put (fun l h => f.fmin (A l h) (B l h)) ∧
    exec (.vfmax x t d a b) s = put (fun l h => f.fmax (A l h) (B l h)) ∧
    exec (.vfabs x t d a) s = put (fun l h => A l h % 2 ^ (n - 1)) ∧
    exec (.vfneg x t d a) s = put (fun l h => A l h + 2 ^ (n - 1)) ∧
    exec (.vfclass x t d a) s = put (fun l h => f.classWord (A l h)) ∧
    exec (.vrcp x d a) s = special .rcp ∧
    exec (.vrsq x d a) s = special .rsq ∧
    exec (.vsqrt x d a) s = special .sqrt ∧
    exec (.vexp2 x d a) s = special .exp2 ∧
    exec (.vlog2 x d a) s = special .log2 ∧
    exec (.vsin x d a) s = special .sin ∧
    exec (.vcos x d a) s = special .cos ∧
    exec (.vtanh x d a) s = special .tanh) ∧
  ∀ f : FFmt, f = fp32 ∨ f = fp16 ∨ f = bf16 → ∀ a b c : Nat,
    a < 2 ^ f.bits → b < 2 ^ f.bits → c < 2 ^ f.bits →
    (f.isNan a = true → f.add a b = f.quiet a ∧ f.sub a b = f.quiet a ∧ f.mul a b = f.quiet a ∧
      f.fma false a b c = f.quiet a ∧ f.fmin a b = f.quiet a ∧ f.fmax a b = f.quiet a) ∧
    (f.isNan a = false → f.isNan b = true → f.add a b = f.quiet b ∧ f.sub a b = f.quiet b ∧
      f.mul a b = f.quiet b ∧ f.fma true a b c = f.quiet b ∧ f.fmin a b = f.quiet b ∧
      f.fmax a b = f.quiet b) ∧
    f.add f.top (f.sign + f.top) = f.nanGen 4 ∧ f.sub f.top f.top = f.nanGen 4 ∧
    f.mul 0 f.top = f.nanGen 5 ∧ (f.isNan c = false → f.fma false (f.sign + f.top) 0 c = f.nanGen 5) ∧
    f.fmin 0 f.sign = f.sign ∧ f.fmax f.sign 0 = 0 ∧
    f.add 0 f.sign = 0 ∧ f.add f.sign f.sign = f.sign ∧ f.sub 0 0 = 0 ∧
    (f.isNan a = false → f.isInf a = false → f.round .rne (f.num a) = a) ∧
    (f.isNan a = false → (List.range 10).countP (fun i => f.classWord a / 2 ^ i % 2 == 1) = 1)

/-! ## Conversions and scale registers -/

/-- R342, R343, R375, R376: SCVT, VCVT, and the forms of VPACK and VUNPACK that are not MX. -/
def Obligations.ConvertResult : Prop :=
  ∀ (s : State) (w : Warp), s.issue.snap = some w → s.regPoison = [] →
    ∀ (x : Ext) (t u : NTy) (e c : SReg) (d a : VOp) (rz : Bool),
    let g := w.guard x
    let D := w.vidx x d
    let A := w.vidx x a
    exec (.scvt x t u e c rz) s = .next
      (setS s g e (BitVec.ofInt 64 (ntyConvert t rz (ntyRead u (w.sget c).toNat)))) ∧
    exec (.vcvt x t u d a rz) s = .next
      (setV s D g fun l => BitVec.ofInt 32 (ntyConvert t rz (ntyRead u (w.lane A l).toNat))) ∧
    (t = .f16 ∨ t = .bf16 ∨ t = .i16 ∨ t = .i8 →
      exec (.vpack x t u d a rz) s = .next (setV s D g fun l =>
        ofElts (ntyBits t) fun h => ntyConvert t rz (ntyRead u (w.lane (A + h) l).toNat))) ∧
    (u = .f16 ∨ u = .bf16 ∨ u = .i16 → exec (.vunpack x t u d a) s = .next
      ((List.range 2).foldl (fun s h => setV s (D + h) g fun l =>
        BitVec.ofInt 32 (ntyConvert t false (ntyRead u (elt 16 (w.lane A l) h)))) s)) ∧
    exec (.vunpack x t .i8 d a) s = .next
      ((List.range 4).foldl (fun s h => setV s (D + h) g fun l =>
        BitVec.ofInt 32 (ntyConvert t false (ntyRead .i8 (elt 8 (w.lane A l) h)))) s)

/-- R287, R290, R377, R378: the MX forms of VPACK, which write every lane and the whole scale register,
and of VUNPACK. -/
def Obligations.MxConvertResult : Prop :=
  ∀ (s : State) (w : Warp), s.issue.snap = some w → s.regPoison = [] →
    ∀ (x : Ext) (d a : VOp) (rz : Bool) (k : NTy × FFmt),
    k = (.e4m3, e4m3) ∨ k = (.e5m2, e5m2) ∨ k = (.e2m3, e2m3) ∨ k = (.e3m2, e3m2) ∨
      k = (.e2m1, e2m1) →
    let g := w.guard x
    let D := w.vidx x d
    let A := w.vidx x a
    let f := k.2
    let n := if k.1 = .e2m1 then 8 else 4
    let block := fun j => requantise f (fun _ => .rne) (blockValues w (A + j) g)
    let image := packed (32 * f.bits) n fun j => packed f.bits 32 fun i => (block j).2.getD i 0
    (g = 0 → exec (.vpack x k.1 .f32 d a rz) s = .next s) ∧
    (g ≠ 0 → exec (.vpack x k.1 .f32 d a rz) s = .next
      (setK (setV s D (BitVec.allOnes 32) (imageLane image)) g D
        (BitVec.ofNat 64 (packed 8 n fun j => (block j).1)))) ∧
    exec (.vunpack x .f32 k.1 d a) s = .next
      ((List.range n).foldl (fun s j => setV s (D + j) g fun l => BitVec.ofNat 32
        (f.decodeMx ((w.kget A).toNat / 2 ^ (8 * j) % 256)
          (imageOf w A / 2 ^ (32 * f.bits * j + f.bits * l) % 2 ^ f.bits))) s) ∧
    exec (.vunpack x .f32 .ts8 d a) s = .next
      ((List.range 4).foldl (fun s j => setV s (D + j) g fun l => BitVec.ofNat 32
        (decodeTs8 ((w.kget A).toNat / 2 ^ (8 * j) % 256)
          (imageOf w A / 2 ^ (256 * j + 8 * l) % 256))) s)

/-- R313, R379, R380: KMOV, KSET, KGET and KAMAX. -/
def Obligations.ScaleRegisterResult : Prop :=
  ∀ (s : State) (w : Warp), s.issue.snap = some w → s.regPoison = [] →
    ∀ (x : Ext) (d a : VOp) (e : SReg) (t : MxF),
    let g := w.guard x
    let n := if t = .e2m1 then 8 else 4
    let values := fun j => blockValues w (w.vidx x a + j) (BitVec.allOnes 32)
    exec (.kmov x d a) s = .next (setK s g (w.vidx x d) (w.kget (w.vidx x a))) ∧
    exec (.kset x d e) s = .next (setK s g (w.vidx x d) (w.sget e)) ∧
    exec (.kget x e a) s = .next (setS s g e (w.kget (w.vidx x a))) ∧
    exec (.kamax x t d a) s = .next (setK s g (w.vidx x d) (BitVec.ofNat 64 (packed 8 n fun j =>
      if (values j).any fp32.isNan then 255
      else (scaleExp (mxFmt t) (((values j).map fp32.mag).foldl max 0) + 127).toNat)))

/-! ## Cross-lane words -/

/-- R383 to R385: the shuffles read a lane of their own tile, active or not; the votes are of the
active lanes of a tile. Where the rules leave it open, this is the model's choice: log 23. -/
def Obligations.ShuffleVoteResult : Prop :=
  ∀ (s : State) (w : Warp), s.issue.snap = some w → s.regPoison = [] →
    ∀ (x : Ext) (d a b : VOp) (n : BitVec 5) (p q : PReg) (e : SReg),
    let g := w.guard x
    let T := tileSize w
    let start := tileStart w
    let put := fun src : Nat → Nat =>
      Host.Outcome.next (setV s (w.vidx x d) g fun l => w.lane (w.vidx x a) (src l))
    exec (.vshfl x d a b) s = put (fun l => start l + (w.lane (w.vidx x b) l).toNat % T) ∧
    exec (.vshflup x d a n) s = put (fun l => if start l + n.toNat ≤ l then l - n.toNat else l) ∧
    exec (.vshfldn x d a n) s = put (fun l => if l + n.toNat < start l + T then l + n.toNat else l) ∧
    exec (.vshflx x d a n) s = put (fun l => start l + Nat.xor (l - start l) (n.toNat % T)) ∧
    (∃ v : Lanes, exec (.vvote x .all (p.setWidth 6) q) s = .next (setP s g g p v) ∧
      ∀ l : Nat, l < 32 → (v.getLsbD l = true ↔
        ∀ m : Nat, m < 32 → start m = start l → g.getLsbD m = true → (w.pget q).getLsbD m = true)) ∧
    (∃ v : Lanes, exec (.vvote x .any (p.setWidth 6) q) s = .next (setP s g g p v) ∧
      ∀ l : Nat, l < 32 → (v.getLsbD l = true ↔
        ∃ m : Nat, m < 32 ∧ start m = start l ∧ g.getLsbD m = true ∧
          (w.pget q).getLsbD m = true)) ∧
    exec (.vvote x .ballot e q) s = .next
      (setS s g e (BitVec.ofNat 64 (w.pget q &&& g).toNat))

/-- R292 to R294, R386, R387: the fixed trees of VRED and VSCAN, and the draw of VRAND at the draw index as the words
before it in its group have left it, which then advances by 1.
Where the rules leave it open, this is the model's choice: log 11. -/
def Obligations.TreeRandomResult : Prop :=
  ∀ (s : State) (w : Warp), s.issue.snap = some w → s.regPoison = [] →
    ∀ (x : Ext) (d a : VOp) (t : RTy) (o : ROp) (e : SReg),
    let g := w.guard x
    let unit := treeUnit t o
    let leaf := fun l i =>
      if g.getLsbD (tileStart w l + i) then (w.lane (w.vidx x a) (tileStart w l + i)).toNat else unit
    let scan := fun l n => (treeBlocks (treeOp t o) (leaf l) n 6 0 none).getD unit
    let put := fun r : Nat → Nat =>
      Host.Outcome.next (setV s (w.vidx x d) g fun l => BitVec.ofNat 32 (r l))
    let word := fun (k : Fin 4) l =>
      (vrandDraw (w.sget e) (BitVec.ofNat 32 (32 * (512 * w.place.bolt.toNat + 32 * w.place.gidx.toNat +
        w.place.widx.toNat) + l)) s.w.ctl.draw)[k]
    exec (.vred x t d a o) s = put (fun l => treeNode (treeOp t o) (leaf l) w.ctl.part.code 0) ∧
    exec (.vscan x t d a false o) s = put (fun l => scan l (l - tileStart w l + 1)) ∧
    exec (.vscan x t d a true o) s = put (fun l => scan l (l - tileStart w l)) ∧
    (g = 0 → exec (.vrand x d e) s = .next s) ∧
    (g ≠ 0 → ∃ v, exec (.vrand x d e) s = .next v ∧
      v = { (List.finRange 4).foldl (fun s k => setV s (w.vidx x d + k.val) g (word k)) s with
            w := { ((List.finRange 4).foldl (fun s k => setV s (w.vidx x d + k.val) g (word k)) s).w with
              ctl := { s.w.ctl with draw := s.w.ctl.draw + 1 } } })

/-! ## Control words -/

/-- R344 to R348, R355: branches by packets from the packet at issue, calls, returns, and NOP. -/
def Obligations.BranchResult : Prop :=
  ∀ (s : State) (w : Warp), s.issue.snap = some w → ∀ (x : Ext) (f : BitVec 37) (d a : SReg),
    let g := w.guard x
    let target := s.issue.pc + BitVec.ofInt 64 (12 * f.toInt)
    exec (.br x f) s = .next (if g ≠ 0 then goTo s target else s) ∧
    exec (.bra x f) s = .next (if g = w.ctl.am then goTo s target else s) ∧
    exec (.brv x f) s = .next (if g = 0 then goTo s target else s) ∧
    exec (.call x d f) s = .next (if g = 0 then s else goTo (setS s g d (s.issue.pc + 12)) target) ∧
    exec (.ret x a) s = .next (if g = 0 then s else goTo s (w.sget a)) ∧
    exec (.jmpi x a) s = .next (if g = 0 then s else goTo s (w.sget a)) ∧
    exec (.nop x) s = .next s

/-- R349, R350: the six mask-stack words, each on the top entry of a stack that is not empty. -/
def Obligations.MaskStackResult : Prop :=
  ∀ (s : State) (w : Warp), s.issue.snap = some w →
    ∀ (x : Ext) (f : BitVec 39) (e : MaskEntry) (st : List MaskEntry),
    let am := w.ctl.am
    let pred := if x.gn then ~~~(w.pget x.gp) else w.pget x.gp
    let g := pred &&& am
    let target := s.issue.pc + BitVec.ofInt 64 (12 * f.toInt)
    let loop := pred &&& (am ||| e.rest)
    exec (.mif x f) s = .next
      (if g = 0 then goTo (setMask s am (⟨am, 0⟩ :: w.ctl.stack)) target
       else setMask s g (⟨am, am &&& ~~~g⟩ :: w.ctl.stack)) ∧
    (w.ctl.stack = e :: st →
      exec (.melse x f) s = .next
        (if e.rest ≠ 0 then setMask s e.rest (⟨e.outer, 0⟩ :: st)
         else goTo (setMask s e.outer (e :: st)) target) ∧
      exec (.mend x) s = .next (setMask s e.outer st) ∧
      exec (.mloop x f) s = .next
        (if loop ≠ 0 then goTo (setMask s loop (⟨e.outer, 0⟩ :: st)) target
         else setMask s e.outer st) ∧
      exec (.mbrk x f) s = .next
        (let t := setMask s (am &&& ~~~g) (e :: st)
         if am &&& ~~~g = 0 then goTo t target else t) ∧
      exec (.mcont x f) s = .next
        (let t := setMask s (am &&& ~~~g) (⟨e.outer, e.rest ||| g⟩ :: st)
         if am &&& ~~~g = 0 then goTo t target else t))

/-- R159, R253, R356 to R358: REGION, which records the control state as the words before it in its group have left it,
EXIT and YIELD. Where the rules leave it open, this is the model's choice: log 11. -/
def Obligations.WarpControlResult : Prop :=
  ∀ (s : State) (w : Warp), s.issue.snap = some w → ∀ x : Ext,
    exec (.region x) s = .next
      (if w.guard x = 0 then s
       else { s with w := { s.w with region :=
                ⟨s.issue.pc, s.issue.widx + BitVec.ofNat 2 s.issue.pos, s.w.region.seq + 1, s.w.ctl⟩ } }) ∧
    (w.guard x = 0 → exec (.exit x) s = .next s ∧ exec (.yield x) s = .next s) ∧
    (w.guard x ≠ 0 → s.readyPending s.w.place.core = [] ∨ s.fewWarps s.w.place.core = true →
      exec (.yield x) s = .next s) ∧
    (w.guard x ≠ 0 → ∃ t, exec (.exit x) s = .next t ∧ t.w.exited = true ∧
      t.w.sched.state = .exiting ∧ t.w.regs = s.w.regs ∧ t.w.cnt = s.w.cnt ∧ t.mem = s.mem ∧
      t.ops = s.ops) ∧
    (w.guard x ≠ 0 → s.w.sched.state = .active → s.w.place.wid ≠ 0 →
      (∀ v ∈ s.rest, v.place.wid ≠ s.w.place.wid) →
      ∀ v vs, s.readyPending s.w.place.core = v :: vs → v ∈ s.rest → s.fewWarps s.w.place.core = false →
      ∃ t, exec (.yield x) s = .next t ∧ t.w.sched.state = .pending ∧ t.w.regs = s.w.regs ∧
        t.w.pc = s.w.pc ∧ t.mem = s.mem)

/-! ## Waits, fences and monitors -/

/-- R141, R158, R228, R231, R239, R244, R249, R406, R410, R455, R458: WAIT, the acquire part of FENCE, OFENCE, EFENCE
and OFLUSH complete when their condition holds and hold the group otherwise, a WAIT or EFENCE that covers held atomics
also until the warp's epoch has been flushed; OFENCE then takes the registers and the scratch as the
later loom requests of the warp may read them, and the release part of FENCE, where earlier accesses are not
complete, stays in flight while the warp issues on.
Where the rules leave it open, this is the model's choice: log 11, 13, 14, 59. -/
def Obligations.WaitFenceResult : Prop :=
  ∀ (s : State) (w : Warp), s.issue.snap = some w → ∀ (x : Ext) (l c : BitVec 6) (k t : BitVec 4),
    let met := w.cnt.lc.length ≤ l.toNat ∧ w.cnt.sc.length ≤ c.toNat ∧ w.cnt.cc.length ≤ k.toNat ∧
      w.cnt.tc.length ≤ t.toNat
    let zero := w.cnt.lc = [] ∧ w.cnt.sc = [] ∧ w.cnt.cc = [] ∧ w.cnt.tc = []
    (w.guard x = 0 → exec (.wait x l c k t) s = .next s ∧ (∀ r, exec (.fence x r) s = .next s) ∧
      exec (.ofence x) s = .next s ∧ exec (.efence x) s = .next s ∧ exec (.oflush x) s = .next s) ∧
    (w.guard x ≠ 0 →
      (¬met → exec (.wait x l c k t) s = .next (heldWith s (.wait l c k t))) ∧
      (¬zero → exec (.efence x) s = .next (heldWith s .drain)) ∧
      (s.w.env.ordered = false ∨ s.w.flushing = false ∨ s.w.covering = false →
        (met → exec (.wait x l c k t) s = .next s) ∧ (zero → exec (.efence x) s = .next s)) ∧
      (∀ b, s.w.env.ordered = true → s.w.flushing = true → s.w.covering = true → s.bolt? s.w.place.bid = some b →
        let after := fun i : Instr =>
          exec i s = .next (if s.w.epoch ≤ b.flushed then s else heldWith s .flush)
        (met → after (.wait x l c k t)) ∧ (zero → after (.efence x))) ∧
      exec (.fence x .rlx) s = .next s ∧
      (s.releaseMet w = true → exec (.fence x .rel) s = .next s) ∧
      (s.releaseMet w = false → w.issued < s.w.issued → (∀ e ∈ s.held, e.op < s.serial) → ∃ o : Op,
        exec (.fence x .rel) s = .next { s with serial := s.serial + 1, ops := s.ops ++ [o] } ∧
        o.id = s.serial ∧ o.kind = .fence ∧ o.wid = w.place.wid ∧ o.seq = s.w.issued) ∧
      (s.acquireMet w = true → s.w.env.ordered = false →
        exec (.fence x .acq) s = .next (acquired s s.w.place.core)) ∧
      (s.acquireMet w = false → exec (.fence x .acq) s = .next (heldWith s (.fence .acq))) ∧
      (s.ofenceMet w = false → exec (.ofence x) s = .next (heldWith s .ofence)) ∧
      (s.ofenceMet w = true → ∀ g : Group, s.group? w.place.gid = some g → exec (.ofence x) s = .next
        { s with w := { s.w with fenced := fileOf s.w, fencedMem := g.scratch, fenceSeq := s.w.issued } }) ∧
      (s.w.env.ordered = false → exec (.oflush x) s = .next s) ∧
      (∀ b, s.w.env.ordered = true → s.bolt? s.w.place.bid = some b →
        exec (.oflush x) s = .next (if s.w.epoch ≤ b.flushed then s else heldWith s .flush)))

/-- R205, R206, R407 to R409: MWATCH and MWAIT on a word of scratch, PGREQ, and PGPREF, which changes
no register and raises no fault. -/
def Obligations.MonitorPageResult : Prop :=
  ∀ (s : State) (w : Warp), Quiet s w → ∀ g : Group, GroupIs s w g →
    ∀ (x : Ext) (w64 : Bool) (a b : SReg) (f : BitVec 29), w.guard x ≠ 0 →
    let at_ := w.sget a + f.signExtend 64
    let n := if w64 then 8 else 4
    let old := w.mwAddr.toNat % 2 ^ 60
    (at_.toNat % n = 0 → at_.toNat < w.env.scratch → at_.toNat < 2 ^ 60 →
      exec (.mwatch x w64 .s a f) s = .next { s with w := { s.w with
        mwAddr := BitVec.ofNat 64 (at_.toNat + 2 ^ 61 + (if w64 then 2 ^ 60 else 0))
        mwOld := BitVec.ofNat 64 (wordAt g.scratch at_.toNat n) } }) ∧
    (at_.toNat % n ≠ 0 → s.w.faults = [] → ∃ r : FaultRec, exec (.mwatch x w64 .s a f) s =
      .next { s with w := { s.w with mwAddr := 0, faults := [r] } } ∧ r.cause = 0x13 ∧ r.addr = at_) ∧
    (w.mwAddr = 0 → exec (.mwait x) s = .next (acquired s w.place.core)) ∧
    (w.busy = .none → w.mwAddr.toNat / 2 ^ 60 = 2 → old % 4 = 0 → old < w.env.scratch →
      exec (.mwait x) s = .next
        (if wordAt g.scratch old 4 ≠ w.mwOld.toNat then
           { acquired s w.place.core with w := { s.w with busy := .none, watched := [] } }
         else heldWith s .mwait)) ∧
    exec (.pgreq x a b) s = .next { s with w := { s.w with
      busy := .pgreq (BitVec.ofNat 64 ((w.sget a).toNat / 2 ^ 16 * 2 ^ 16)) (w.sget b) } } ∧
    ∃ t, exec (.pgpref x a f) s = .next t ∧
      t = { s with mem := t.mem, tlb := t.tlb, slices := t.slices, l1 := t.l1, draws := t.draws } ∧
      (s.translate w.xctx .load at_ true).2 = { t with tlb := (s.translate w.xctx .load at_ true).2.tlb }

/-! ## Loads, stores and atomics -/

/-- R157, R389 to R392, R394: LD, VLD and VLDG from scratch, from issue to the return of every element;
the residency predicate is cleared in the lanes of the access.
Where the rules leave it open, this is the model's choice: log 15, 34. -/
def Obligations.ScratchLoadResult : Prop :=
  ∀ (s : State) (w : Warp), Quiet s w → ∀ g : Group, GroupIs s w g →
    ∀ (x : Ext) (t : MTy) (o : Bool) (e a : SReg) (d i : VOp) (f : BitVec 20) (k : BitVec 2) (rp : PReg),
    w.guard x ≠ 0 → w.vidx x d < 256 →
    let n := t.bytes
    let G := w.guard x
    let base := w.sget a + f.signExtend 64
    let line := fun l : Nat => (base + BitVec.ofNat 64 (l * n)).toNat
    let gather := fun l : Nat =>
      (w.sget a + (w.lane (w.vidx x i) l).signExtend 64 * BitVec.ofNat 64 (2 ^ k.toNat)).toNat
    let fits := fun addr : Nat → Nat =>
      ∀ l : Nat, l < 32 → G.getLsbD l = true → addr l % n = 0 ∧ addr l < w.env.scratch
    let loaded := fun (u : State) (r : State) => ∃ v, exec (.loadReturn s.serial (BitVec.allOnes 32)) u = .next v ∧
      v = { r with serial := s.serial + 1, tlb := v.tlb, l1 := v.l1 }
    let into := fun addr : Nat → Nat =>
      setV { s with w := s.w.pset rp G 0 } (w.vidx x d) G fun l => imageV t (wordAt g.scratch (addr l) n)
    (base.toNat % n = 0 → base.toNat < w.env.scratch → ∃ u, exec (.ld x t .s o e a f rp) s = .next u ∧
      u.w.cnt.lc.length = 1 ∧ u.w.regs.s = s.w.regs.s ∧
      loaded u (setS { s with w := s.w.pset rp w.ctl.am 0 } G e
        (imageS t (wordAt g.scratch base.toNat n)))) ∧
    (fits line → ∃ u, exec (.vld x t .s o d a f rp) s = .next u ∧ u.w.regs.v = s.w.regs.v ∧
      loaded u (into line)) ∧
    (fits gather → ∃ u, exec (.vldg x t .s o d i k a rp) s = .next u ∧ u.w.regs.v = s.w.regs.v ∧
      loaded u (into gather))

/-- R224, R227, R236, R394: ST, VST and VSTS to scratch, from issue to the performing of every element:
the bytes stored, the highest lane's where lanes overlap, and no other byte.
Where the rules leave it open, this is the model's choice: log 15, 34. -/
def Obligations.ScratchStoreResult : Prop :=
  ∀ (s : State) (w : Warp), Quiet s w → ∀ g : Group, GroupIs s w g →
    ∀ (x : Ext) (t : MTy) (o : Bool) (e a : SReg) (d i : VOp) (f : BitVec 20) (k : BitVec 2),
    w.guard x ≠ 0 → Memory.wf g.scratch = true →
    let n := t.bytes
    let G := w.guard x
    let base := w.sget a + f.signExtend 64
    let line := fun l : Nat => (base + BitVec.ofNat 64 (l * n)).toNat
    let scatter := fun l : Nat =>
      (w.sget a + (w.lane (w.vidx x i) l).signExtend 64 * BitVec.ofNat 64 (2 ^ k.toNat)).toNat
    let data := fun l : Nat => BitVec.ofNat 64 (w.lane (w.vidx x d) l).toNat
    let fits := fun addr : Nat → Nat =>
      ∀ l : Nat, l < 32 → G.getLsbD l = true → addr l % n = 0 ∧ addr l < w.env.scratch
    let done := fun (u : State) (byte : Nat → Option Byte) => u.w.regs = s.w.regs ∧
      ∃ v m, exec (.registrationComplete s.serial (BitVec.allOnes 32)) u = .next v ∧
        v = { setScratch s w m with serial := s.serial + 2, tlb := v.tlb, l1 := v.l1 } ∧
        ∀ b : Nat, cellGet m b = (byte b).getD (cellGet g.scratch b)
    (base.toNat % n = 0 → base.toNat < w.env.scratch → ∃ u, exec (.st x t .s o e a f) s = .next u ∧
      done u (stored 1 (fun _ => base.toNat) n fun _ => w.sget e)) ∧
    (fits line → ∃ u, exec (.vst x t .s o d a f) s = .next u ∧ done u (stored G line n data)) ∧
    (fits scatter → ∃ u, exec (.vsts x t .s o d i k a) s = .next u ∧ done u (stored G scatter n data))

/-- R395 to R397: VLDMX and VSTMX in scratch: byte b of a register's image lies in block j = b / B of B
bytes, and block j at its place in its line, with its scale in the line's slot of that place.
Where the rules leave it open, this is the model's choice: log 34. -/
def Obligations.ScratchMxResult : Prop :=
  ∀ (s : State) (w : Warp), Quiet s w → ∀ g : Group, GroupIs s w g →
    ∀ (x : Ext) (t : MxF) (o : Bool) (d : VOp) (a : SReg) (f : BitVec 20) (rp : PReg),
    w.guard x = BitVec.allOnes 32 → w.vidx x d < 256 → Memory.wf g.scratch = true →
    let D := w.vidx x d
    let base := (w.sget a + f.signExtend 64).toNat
    let B := (mxShape t).1
    let blocks := (mxShape t).2.1
    let perLine := (mxShape t).2.2
    let place := fun j : Nat => base % 256 + j
    let lineOf := fun j : Nat => base / 256 * 256 + 256 * (place j / perLine)
    let elemAt := fun b : Nat => lineOf (b / B) + 16 + B * (place (b / B) % perLine) + b % B
    let slotAt := fun j : Nat => lineOf j + place j % perLine
    let byteOf := fun b : Nat => (w.lane D (b / 4)).toNat / 256 ^ (b % 4) % 256
    base % 256 < perLine → base / 256 * 256 + 512 ≤ w.env.scratch →
    (∃ u v, exec (.vldmx x t .s o d a f rp) s = .next u ∧
      exec (.loadReturn s.serial (BitVec.allOnes 32)) u = .next v ∧
      v = { setK (setV { s with w := s.w.pset rp (BitVec.allOnes 32) 0 } D (BitVec.allOnes 32) fun l =>
              if 4 * l < B * blocks then BitVec.ofNat 32 (wordAt g.scratch (elemAt (4 * l)) 4) else 0)
              (BitVec.allOnes 32) D
              (BitVec.ofNat 64 (packed 8 blocks fun j => (cellGet g.scratch (slotAt j)).toNat)) with
            serial := s.serial + 1, tlb := v.tlb, l1 := v.l1 }) ∧
    ∃ u v m, exec (.vstmx x t .s o d a f) s = .next u ∧ u.w.regs = s.w.regs ∧
      exec (.registrationComplete s.serial (BitVec.allOnes 32)) u = .next v ∧
      v = { setScratch s w m with serial := s.serial + 2, tlb := v.tlb, l1 := v.l1 } ∧
      (∀ b : Nat, b < B * blocks → (cellGet m (elemAt b)).toNat = byteOf b) ∧
      (∀ j : Nat, j < blocks → (cellGet m (slotAt j)).toNat = (w.kget D).toNat / 256 ^ j % 256) ∧
      ∀ k : Nat, (∀ b : Nat, b < B * blocks → k ≠ elemAt b) → (∀ j : Nat, j < blocks → k ≠ slotAt j) →
        cellGet m k = cellGet g.scratch k

/-- R398 to R400: ATOM and VATOM in scratch, the lanes acting one after another, the lowest first.
Where the rules leave it open, this is the model's choice: log 34. -/
def Obligations.ScratchAtomicResult : Prop :=
  ∀ (s : State) (w : Warp), Quiet s w → ∀ g : Group, GroupIs s w g →
    ∀ (x : Ext) (o : AOp) (r : AOrd) (t : ATy) (e a c : SReg) (d i h : VOp) (f : BitVec 12),
    w.guard x ≠ 0 → w.vidx x d < 255 → (t = .f32 → o = .xchg ∨ o = .add ∨ o = .min ∨ o = .max ∨ o = .cas) →
    let n := t.bytes
    let G := w.guard x
    let D := w.vidx x d
    let base := (w.sget a + f.signExtend 64).toNat
    let addr := fun l : Nat => (w.sget a + (w.lane (w.vidx x i) l).signExtend 64).toNat
    let wide := fun i l : Nat => BitVec.ofNat 64
      ((w.lane i l).toNat + if t = .i64 then 2 ^ 32 * (w.lane (i + 1) l).toNat else 0)
    let one := atomLane o t (fun _ => base) (fun _ => w.sget e) (fun _ => w.sget c) (g.scratch, fun _ => 0) 0
    let all := (lanesOf G).foldl (atomLane o t addr (wide D) (wide (w.vidx x h))) (g.scratch, fun _ => 0)
    let every := BitVec.allOnes 32
    let counted := fun q : State => { q with w := { q.w with atomSeq := s.w.atomSeq + 1 } }
    let performed := fun (u v : State) (q : State) => u.w.regs = s.w.regs ∧
      exec (.atomicPerform s.serial every) u = .next v ∧
      v = { counted q with serial := s.serial + 2, tlb := v.tlb, l1 := v.l1 }
    let returned := fun (u : State) (q : State) => u.w.regs = s.w.regs ∧ ∃ v z,
      exec (.atomicPerform s.serial every) u = .next v ∧ exec (.loadReturn s.serial every) v = .next z ∧
      z = { counted q with serial := s.serial + 2, tlb := z.tlb, l1 := z.l1 }
    (base % n = 0 → base < w.env.scratch →
      (∃ u v, exec (.atom x o r t .s true e a f c) s = .next u ∧ performed u v (setScratch s w one.1)) ∧
      ∃ u, exec (.atom x o r t .s false e a f c) s = .next u ∧
        returned u (setScratch (setS s G e (imageS t.image (one.2 0))) w one.1)) ∧
    ((∀ l : Nat, l < 32 → G.getLsbD l = true → addr l % n = 0 ∧ addr l < w.env.scratch) →
      (∃ u v, exec (.vatom x o r t .s true d i a h) s = .next u ∧
        performed u v (setScratch s w all.1)) ∧
      ∃ u, exec (.vatom x o r t .s false d i a h) s = .next u ∧
        returned u (setScratch
          (let q := setV s D G fun l => BitVec.ofNat 32 (all.2 l)
           if t = .i64 then setV q (D + 1) G fun l => BitVec.ofNat 32 (all.2 l / 2 ^ 32) else q) w all.1))

/-- R202, R212, R220, R227, R394: LD and ST of global memory at the physical address that the translation answers,
at the home that its mapping names; a store to a versioned page of a closed domain is made in both its frames.
Where the rules leave it open, this is the model's choice: log 34, 62. -/
def Obligations.GlobalAccessResult : Prop :=
  ∀ (s : State) (w : Warp), Quiet s w → ∀ (x : Ext) (t : MTy) (o : Bool) (e a : SReg) (f : BitVec 20)
    (rp : PReg) (pa : Nat) (h : Die) (s' : State),
    w.guard x ≠ 0 → (w.sget a + f.signExtend 64).toNat % t.bytes = 0 → pa / 2 ^ 51 % 2 = 0 →
    Quiet s' w → (∀ y ∈ s'.l1, y.core ≠ w.place.core ∧ y.ahead = false) → s'.w = s.w → s'.serial = s.serial →
    s'.issue = s.issue →
    let at_ := w.sget a + f.signExtend 64
    let n := t.bytes
    let there := (s'.atHome pa (some h)).1
    let z := (s'.atHome pa (some h)).2
    Memory.wf z.mem = true →
    (s.translate w.xctx .load at_ true = (.ok pa (some h), s') →
      ∃ u v, exec (.ld x t .g o e a f rp) s = .next u ∧
        exec (.loadReturn s.serial (BitVec.allOnes 32)) u = .next v ∧
        v = { setS { z with w := s'.w.pset rp w.ctl.am 0 } (w.guard x) e
                (imageS t (wordAt z.mem there n)) with
              serial := s.serial + 1, tlb := v.tlb, slices := v.slices, l1 := v.l1 }) ∧
    (s.translate w.xctx .store at_ true = (.ok pa (some h), s') →
      ∃ u v, exec (.st x t .g o e a f) s = .next u ∧
        exec (.registrationComplete s.serial (BitVec.allOnes 32)) u = .next v ∧
        v = { z with mem := v.mem, serial := s.serial + 2, tlb := v.tlb, slices := v.slices, l1 := v.l1 } ∧
        StoredAt z v.mem there n fun k => BitVec.ofNat 8 ((w.sget e).toNat / 256 ^ k))

/-- R173, R175, R248, R250, R256, R389, R391: an element that fails a check is not performed and its fault is
pending: misaligned, outside the vault, outside the reed region, and outside scratch; and in VLD and VST, the words of
R389 that reach private memory, outside the private segment, where every active lane names the same offset and all fail.
Where the rules leave it open, this is the model's choice: log 18. -/
def Obligations.AccessFaults : Prop :=
  ∀ (s : State) (w : Warp), Quiet s w → s.w.faults = [] →
    ∀ (x : Ext) (t : MTy) (sp : Sp) (o : Bool) (e a : SReg) (d : VOp) (f : BitVec 20) (rp : PReg) (cause : BitVec 8),
    w.guard x ≠ 0 →
    let G := w.guard x
    let at_ := w.sget a + f.signExtend 64
    let aligned := at_.toNat % t.bytes = 0
    let region : ReedRegion := (s.beam (dieBeam (coreDie w.place.core))).reed.regions[w.env.part]
    ((cause = 0x13 ∧ ¬aligned) ∨ (cause = 0x12 ∧ aligned ∧ w.env.priv * 4 < at_.toNat + t.bytes) →
      let faulted := fun (z : Warp) (r : FaultRec) (u : State) =>
        u = { s with w := { z with faults := [r] }, serial := s.serial + 1, tlb := u.tlb, l1 := u.l1 } ∧
          r.cause = cause ∧ r.addr = at_ ∧ r.flanes = G ∧ r.space = Sp.p.frameCode ∧
          G.getLsbD r.lane.toNat = true ∧ ∀ l : Nat, l < r.lane.toNat → G.getLsbD l = false
      (∃ r u, exec (.vld x t .p o d a f rp) s = .next u ∧ faulted (s.w.pset rp G 0) r u) ∧
        ∃ r u, exec (.vst x t .p o d a f) s = .next u ∧ faulted s.w r u) ∧
    ((cause = 0x13 ∧ ¬aligned ∧ sp ≠ .p) ∨
      (cause = 0x14 ∧ aligned ∧ sp = .v ∧ 2 ^ 34 ≤ at_.toNat) ∨
      (cause = 0x15 ∧ aligned ∧ sp = .r ∧ region.size.toNat * 2 ^ 16 ≤ at_.toNat) ∨
      (cause = 0x10 ∧ aligned ∧ sp = .s ∧ w.env.scratch ≤ at_.toNat) →
    ∃ r u r' v, exec (.ld x t sp o e a f rp) s = .next u ∧
      u = { s with w := { s.w.pset rp w.ctl.am 0 with faults := [r] }
                   serial := s.serial + 1, tlb := u.tlb, l1 := u.l1 } ∧
      r.cause = cause ∧ r.addr = at_ ∧ r.lane = 0 ∧ r.flanes = 1 ∧ r.space = sp.frameCode ∧
      exec (.st x t sp o e a f) s = .next v ∧
      v = { s with w := { s.w with faults := [r'] }, serial := s.serial + 1, tlb := v.tlb } ∧
      r'.cause = cause ∧ r'.addr = at_ ∧ r'.space = sp.frameCode)

/-! ## System words -/

/-- R302, R322, R461 to R463: SRD of every special register and SWR. A read of RMASK clears the flags
that it reads; the clock of a launch that is not ordered has advanced by a free amount since its cluster's latest reading
before this cycle.
Where the rules leave it open, this is the model's choice: log 9, 33. -/
def Obligations.SpecialRegisterResult : Prop :=
  ∀ (s : State) (w : Warp), s.issue.snap = some w → ∀ (x : Ext) (d a : SReg), w.guard x ≠ 0 →
    let g := w.guard x
    let e := w.env
    let p := w.place
    let reads := fun (r : SpReg) (v : Nat) => exec (.srd x d r) s = .next (setS s g d (BitVec.ofNat 64 v))
    let unseen := fun v : Nat => if e.ordered then 0 else v
    let die := p.core / 192 % 8
    exec (.srd x d .rmask) s = .next
      (setS { s with w := { s.w with rmask := s.w.rmask &&& ~~~w.rmask } } g d (w.rmask.setWidth 64)) ∧
    reads .draw w.ctl.draw.toNat ∧ reads .rseq w.region.seq.toNat ∧
    reads .boltlo (p.bolt.toNat % 2 ^ 64) ∧ reads .bolthi (p.bolt.toNat / 2 ^ 64) ∧
    (p.core < 2 ^ 16 → reads .who (unseen p.core * 2 ^ 48 + unseen die * 2 ^ 40 + unseen p.slot.toNat * 2 ^ 32 +
      unseen p.num.toNat * 2 ^ 16 + p.widx.toNat * 2 ^ 8 + p.gidx.toNat)) ∧
    reads .launch (e.vdom.toNat * 2 ^ 20 + e.versioned.toNat * 2 ^ 19 + e.persist.toNat * 2 ^ 18 +
      e.idem.toNat * 2 ^ 17 + e.ordered.toNat * 2 ^ 16 + e.ctx.val * 2 ^ 8 + unseen e.tag.toNat) ∧
    reads .plyheat (unseen (s.plies[coreDie p.core]).heat.toNat) ∧
    reads .hscr0 w.hscr0.toNat ∧ reads .hscr1 w.hscr1.toNat ∧
    reads .tframe (((s.parts[e.part]).tfBase.toNat + p.num.toNat) * 2 ^ 16) ∧
    reads .ctxid (((s.beams[e.beam]).ctxs[e.ctx]).asid.toNat * 2 ^ 52 + e.part.val) ∧
    (e.ordered = true → exec (.srd x d .clock) s = .next
      (setS s g d (w.lclock + BitVec.ofNat 64 (if w.handler then 0 else s.issue.pos)))) ∧
    (e.ordered = false →
      let last : Nat × Word64 := (s.clocks.find? fun c => c.1 == p.core / 4).elim (0, 0) Prod.snd
      (last.1 = s.time → last.1 ≠ 0 → exec (.srd x d .clock) s = .next (setS s g d last.2)) ∧
      (last.1 ≠ s.time ∨ last.1 = 0 → ∃ (n : BitVec 32) (t : State), exec (.srd x d .clock) s = .next t ∧
        t = setS { s with clocks := t.clocks, draws := s.draws + 1 } g d (last.2 + n.setWidth 64))) ∧
    exec (.swr x a .hscr0) s = .next { s with w := { s.w with hscr0 := w.sget a } } ∧
    exec (.swr x a .hscr1) s = .next { s with w := { s.w with hscr1 := w.sget a } }

/-- R209, R456, R460: TFENCE waits for its release part and then for a sweep that it asks for, and
TLBINV asks for the removal of entries; each only where its guard is not empty. -/
def Obligations.TranslationFenceResult : Prop :=
  ∀ (s : State) (w : Warp), Quiet s w → s.sweeps = [] → ∀ (x : Ext) (d a : SReg),
    (w.guard x = 0 → exec (.tfence x d) s = .next s ∧ exec (.tlbinv x a) s = .next s) ∧
    (w.guard x ≠ 0 →
      (∃ t, exec (.tfence x d) s = .next t ∧ t.w = { s.w with busy := .sweep s.serial d } ∧
        t.sweeps = [⟨s.serial, w.env.part, .tfence w.place.wid, true, 0, 0, [], []⟩] ∧
        (∀ e ∈ t.tlb, e.part ≠ w.env.part) ∧
        (∀ e ∈ s.tlb, e.part ≠ w.env.part → e ∈ t.tlb) ∧ t.groups = s.groups) ∧
      exec (.tlbinv x a) s = .next
        { s with
          serial := s.serial + 1
          tlbinvs := s.tlbinvs ++
            [⟨s.serial, w.env.part, (s.ctx w.env.beam w.env.ctx).asid, w.sget a⟩] })

/-- R202, R212, R225, R247, R255, R257, R272, R465, R466: TRET waits for the handler's operations, then reloads the warp
from the frame, whose 4 KiB granules lie where their translations say, as the warp's own stores have left it, and leaves
handler mode: with RMODE 0 it goes back to the region entry and
the control state there, with RMODE 1 to the recorded group, or to the one after it where the cause is precise. A frame
that cannot be read, or that holds a field out of range, kills the group.
Where the rules leave it open, this is the model's choice: log 32. -/
def Obligations.TretResult : Prop :=
  ∀ (s : State) (w : Warp), s.issue.snap = some w → s.w.place = w.place → s.w.env = w.env → w.place.wid ≠ 0 →
    (∀ v ∈ s.rest, v.place.wid ≠ w.place.wid) → ∀ x : Ext,
    (w.guard x = 0 → exec (.tret x) s = .next s) ∧
    (w.guard x ≠ 0 → w.cnt.isZero = false → exec (.tret x) s = .next (heldWith s .tret)) ∧
    (w.guard x ≠ 0 → w.cnt = Counters.zero →
    let dies := fun (u : State) (cause : BitVec 8) => ∀ (g : Group) (l : Launch), GroupIs u w g →
      u.launch? g.lid = some l →
      ∃ t, exec (.tret x) s = .next t ∧ (∀ h ∈ t.groups, h.gid ≠ w.place.gid) ∧
        (t.parts[l.part]).killCause = cause ∧ (t.parts[l.part]).killCtx = BitVec.ofNat 4 l.ctx.val
    (∀ s' : State, s.translate w.xctx .load (s.frameVa w) true = (.protect, s') → ∃ u, s.framePas w .load = (.error 0x10, u) ∧
      dies u 0x10) ∧
    (∀ s' : State, s.translate w.xctx .load (s.frameVa w) true = (.nonres, s') → ∃ u, s.framePas w .load = (.error 0x11, u) ∧
      dies u 0x11) ∧
    ∀ (pas : List Nat) (s' : State), s.framePas w .load = (.ok pas, s') →
    (∀ o ∈ s'.ops, o.wid = w.place.wid → o.isAtomic = false) →
    (∀ (e : BitVec 8) (u : State), s'.readFrame w pas = (.error e, u) → dies u e) ∧
    ∀ (m : List Host.Cell) (u : State), s'.readFrame w pas = (.ok m, u) → u.w = s.w → u.rest = s.rest →
    let word := fun k n => wordAt m (pas.getD (k / 4096) 0 + k % 4096) n
    let f10 := word 0x10 8
    let f30 := word 0x30 8
    let pc : Word64 := BitVec.ofNat 64 (word 0 8)
    let widx := f10 / 2 ^ 40 % 4
    let rmode := f10 / 2 ^ 46 % 2
    let precise := f10 / 2 ^ 42 % 2
    let legal := (∀ c ∈ [f30 / 2 ^ 48 % 8, f30 / 2 ^ 51 % 8], 1 ≤ c ∧ c ≤ 5) ∧ f30 / 2 ^ 54 % 64 ≤ 32 ∧
      word 0x38 8 / 2 ^ 20 % 64 ≤ 32
    (s'.held = [] → s'.ops = [] → (∀ a ∈ pas, a % 4096 = 0 ∧ a / 2 ^ 51 % 2 = 0) → (∀ y ∈ s'.l1, y.ahead = false) →
      m = s'.mem ∧ u.mem = s'.mem) ∧
    (¬legal → dies u 0x01) ∧
    (legal → ∃ t, exec (.tret x) s = .next t ∧ t.w.handler = false ∧ t.w.rmask = BitVec.ofNat 32 f30 ∧
      t.w.region.pc = BitVec.ofNat 64 (word 0x08 8) ∧ t.w.region.seq = BitVec.ofNat 32 f10 ∧
      (rmode = 0 → t.w.pc = BitVec.ofNat 64 (word 0x08 8) ∧ t.w.widx = BitVec.ofNat 2 (f10 / 2 ^ 60) ∧
        t.w.ctl = t.w.region.ctl ∧ t.w.ctl.am = BitVec.ofNat 32 (word 0x28 8 / 2 ^ 32) ∧
        t.w.ctl.draw = BitVec.ofNat 64 (word 0x58 8)) ∧
      (rmode = 1 → t.w.ctl.am = BitVec.ofNat 32 (word 0x28 8) ∧ t.w.ctl.draw = BitVec.ofNat 64 (word 0x50 8)) ∧
      (rmode = 1 → precise = 0 → t.w.pc = pc ∧ t.w.widx = BitVec.ofNat 2 widx) ∧
      (rmode = 1 → precise = 1 → ∀ (ws : List (BitVec 32)) (n : Nat),
        (u.fetchPacket { w with handler := false } pc).1 = .ok ws → ws.length = 3 → 0 < n → widx + n ≤ 3 →
        (∀ k : Nat, k + 1 < n → (ws.getD (widx + k) 0).getLsbD 31 = true) →
        (ws.getD (widx + n - 1) 0).getLsbD 31 = false →
        t.w.pc = (if widx + n = 3 then pc + 12 else pc) ∧
          t.w.widx = (if widx + n = 3 then 0 else BitVec.ofNat 2 (widx + n))) ∧
      (∀ i : Fin 64, i.val < s.w.env.sregs → t.w.regs.s[i] = BitVec.ofNat 64 (word (0x300 + 8 * i.val) 8)) ∧
      (∀ (i : Fin 256) (l : Fin 32), i.val < s.w.env.vregs →
        t.w.lane i.val l.val = BitVec.ofNat 32 (word (0x2000 + 128 * i.val + 4 * l.val) 4)) ∧
      (∀ i : Fin 256, i.val < s.w.env.vregs →
        t.w.kget i.val = BitVec.ofNat 64 (word (0x1000 + 8 * i.val) 8)) ∧
      (∀ i : Fin 16, 0 < i.val → i.val < s.w.env.pregs →
        t.w.regs.p[i] = BitVec.ofNat 32 (word (0x80 + 4 * i.val) 4)) ∧
      t.rest = s.rest ∧ t.mem = u.mem))

/-! ## Traps -/

/-- R202, R212, R247, R250, R251, R252, R257: a warp that has drained takes its trap: the frame, whose 4 KiB granules lie
where their translations say, holds the place, the cause and the registers, and the handler begins with s1 the frame and
s2 the cause; in handler mode, or with traps not enabled, its group is killed. -/
def Obligations.TrapEntryResult : Prop :=
  ∀ (s : State) (w : Warp), s.w = w → w.place.wid ≠ 0 → (∀ v ∈ s.rest, v.place.wid ≠ w.place.wid) →
    w.faults = [] → w.cnt = Counters.zero → s.regPoison = [] → ∀ t : TrapRec, w.trap = some t →
    (w.handler = false → (s.parts[w.env.part]).trapEn = true →
      ∀ (pas : List Nat) (s' : State),
      s.framePas w .store = (.ok pas, s') → s'.w = s.w → s'.rest = s.rest → s'.slices.twins = [] →
      (∀ a ∈ pas, a / 2 ^ 51 % 2 = 0) → pas.length = (0x2000 + 128 * w.env.vregs + 4095) / 4096 →
      pas.Pairwise (fun a b => a + 4096 ≤ b ∨ b + 4096 ≤ a) →
      let at_ := fun k : Nat => pas.getD (k / 4096) 0 + k % 4096
      s'.regPoison = [] → Memory.wf s'.mem = true → w.env.sregs ≤ 64 → w.env.vregs ≤ 256 → w.env.pregs ≤ 16 →
      w.ctl.stack.length ≤ 32 → w.region.ctl.stack.length ≤ 32 →
      ∃ u, exec (.trapTaken w.place.wid) s = .next u ∧ u.w.handler = true ∧
        u.w.pc = BitVec.ofNat 64 ((s'.parts[w.env.part]).trapVa.toNat * 2 ^ 8) ∧ u.w.widx = 0 ∧
        u.w.regs.s[1] = s.frameVa w ∧ u.w.regs.s[2] = t.cause.setWidth 64 ∧
        (∀ i : Fin 64, 3 ≤ i.val → u.w.regs.s[i] = w.regs.s[i]) ∧ u.w.regs.v = w.regs.v ∧
        u.w.regs.p = w.regs.p ∧ u.w.regs.k = w.regs.k ∧
        u.w.ctl.am = BitVec.allOnes 32 ∧ u.w.ctl.stack = [] ∧ u.w.ctl.part = .t32 ∧ u.w.trap = none ∧
        wordAt u.mem (at_ 0) 8 = t.pc.toNat ∧ wordAt u.mem (at_ 8) 8 = w.region.pc.toNat ∧
        wordAt u.mem (at_ 0x14) 1 = t.cause.toNat ∧ wordAt u.mem (at_ 0x18) 8 = t.addr.toNat ∧
        wordAt u.mem (at_ 0x20) 4 = t.flanes.toNat ∧ wordAt u.mem (at_ 0x24) 4 = t.word.toNat ∧
        wordAt u.mem (at_ 0x28) 4 = w.ctl.am.toNat ∧ wordAt u.mem (at_ 0x30) 4 = w.rmask.toNat ∧
        (∀ i : Fin 64, 0 < i.val → i.val < w.env.sregs →
          wordAt u.mem (at_ (0x300 + 8 * i.val)) 8 = (w.regs.s[i]).toNat) ∧
        (∀ (i : Fin 256) (l : Fin 32), i.val < w.env.vregs →
          wordAt u.mem (at_ (0x2000 + 128 * i.val + 4 * l.val)) 4 = (w.lane i.val l.val).toNat) ∧
        ∀ k : Nat, (∀ a ∈ pas, k < a ∨ a + 4096 ≤ k) → cellGet u.mem k = cellGet s'.mem k) ∧
    (w.handler = true ∨ (s.parts[w.env.part]).trapEn = false → ∀ g : Group, GroupIs s w g →
      ∀ l : Launch, s.launch? g.lid = some l →
      ∃ u, exec (.trapTaken w.place.wid) s = .next u ∧ (∀ h ∈ u.groups, h.gid ≠ w.place.gid) ∧
        (u.parts[l.part]).killCause = t.cause ∧ (u.parts[l.part]).killCtx = BitVec.ofNat 4 l.ctx.val)

/-! ## Barriers, work fetches and the reed -/

/-- R41, R167 to R170, R444 to R448: BARV arrives at a barrier of its group, its bolt or its beam, where its warp is a
member: a named barrier completes once every member warp has arrived or exited, a bolt barrier once every member group has,
and a ply sends the ARRIVE token of a beam barrier once every group of the launch on it has; BARW is held while the
generation of the latest arrival is the current one.
Where the rules leave it open, this is the model's choice: log 64. -/
def Obligations.BarrierResult : Prop :=
  ∀ (s : State) (w : Warp), Quiet s w → ∀ g : Group, GroupIs s w g → ∀ (x : Ext) (n : BitVec 4),
    w.guard x ≠ 0 →
    let b := g.named[n.toNat]
    let me := BitVec.twoPow 32 w.place.widx.toNat
    let pending := ∃ r : ArriveRec, (w.arrivals.find? fun r => r.lvl == .grp && r.n == n) = some r ∧
      r.gen = b.gen
    (b.mask &&& me = 0 → exec (.barv x .grp n) s = .next s) ∧
    (b.mask &&& me ≠ 0 → pending → exec (.barv x .grp n) s = .next (heldWith s (.secondArrival .grp n b.gen))) ∧
    (b.mask &&& me ≠ 0 → ¬pending → s.w.exited = false → ∃ t g', exec (.barv x .grp n) s = .next t ∧
      t.w.arrivals = ⟨.grp, n, b.gen⟩ :: s.w.arrivals.filter (fun r => !(r.lvl == .grp && r.n == n)) ∧
      t.ops = [] ∧ t.w.regs = s.w.regs ∧ t.mem = s.mem ∧ t.group? w.place.gid = some g' ∧
      g'.scratch = g.scratch ∧
      g'.named[n.toNat] =
        if b.mask &&& ~~~(b.arrived ||| me ||| s.exitedMask g) = 0 then
          ⟨b.gen + 1, b.next.getD b.mask, none, 0, false⟩
        else { b with arrived := b.arrived ||| me, begun := true }) ∧
    (pending → exec (.barw x .grp n) s = .next (heldWith s (.barw .grp n b.gen))) ∧
    (¬pending → exec (.barw x .grp n) s = .next (acquired s w.place.core)) ∧
    (∀ i : Fin 8, n.toNat % 8 = i.val →
      let arrived := fun (l : Lvl) (gen : BitVec 32) =>
        ∃ r : ArriveRec, (w.arrivals.find? fun r => r.lvl == l && r.n == n) = some r ∧ r.gen = gen
      let noted := fun (t : State) (l : Lvl) (gen : BitVec 32) =>
        t.w.arrivals = ⟨l, n, gen⟩ :: s.w.arrivals.filter (fun r => !(r.lvl == l && r.n == n)) ∧
          t.ops = [] ∧ t.w.regs = s.w.regs ∧ t.mem = s.mem
      let here := fun (v : Group → LevelBar) (h : Group) =>
        (v h).mask &&& ~~~((v h).arrived ||| (if h.gid = g.gid then me else 0) ||| s.exitedMask h) = 0
      (∀ c : Bolt, s.bolt? w.place.bid = some c →
        let r : BoltBar := c.bars[i]
        let member := g.boltLvl[i].mask &&& me ≠ 0 ∧ r.mask.getLsbD w.place.gidx.toNat = true
        let whole := ∀ h ∈ s.groups, h.bid = w.place.bid → r.mask.getLsbD h.idx.toNat = true →
          h.killed = false ∧ here (fun h => h.boltLvl[i]) h
        (¬member → exec (.barv x .bolt n) s = .next s) ∧
        (member → arrived .bolt r.gen →
          exec (.barv x .bolt n) s = .next (heldWith s (.secondArrival .bolt n r.gen))) ∧
        (member → ¬arrived .bolt r.gen → s.w.exited = false → ∃ t c', exec (.barv x .bolt n) s = .next t ∧ noted t .bolt r.gen ∧
          t.bolt? w.place.bid = some c' ∧
          (whole → c'.bars[i] = ⟨r.gen + 1, r.next.getD r.mask, none, 0, false⟩) ∧
          (¬whole → (c'.bars[i]).gen = r.gen ∧ (c'.bars[i]).mask = r.mask ∧ (c'.bars[i]).next = r.next ∧
            (c'.bars[i]).begun = true)) ∧
        (arrived .bolt r.gen → exec (.barw x .bolt n) s = .next (heldWith s (.barw .bolt n r.gen))) ∧
        (¬arrived .bolt r.gen → exec (.barw x .bolt n) s = .next (acquired s w.place.core))) ∧
      (let d := coreDie w.place.core
       let gen := ((s.beam (dieBeam d)).reed.bars.find? fun y =>
         y.lid == w.place.lid && y.n.toNat == n.toNat).elim 0 BeamBar.gen
       let owns := s.ownsSlot w.place.lid d = true
       let member := g.beamLvl[i].mask &&& me ≠ 0
       let whole := ∀ h ∈ s.groups, h.lid = w.place.lid → coreDie h.core = d → s.residentGroup h = true →
         here (fun h => h.beamLvl[i]) h
       (¬owns → s.w.faults = [] → ∃ f : FaultRec, exec (.barv x .beam n) s =
         .next { s with w := { s.w with faults := [f] } } ∧ f.cause = 0x15 ∧ f.addr = n.zeroExtend 64) ∧
       (owns → ¬member → exec (.barv x .beam n) s = .next s) ∧
       (owns → member → arrived .beam gen →
         exec (.barv x .beam n) s = .next (heldWith s (.secondArrival .beam n gen))) ∧
       (owns → member → ¬arrived .beam gen → s.w.exited = false → ∃ t g', exec (.barv x .beam n) s = .next t ∧ noted t .beam gen ∧
         t.group? w.place.gid = some g' ∧
         (let v : LevelBar := g.beamLvl[i]
          g'.beamLvl[i] = { v with arrived := v.arrived ||| me, begun := true }) ∧
         (¬whole → t.plies = s.plies) ∧
         (whole → n.toNat < 8 → (s.ply d).queue = [] → (∀ y ∈ (s.beam (dieBeam d)).reed.bars, y.lid ≠ w.place.lid) →
           g.lid = w.place.lid → coreDie g.core = d → s.residentGroup g = true →
           ∃ e wids, (t.ply d).queue = [e] ∧ e.sent = false ∧ w.place.wid ∈ wids ∧
             e.kind = .arrive w.place.lid (BitVec.ofNat 3 n.toNat) d gen wids)) ∧
       (arrived .beam gen → exec (.barw x .beam n) s = .next (heldWith s (.barw .beam n gen))) ∧
       (¬arrived .beam gen → exec (.barw x .beam n) s = .next (acquired s w.place.core))))

/-- R37, R132, R170, R444, R449 to R452: BARM changes the membership of a named or a bolt barrier, at once where nobody
has issued an arrival at the current generation and for the next generation otherwise; FETCHW reserves the next slot of its entry and waits for a slot or
for one of four answers; and REEDF completes once the warp's earlier reed writes and its arrivals' tokens have been
applied. A word whose lane set is empty has no effect. Where the rules leave it open, this is the model's choice: log
24. -/
def Obligations.MembershipFetchResult : Prop :=
  ∀ (s : State) (w : Warp), s.issue.snap = some w → ∀ (x : Ext) (n : BitVec 4) (a : SReg) (tl : TileName) (l : Lvl),
    (w.guard x = 0 → exec (.barm x l n a) s = .next s ∧ exec (.fetchw x tl) s = .next s ∧
      exec (.reedf x) s = .next s) ∧
    (w.guard x ≠ 0 →
      (∀ g : Group, s.group? w.place.gid = some g →
        let m := (w.sget a).setWidth 32 &&& BitVec.ofNat 32 (2 ^ g.warps - 1)
        let b := g.named[n.toNat]
        let t := g.tiles[tl.toNat]
        (∃ u g', exec (.barm x .grp n a) s = .next u ∧ u.group? w.place.gid = some g' ∧
          g'.named[n.toNat] =
            (if b.begun = false then { b with mask := m, next := none } else { b with next := some m }) ∧
          (∀ k : Fin 16, k.val ≠ n.toNat → g'.named[k] = g.named[k]) ∧ u.w = s.w ∧ u.rest = s.rest ∧
          u.mem = s.mem) ∧
        (t.mapped = true → t.counted = true → g.fetches.length < 4 →
          t.count.toNat + t.rsv.length < t.rows.toNat + 1 →
          ∃ u g' f, exec (.fetchw x tl) s = .next u ∧ u.group? w.place.gid = some g' ∧
            g'.fetches = g.fetches ++ [f] ∧ f.id = s.serial ∧ f.name = tl ∧
            f.slot.toNat = (t.head.toNat + t.count.toNat + t.rsv.length) % (t.rows.toNat + 1) ∧
            (g'.tiles[tl.toNat]).rsv = t.rsv ++ [⟨s.serial, false⟩] ∧ g'.scratch = g.scratch ∧ u.w = s.w ∧
            u.rest = s.rest ∧ u.mem = s.mem) ∧
        (t.mapped = true → t.counted = true → 4 ≤ g.fetches.length →
          exec (.fetchw x tl) s = .next (heldWith s .fifthFetchw)) ∧
        (t.mapped = true → t.counted = true → g.fetches.length < 4 →
          t.rows.toNat + 1 ≤ t.count.toNat + t.rsv.length →
          exec (.fetchw x tl) s = .next (heldWith s (.tile tl .slot)))) ∧
      (∀ i : Fin 8, n.toNat = i.val →
        exec (.barm x .bolt n a) s = .next { s with
          bolts := s.bolts.map fun b =>
            let m := (w.sget a).setWidth 16 &&& BitVec.ofNat 16 (2 ^ b.groups - 1)
            let r : BoltBar := b.bars[i]
            let r' := if r.begun = false then { r with mask := m, next := none } else { r with next := some m }
            if b.bid = w.place.bid then { b with bars := b.bars.set i r' } else b }) ∧
      exec (.barm x .beam n a) s = .next s ∧
      (let queue := (s.plies[coreDie w.place.core]).queue
       let mine := fun q : QEntry =>
        match q.kind with
        | .arrive _ _ _ _ wids => w.place.wid ∈ wids
        | _ => False
       let write := fun q : QEntry =>
        match q.kind with
        | .write _ _ _ | .atomic _ _ _ _ _ _ _ _ => q.wid = w.place.wid ∧ q.id < s.issue.mark
        | _ => False
       let waits := (∃ o ∈ s.ops, o.wid = w.place.wid ∧ o.isReed = true ∧ o.writes = true ∧ o.id < s.issue.mark) ∨
        ∃ q ∈ queue, write q ∨ mine q
       (∀ ids, w.sched.hold ≠ some (.reedf ids)) →
        (¬waits → exec (.reedf x) s = .next s) ∧
        (waits → exec (.reedf x) s = .next (heldWith s (.reedf ((queue.filter fun q =>
          match q.kind with
          | .arrive _ _ _ _ wids => wids.contains w.place.wid
          | _ => false).map QEntry.id)))) ∧
        ∀ (ids : List Nat) (v : Warp), v = { w with sched := { w.sched with hold := some (.reedf ids) } } →
          let u : State := { s with issue := { s.issue with snap := some v } }
          let still := (∃ o ∈ s.ops, o.wid = w.place.wid ∧ o.isReed = true ∧ o.writes = true ∧ o.id < s.issue.mark) ∨
            ∃ q ∈ queue, write q ∨ q.id ∈ ids
          (¬still → exec (.reedf x) u = .next u) ∧
          (still → exec (.reedf x) u = .next (heldWith u (.reedf ids)))))

/-! ## Tiles -/

/-- R183 to R187, R412 to R416: ITSET, TDEF, TFREE and TSTAT take effect, wait, or are rejected, by the
state of the entry that they name.
Where the rules leave it open, this is the model's choice: log 24, 25, 26. -/
def Obligations.TileMapResult : Prop :=
  ∀ (s : State) (w : Warp), Quiet s w → s.w.faults = [] → ∀ g : Group, GroupIs s w g →
    ∀ (x : Ext) (n : TileName) (a b : SReg) (v : VOp) (k m : Bool), w.guard x ≠ 0 →
    let t := g.tiles[n.toNat]
    let at_ := (w.sget a).toNat
    let record := (List.range 64).map fun i => cellGet g.scratch (at_ + i)
    let idle := if t.counted then t.rsv = [] else t.state = .empty ∨ t.state = .ready
    let A := w.sget a
    let B := w.sget b
    let new : Tile :=
      { Tile.free with
        mapped := true, counted := k, arm := m, state := if m then .filling else .empty
        fmt := BitVec.ofNat 4 B.toNat, rows := BitVec.ofNat 8 (A.toNat / 2 ^ 56)
        cols := BitVec.ofNat 16 (A.toNat / 2 ^ 40), pitch := BitVec.ofNat 12 (A.toNat / 2 ^ 28)
        base := BitVec.ofNat 15 A.toNat, iter := rewound t.iter }
    let sound := B.toNat < 16 ∧ A.toNat / 2 ^ 15 % 2 ^ 13 = 0 ∧ new.layoutOk w.env.scratch = true
    let used := (s.groups.map fun h =>
      if h.core = w.place.core ∧ s.residentGroup h = true then h.tiles.toList.countP Tile.mapped
      else 0).sum
    let mappable := if t.counted then t.count = 0 ∧ t.rsv = [] else t.state = .empty
    let free := if t.counted then t.count ≠ 0 ∧ t.outRead = 0 ∧ t.loomRead = 0
      else ((t.state = .ready ∨ t.state = .empty) ∧ t.loomRead = 0) ∨ (t.arm = true ∧ t.rsv = [])
    (t.mapped = true → idle → at_ % 64 = 0 → at_ + 64 ≤ w.env.scratch →
      (Iter.okBytes record = true → ∃ i : Iter, i.bytes = record ∧
        exec (.itset x n a) s = .next (setTile s w n { t with iter := i })) ∧
      (Iter.okBytes record = false → ∃ u, exec (.itset x n a) s = .next u ∧ Rejected s u at_)) ∧
    (t.mapped = true → ¬idle → exec (.itset x n a) s = .next (heldWith s (.tile n .idle))) ∧
    (t.mapped = false ∨ (idle ∧ (at_ % 64 ≠ 0 ∨ w.env.scratch < at_ + 64)) →
      ∃ u, exec (.itset x n a) s = .next u ∧ Rejected s u at_) ∧
    ((if t.mapped then mappable else used < 64) →
      (sound → exec (.tdef x n a b k m) s = .next (setTile s w n new)) ∧
      (¬sound → ∃ u, exec (.tdef x n a b k m) s = .next u ∧ Rejected s u (16 * new.base.toNat))) ∧
    (t.mapped = false → 64 ≤ used → exec (.tdef x n a b k m) s = .next (heldWith s .tdef)) ∧
    (t.mapped = true → ¬mappable →
      exec (.tdef x n a b k m) s = .next (heldWith s (.tile n .mappable))) ∧
    (t.mapped = false → exec (.tfree x n) s = .next s) ∧
    (t.mapped = true → free → exec (.tfree x n) s = .next (setTile s w n
      (if t.counted then
        { t with head := BitVec.ofNat 8 ((t.head.toNat + 1) % (t.rows.toNat + 1)), count := t.count - 1 }
       else { t with state := .empty, arm := false, holes := 0, hmc := false, iter := rewound t.iter }))) ∧
    (t.mapped = true → ¬free → exec (.tfree x n) s = .next (heldWith s (.tile n .freeable))) ∧
    (t.mapped = true → t.counted = true → t.count = 0 →
      exec (.tstat x n v) s = .next (heldWith s (.tile n .count))) ∧
    (t.mapped = false → exec (.tstat x n v) s = .next
      (setV s (w.vidx x v) (BitVec.allOnes 32) fun _ => 0)) ∧
    (t.mapped = true → t.counted = false ∨ t.count ≠ 0 → t.rsv.length < 2 ^ 9 →
      (t.counted = true → t.base.toNat + t.head.toNat * (t.pitch.toNat + 1) < 2 ^ 28) →
      exec (.tstat x n v) s = .next (setV s (w.vidx x v) (BitVec.allOnes 32) fun l =>
        if l < 2 then BitVec.ofNat 32 (tileWord0 t / 2 ^ (32 * l))
        else if l < 4 then BitVec.ofNat 32 (tileWord1 t / 2 ^ (32 * (l - 2)))
        else if l < 12 then BitVec.ofNat 32 (t.holes.toNat / 2 ^ (32 * (l - 4)))
        else if l < 16 then 0
        else BitVec.ofNat 32
          ((List.range 4).map fun i => (t.iter.bytes.getD (4 * (l - 16) + i) 0).toNat * 256 ^ i).sum))

/-- R185, R186, R192, R412, R417: CPY, CPYT and CPYM start a copy of an entry in the state that they
need, are held in another, and are rejected where formats differ.
Where the rules leave it open, this is the model's choice: log 24, 25, 28. -/
def Obligations.CopyIssueResult : Prop :=
  ∀ (s : State) (w : Warp), Quiet s w → s.w.faults = [] → ∀ g : Group, GroupIs s w g →
    ∀ (x : Ext) (n : TileName) (a : SReg), w.guard x ≠ 0 →
    let t := g.tiles[n.toNat]
    let next := BitVec.ofNat 8 ((t.head.toNat + t.count.toNat + t.rsv.length) % (t.rows.toNat + 1))
    let filling := t.state == .ready
    let to_ := fun (tr : Bool) => { t with state := TileState.filling, iter := { t.iter with tr := tr } }
    let from_ := fun (tr : Bool) => { t with state := TileState.draining, iter := { t.iter with tr := tr } }
    let mask := (w.sget a).toNat % 2 ^ 48
    let own := mask / 2 ^ (w.place.core / 4 % 48) % 2 = 1
    let room := t.count.toNat + t.rsv.length < t.rows.toNat + 1
    (t.mapped = false →
      (∃ u, exec (.cpy x n false) s = .next u ∧ Rejected s u n.toNat) ∧
      (∃ u, exec (.cpyt x n true) s = .next u ∧ Rejected s u n.toNat) ∧
      ∃ u, exec (.cpym x n a) s = .next u ∧ Rejected s u n.toNat) ∧
    (t.mapped = true → t.iter.fmt ≠ t.fmt →
      (∃ u, exec (.cpy x n true) s = .next u ∧ Rejected s u (16 * t.base.toNat)) ∧
      (∃ u, exec (.cpyt x n false) s = .next u ∧ Rejected s u (16 * t.base.toNat)) ∧
      ∃ u, exec (.cpym x n a) s = .next u ∧ Rejected s u (16 * t.base.toNat)) ∧
    (t.mapped = true → t.iter.fmt = t.fmt → t.counted = false →
      (t.state = .empty ∨ (t.state = .ready ∧ t.holes ≠ 0) →
        (∃ c, IsCopy s w n t .inn false filling none c ∧
          exec (.cpy x n false) s = .next (countedCopy (setTile s w n (to_ false)) c)) ∧
        (t.fmt.toNat < 8 → ∃ c, IsCopy s w n t .inn true filling none c ∧
          exec (.cpyt x n false) s = .next (countedCopy (setTile s w n (to_ true)) c))) ∧
      (t.state = .ready →
        (∃ c, IsCopy s w n t .out false false none c ∧
          exec (.cpy x n true) s = .next (countedCopy (setTile s w n (from_ false)) c)) ∧
        (t.fmt.toNat < 8 → ∃ c, IsCopy s w n t .out true false none c ∧
          exec (.cpyt x n true) s = .next (countedCopy (setTile s w n (from_ true)) c))) ∧
      (t.state ≠ .ready → exec (.cpy x n true) s = .next (heldWith s (.tile n .ready))) ∧
      (t.state = .filling ∨ t.state = .draining →
        exec (.cpy x n false) s = .next (heldWith s (.tile n .fill)))) ∧
    (t.mapped = true → t.iter.fmt = t.fmt → t.counted = true →
      (room → ∃ c, IsCopy s w n t .inn false false (some next) c ∧
        exec (.cpy x n false) s = .next (countedCopy
          (setTile s w n { t with rsv := t.rsv ++ [⟨s.serial, false⟩] }) c)) ∧
      (¬room → exec (.cpy x n false) s = .next (heldWith s (.tile n .slot))) ∧
      (t.count ≠ 0 → ∃ c, IsCopy s w n t .out false false (some t.head) c ∧
        exec (.cpy x n true) s = .next (countedCopy
          (setTile s w n { t with outRead := t.outRead + 1 }) c)) ∧
      ∃ u, exec (.cpyt x n false) s = .next u ∧ Rejected s u (16 * t.base.toNat)) ∧
    (t.mapped = true → t.iter.fmt = t.fmt → t.counted = false →
      (own → t.state = .empty → ∃ c, IsCopy s w n t (.mcast (BitVec.ofNat 48 mask)) false false none c ∧
        exec (.cpym x n a) s = .next
          (countedCopy (setTile s w n { to_ false with drops := 0 }) c)) ∧
      (¬own → ∃ c, IsCopy s w n t (.mcast (BitVec.ofNat 48 mask)) false false none c ∧
        exec (.cpym x n a) s = .next (countedCopy (setTile s w n { t with drops := 0 }) c)) ∧
      (own → t.state ≠ .empty → exec (.cpym x n a) s = .next (heldWith s (.tile n .empty))))

/-! ## Loom words -/

/-- R160, R161, R419 to R421: every loom word places its requests in the reservation table of its
cluster, with its own operands, and TC counts the instruction; the words that name an entry wait for
it and mark it. Where the rules leave it open, this is the model's choice: log 24. -/
def Obligations.LoomWordResult : Prop :=
  ∀ (s : State) (w : Warp), Quiet s w → s.w.faults = [] → ∀ g : Group, GroupIs s w g →
    ((loomAt s (w.place.core / 4)).reqs.countP fun r => !r.granted) ≤ 28 →
    ∀ (x : Ext) (q : AccReg) (n : TileName) (v u : VOp) (a b : SReg) (f : MxF) (af : AFmt) (bf : BFmt),
    w.guard x ≠ 0 →
    let t := g.tiles[n.toNat]
    let one := fun (i : Instr) (p : LoomReq → Prop) => ∃ r, AreRequests s w i [r] ∧ p r ∧
      exec i s = .next (requested s w [r])
    let tileRead := fun (k : Nat) => setTile s w n { t with loomRead := t.loomRead + k }
    let slot := if t.counted then some t.head else none
    let readable := if t.counted then t.count ≠ 0 else t.state = .ready
    let need : TileNeed := if t.counted then .count else .ready
    let qs := quartersOf w (w.guard x)
    let rows := fun (i : Instr) => ∃ rs, AreRequests s w i rs ∧ rs.map LoomReq.quarter = qs ∧
      (∀ r ∈ rs, r.vreg = w.vidx x v ∧ r.gen = BitVec.ofNat 32 (w.sget b).toNat) ∧
      exec i s = .next (requested s w rs)
    let tile := fun (i : Instr) => t.mapped = true → t.serves (aEntry af) 32 = true →
      (readable → ∃ rs, AreRequests s w i rs ∧ rs.map LoomReq.quarter = qs ∧
        (∀ r ∈ rs, r.slot = slot ∧ r.gen = BitVec.ofNat 32 (w.sget b).toNat ∧ HoldsScratch s g r) ∧
        exec i s = .next (requested (tileRead qs.length) w rs)) ∧
      (¬readable → exec i s = .next (heldWith s (.tile n need)))
    one (.swpw x b) (fun _ => True) ∧
    one (.mclr x q) (fun _ => True) ∧
    one (.mstat x q b) (fun _ => True) ∧
    one (.mdrn x q v b) (fun r => r.vreg = w.vidx x v ∧ r.scalar = w.sget b) ∧
    one (.msav x q a) (fun r => r.scalar = w.sget a) ∧
    one (.mrst x q a) (fun r => r.scalar = w.sget a) ∧
    one (.rq x q v f) (fun r => r.vreg = w.vidx x v ∧ r.draws = []) ∧
    one (.rqVector x v u f) (fun r => r.vreg = w.vidx x v ∧ r.vsrc = w.vidx x u ∧ r.draws = []) ∧
    (∃ r, AreRequests s w (.rqs x q v f a) [r] ∧ r.vreg = w.vidx x v ∧ r.draws.length = 16 ∧
      exec (.rqs x q v f a) s = .next
        (let z := requested s w [r]
         { z with w := { z.w with ctl := { z.w.ctl with draw := z.w.ctl.draw + 4 } } })) ∧
    (∃ r, AreRequests s w (.rqsVector x v u f a) [r] ∧ r.vreg = w.vidx x v ∧ r.vsrc = w.vidx x u ∧
      r.draws.length = 4 ∧ exec (.rqsVector x v u f a) s = .next
        (let z := requested s w [r]
         { z with w := { z.w with ctl := { z.w.ctl with draw := z.w.ctl.draw + 1 } } })) ∧
    rows (.mmq x q v b af) ∧ rows (.mmqt x q v b af) ∧
    tile (.mmqTile x q n b af) ∧ tile (.mmqtTile x q n b af) ∧
    (t.mapped = true → t.serves (bEntry bf) 128 = true → readable →
      ∃ r, AreRequests s w (.ldw x n bf) [r] ∧ r.slot = slot ∧ HoldsScratch s g r ∧
        exec (.ldw x n bf) s = .next (requested (tileRead 1) w [r])) ∧
    (t.mapped = true → t.serves 2 8 = true → t.cols = 127 →
      (t.counted = false → t.rows = 7 → t.state = .empty →
        ∃ r, AreRequests s w (.mdrnt x q n b) [r] ∧ r.scalar = w.sget b ∧ HoldsScratch s g r ∧
          exec (.mdrnt x q n b) s = .next (requested (setTile s w n { t with state := .filling }) w [r])) ∧
      (t.counted = true → t.count.toNat + t.rsv.length < t.rows.toNat + 1 →
        ∃ r, AreRequests s w (.mdrnt x q n b) [r] ∧ r.scalar = w.sget b ∧ HoldsScratch s g r ∧
          r.slot = some (BitVec.ofNat 8 ((t.head.toNat + t.count.toNat + t.rsv.length) % (t.rows.toNat + 1))) ∧
          exec (.mdrnt x q n b) s = .next
            (requested (setTile s w n { t with rsv := t.rsv ++ [⟨s.serial, false⟩] }) w [r]))) ∧
    (t.mapped = false → ∃ z, exec (.ldw x n bf) s = .next z ∧ Rejected s z n.toNat)

/-! ## Register words with an uncorrectable error -/

/-- R271: the instruction that fetches a bad register word completes; its destination elements in the
lane of the bad word are zero, a word across lanes writes zero everywhere, and one imprecise fault
is pending. -/
def Obligations.BadRegisterWord : Prop :=
  ∀ (s : State) (w : Warp), s.issue.snap = some w → s.w.place = w.place → s.w.faults = [] →
    ∀ (x : Ext) (d a b : VOp) (l : BitVec 5) (t : VTy) (o : ROp), (w.guard x).getLsbD l.toNat = true →
    let i := w.vidx x a
    let D := w.vidx x d
    i < 256 → D ≠ i → w.vidx x b ≠ i →
    s.regPoison = [.lane w.place.wid (BitVec.ofNat 8 i) l] →
    ∃ r : FaultRec, r.cause = 0x18 ∧ r.struct = 1 ∧ r.lane = l ∧ r.flanes = BitVec.twoPow 32 l.toNat ∧
      r.seq = s.w.issued ∧
      exec (.vadd x t d a b) s = .next
        (let u := setV s D (w.guard x) fun k =>
           if k = l.toNat then 0
           else ofElts (eltBits t) fun h =>
             eltNum t (w.lane i k) h + eltNum t (w.lane (w.vidx x b) k) h
         { u with w := { u.w with faults := [r] } }) ∧
      exec (.vred x .u32 d a o) s = .next
        (let u := setV s D (w.guard x) fun _ => 0
         { u with w := { u.w with faults := [r] } })

/-! ## The looms -/

/-- R161 to R166, R267, R288, R289, R420, R423, R426 to R437, R439, R440: a request that stands alone in its table is
granted and finishes. A stream, of either orientation, with its rows in registers or in an entry, whole or a quarter, is
marked stale or wrong without acting, waits for its generation, or enters the stream port and, by the end of its pass, adds
the exact block sums of each row to its row of the accumulator tiles; SWPW swaps the planes; LDW loads the shadow plane from
its entry; MCLR clears; MDRN, MDRNT, RQ and RQS take the tile's values and clear it, and write registers or an entry as they
finish; RQ and RQS of registers requantise them; MSAV and MRST write and read the tile's image in memory; MSTAT takes the
status; a request ages; and TC falls as it leaves. What a request reads here has not been written since its OFENCE.
Where the rules leave it open, this is the model's choice: log 30, 31. -/
def Obligations.LoomEventResult : Prop :=
  ∀ (s : State) (w : Warp) (cl : Nat) (r : LoomReq), Alone s w → LoneReq s cl r →
    r.wid = w.place.wid → r.gid = w.place.gid → r.remote = [] → ∀ g : Group, GroupIs s w g →
    let l := loomAt s cl
    let done := { r with granted := true, pass := r.id }
    let asked := fun q : LoomReq => setLoom s cl { l with reqs := [q] }
    let mine := fun (n : AccReg) (i : Nat) =>
      match r.quarter with
      | none => n.toNat ≤ i ∧ i < n.toNat + 4
      | some q => i = n.toNat + q.toNat
    let blocks := fun f : MxF => if f = .e2m1 then 8 else 4
    (r.granted = false →
      exec (.loomRequestAging cl r.id) s = .next (asked { r with aged := true }) ∧
      (∀ x b, r.instr = .swpw x b → exec (.loomGrant cl .plane) s = .next (setLoom s cl
        { l with active := l.shadow, shadow := l.active, gen := l.gen + 1
                 reqs := [{ done with result := (l.gen + 1).zeroExtend 64 }] })) ∧
      (∀ x n, r.instr = .mclr x n → exec (.loomGrant cl .drain) s = .next
        (setAcc (asked done) r.gid n.toNat AccTile.zero)) ∧
      (∀ x a f, r.instr = .ldw x a f → exec (.loomGrant cl .load) s = .next (asked done)) ∧
      (∀ x v u f e, r.instr = .rqVector x v u f ∨ r.instr = .rqsVector x v u f e →
        exec (.loomGrant cl .drain) s = .next (asked done)) ∧
      (∀ n : AccReg, ∀ t : AccTile, accAt s r.gid n.toNat = some t →
        let cleared := fun q : LoomReq => exec (.loomGrant cl .drain) s = .next
          (setAcc (asked q) r.gid n.toNat AccTile.zero)
        (∀ x v a b, r.instr = .mdrn x n v b ∨ r.instr = .mdrnt x n a b → cleared { done with
          vout := (List.range 32).map fun k => Vector.ofFn fun c : Fin 32 => BitVec.ofNat 32
            (drainWord t (Fin.ofNat 8 (k / 4)) (Fin.ofNat 128 (32 * (k % 4) + c.val)) (r.scalar.toNat % 2 ^ 32)) }) ∧
        (∀ x v f e, r.instr = .rq x n v f ∨ r.instr = .rqs x n v f e →
          let images := (List.range (if f = .e2m1 then 4 else 8)).map fun a =>
            mxImage (mxFmt f) (blocks f) (fun j => rqMode r.draws (a * blocks f + j)) fun j =>
              (List.range 32).map fun i => drainWord t
                (Fin.ofNat 8 (if f = .e2m1 then 2 * a + j / 4 else a)) (Fin.ofNat 128 (32 * (j % 4) + i)) 0x3F800000
          cleared { done with vout := images.map Prod.fst, kout := images.map Prod.snd }) ∧
        (∀ x b, r.instr = .mstat x n b → exec (.loomGrant cl .plane) s = .next (asked { done with
          result := BitVec.ofNat 64 (l.gen.toNat * 2 ^ 32 + t.err.toNat * 2 ^ 24 + t.stale.toNat * 2 ^ 23 +
            (if (∃ i : Fin 8, t.rowFlag[i] ≠ 0) ∨ ∃ c : Fin 128, t.colFlag[c] ≠ 0 then 2 ^ 22 else 0) +
            packed 2 8 fun i => ((t.rowFlag[i]?).getD 0).toNat) })) ∧
        (∀ x a, r.instr = .msav x n a ∨ r.instr = .mrst x n a → r.scalar.toNat % 256 ≠ 0 → w.faults = [] →
          ∃ f : FaultRec, exec (.loomGrant cl .drain) s = .next { asked done with w := { w with faults := [f] } } ∧
            f.cause = 0x13 ∧ f.addr = r.scalar ∧ f.seq = r.seq) ∧
        (∀ (at_ : Nat → Nat) (z : State), s.held = [] → r.scalar.toNat % 256 = 0 → w.env.ordered = false →
          (∀ y ∈ z.l1, y.ahead = false) → z.slices.twins = [] → Memory.wf z.mem = true →
          (∀ x a, r.instr = .msav x n a → ImageAt (asked done) w .store r.scalar at_ z →
            ∃ u, exec (.loomGrant cl .drain) s = .next u ∧ u.w = w ∧ u.groups = s.groups ∧
              (loomAt u cl).reqs = [done] ∧ TileImage u.mem at_ t ∧
              (∀ k : Nat, 34 < k → k < 128 → cellGet u.mem (at_ (1024 + k / 4) + k % 4) = 0) ∧
              ∀ k : Nat, (∀ i : Nat, i < 1056 → k < at_ i ∨ at_ i + 4 ≤ k) → cellGet u.mem k = cellGet z.mem k) ∧
          (∀ x a, r.instr = .mrst x n a → ImageAt (asked done) w .load r.scalar at_ z →
            ∃ u t', exec (.loomGrant cl .drain) s = .next u ∧ u.w = w ∧ u.mem = z.mem ∧
              (loomAt u cl).reqs = [done] ∧ TileImage z.mem at_ t' ∧
              ∀ i : Nat, accAt u r.gid i = if i = n.toNat then some t' else accAt s r.gid i))) ∧
      (∀ n f trans k row tile, StreamOf w g r n f trans k row tile →
        let behind := (l.gen - r.gen).toNat
        let fits := sameFamily f l.active.fmt = true ∧ l.active.k = k ∧ (trans = true → k = 128)
        let marked := fun m : AccTile → AccTile => ∃ u, exec (.loomGrant cl .stream) s = .next u ∧ u.w = s.w ∧
          u.mem = s.mem ∧ ∀ i : Nat, (mine n i → accAt u r.gid i = (accAt s r.gid i).map m) ∧
            (¬mine n i → accAt u r.gid i = accAt s r.gid i)
        (2 ^ 31 < behind → exec (.loomGrant cl .stream) s = .next s) ∧
        (1 ≤ behind → behind ≤ 2 ^ 31 → marked fun t => { t with stale := true }) ∧
        (behind = 0 → ¬fits → marked fun t => { t with err := true }) ∧
        (behind = 0 → fits → ∃ u, exec (.loomGrant cl .stream) s = .next u ∧ u.w = s.w ∧ u.mem = s.mem ∧
          u.groups = s.groups ∧ loomAt u cl = { l with reqs := [done] }))) ∧
    (r.granted = true → w.cnt = { Counters.zero with tc := [⟨r.op, false⟩] } → w.aside = Counters.zero →
      let ended := { setLoom s cl { l with reqs := [] } with w := { w with cnt := Counters.zero } }
      let unchanged := r.issued = fileOf w ∧ r.fenced = fileOf w
      let still := r.scratch = g.scratch ∧ r.fencedMem = g.scratch
      let wrote := fun (vs : List (Vector Word32 32)) (ks : List Word64) => r.vreg + vs.length ≤ 256 →
        ks.length ≤ vs.length → ∃ u, exec (.loomRequestFinish cl r.id) s = .next u ∧ (loomAt u cl).reqs = [] ∧
          u.mem = s.mem ∧ u.groups = s.groups ∧ u.w.cnt = Counters.zero ∧ u.w.regs.s = w.regs.s ∧
          (∀ (i : Nat) (c : Fin 32), u.w.lane i c.val =
            if r.vreg ≤ i ∧ i < r.vreg + vs.length then (vs.getD (i - r.vreg) (Vector.replicate 32 0))[c]
            else w.lane i c.val) ∧
          ∀ i : Nat, u.w.kget i =
            if r.vreg ≤ i ∧ i < r.vreg + ks.length then ks.getD (i - r.vreg) 0 else w.kget i
      (∀ x b, r.instr = .swpw x b → exec (.loomRequestFinish cl r.id) s = .next
        (setS ended (BitVec.allOnes 32) b r.result)) ∧
      (∀ x n b, r.instr = .mstat x n b → exec (.loomRequestFinish cl r.id) s = .next
        (setS ended (BitVec.allOnes 32) b r.result)) ∧
      (∀ x n a, r.instr = .msav x n a ∨ r.instr = .mrst x n a ∨ r.instr = .mclr x n →
        exec (.loomRequestFinish cl r.id) s = .next ended) ∧
      (∀ x n v b f e, r.instr = .mdrn x n v b ∨ r.instr = .rq x n v f ∨ r.instr = .rqs x n v f e →
        unchanged → wrote r.vout r.kout) ∧
      (∀ x v u f e, r.instr = .rqVector x v u f ∨ r.instr = .rqsVector x v u f e → unchanged →
        let image := mxImage (mxFmt f) (blocks f) (fun j => rqMode r.draws j) fun j =>
          blockValues w (r.vsrc + j) (BitVec.allOnes 32)
        wrote [image.1] [image.2]) ∧
      (∀ x n a b, r.instr = .mdrnt x n a b →
        let t := g.tiles[a.toNat]
        let at_ := fun i : Nat => t.operandRow r.slot i
        r.scratch = g.scratch → r.vout.length = 32 → Memory.wf g.scratch = true →
        (∀ i : Nat, i < 7 → at_ i + 512 ≤ at_ (i + 1)) →
        ∃ u g', exec (.loomRequestFinish cl r.id) s = .next u ∧ u.group? r.gid = some g' ∧
          (loomAt u cl).reqs = [] ∧ u.w.cnt = Counters.zero ∧ u.w.regs = w.regs ∧ u.mem = s.mem ∧
          (t.counted = false → g'.tiles[a.toNat] = { t with state := .ready }) ∧
          (t.counted = true → t.rsv = [⟨r.op, false⟩] →
            g'.tiles[a.toNat] = { t with rsv := [], count := t.count + 1 }) ∧
          (∀ (i : Fin 8) (c : Fin 128), wordAt g'.scratch (at_ i.val + 4 * c.val) 4 =
            ((r.vout.getD (4 * i.val + c.val / 32) (Vector.replicate 32 0))[Fin.ofNat 32 c.val]).toNat) ∧
          ∀ k : Nat, (∀ i : Nat, i < 8 → k < at_ i ∨ at_ i + 512 ≤ k) →
            cellGet g'.scratch k = cellGet g.scratch k) ∧
      (∀ x a f, r.instr = .ldw x a f →
        let t := g.tiles[a.toNat]
        let row := entryRow g t r.slot
        still → t.serves (bEntry f) 128 = true →
        ∃ u, exec (.loomRequestFinish cl r.id) s = .next u ∧ u.w = { w with cnt := Counters.zero } ∧ u.mem = s.mem ∧
          u.tile r.gid a = some { t with loomRead := t.loomRead - 1 } ∧
          (loomAt u cl).reqs = [] ∧ (loomAt u cl).active = l.active ∧ (loomAt u cl).gen = l.gen ∧
          let p := (loomAt u cl).shadow
          p.fmt = f ∧ p.k = t.ncols ∧ p.owner = some r.gid ∧
          ∀ c j i : Nat, c < 128 → j < t.ncols / 32 → i < 32 →
            p.code (32 * j + i) c = ((row c).blocks.getD j []).getD i 0 ∧
            p.scale (32 * j + i) c = (row c).scales.getD j 0) ∧
      (∀ n f trans k row tile, StreamOf w g r n f trans k row tile → r.pass = r.id →
        (r.streamed = true → tile = none → exec (.loomPassFinish cl r.id) s = .next ended) ∧
        (r.streamed = false → (tile = none → unchanged) → (tile ≠ none → still) →
          ∃ u, exec (.loomPassFinish cl r.id) s = .next u ∧ u.w = { w with cnt := Counters.zero } ∧ u.mem = s.mem ∧
            (loomAt u cl).reqs = [] ∧ (loomAt u cl).active = l.active ∧
            (∀ a, tile = some a → u.tile r.gid a =
              some { g.tiles[a.toNat] with loomRead := g.tiles[a.toNat].loomRead - 1 }) ∧
            ∀ i : Nat, ∃ t', accAt u r.gid i = (accAt s r.gid i).map t' ∧
              ∀ (t : AccTile) (a : Fin 8) (c : Fin 128),
                (mine n i → (t' t).els[a][c] =
                  accElem f l.active trans (row (8 * (i - n.toNat) + a.val)) c.val t.els[a][c]) ∧
                (¬mine n i → (t' t).els[a][c] = t.els[a][c]))))

/-! ## The shuttles -/

/-- R185, R188 to R190: a cluster's shuttle starts the oldest copy that is not paused, moves the bytes of
its next unit from the vault to its row and column of the entry and nothing else in scratch (where that
changes a byte, an access may still find it as it was while the copy runs, R185), and at its last unit makes the entry READY and lets CC fall; a unit of a vault that is not accessible waits (R19).
Where the rules leave it open, this is the model's choice: log 29, 63. -/
def Obligations.CopyEventResult : Prop :=
  ∀ (s : State) (w : Warp) (c : Copy), Alone s w → s.copies = [c] → s.held = [] → c.wid = w.place.wid →
    c.gid = w.place.gid → c.kind = .inn → c.filling = false → c.slot = none → c.tr = false →
    c.stopped = false → c.sent = none → c.xlat = .none → c.holes = 0 → c.resume = none → c.before = [] →
    c.src.iter.vault = true →
    c.src.fmt = c.src.iter.fmt → c.src.iter.fmt = 0 →
    ∀ g : Group, GroupIs s w g → ∀ t : Tile, g.tiles[c.name.toNat] = t → t.rows = c.src.rows →
    t.cols = c.src.cols → t.pitch = c.src.pitch → t.base = c.src.base → t.fmt = 0 →
    c.src.rowBytes ≤ c.src.pitchBytes →
    (c.running = false → c.paused = false →
      exec (.copyStart c.cluster) s = .next { s with copies := [{ c with running := true }] }) ∧
    (c.running = true → c.next < c.total → c.total ≤ t.nrows * t.ncols →
      let from_ := (c.src.iter.base + BitVec.ofInt 64 (c.src.iter.position c.next)).toNat
      let to_ := 16 * t.base.toNat + c.next / t.ncols * (16 * (t.pitch.toNat + 1)) + c.next % t.ncols
      from_ / 2 ^ 34 = 0 → from_ / 2 ^ 25 % 64 ≤ 47 → w.env.vply.getLsbD (from_ / 2 ^ 31) = true →
      w.env.vlo.toNat ≤ from_ / 2 ^ 25 % 64 → from_ / 2 ^ 25 % 64 ≤ w.env.vhi.toNat →
      let ply : Ply := s.plies[(Fin.ofNat 8 (from_ / 2 ^ 31) : Die)]
      ((ply.state = .sleep ∨ ply.wake ≠ .none) → exec (.copyUnitWrite c.cluster) s = .next s) ∧
      (ply.state ≠ .sleep → ply.wake = .none → ∃ u, exec (.copyUnitWrite c.cluster) s = .next u ∧
        let byte := cellGet s.vault from_
        u = { setScratch s w (cellPut g.scratch to_ [byte]) with
              w := { w with fencedMem := cellPut w.fencedMem to_ [byte] }
              copies := [{ c with
                next := c.next + 1
                before := if cellGet g.scratch to_ = byte then [] else [(w.place.gid, to_, cellGet g.scratch to_)] }] })) ∧
    (c.running = true → c.next = c.total → w.cnt = { Counters.zero with cc := [⟨c.id, false⟩] } →
      w.aside = Counters.zero →
      exec (.copyComplete c.cluster) s = .next
        { setTile s w c.name { t with state := .ready, holes := 0, hmc := false, iter := rewound t.iter } with
          copies := [], w := { w with cnt := Counters.zero } })

/-! ## Accesses, sweeps and waits in flight -/

/-- R205, R209 to R211, R244, R245, R408, R456, R460: an access that a sweep finds with an old translation
is translated again and counted, its slice then visited, and a sweep completes once nothing old remains; a TLBINV removes the
entries that it names and no other; a page request is posted and counted; an MWAIT whose word has
changed is woken; and an epoch in which nothing is held is flushed once every warp has passed it.
Where the rules leave it open, this is the model's choice: log 20, 36. -/
def Obligations.FlightEventResult : Prop :=
  ∀ (s : State) (w : Warp), Alone s w →
    (s.copies = [] → ∀ (sw : Sweep) (d : SReg),
      s.sweeps = [sw] → sw.running = true →
      (s.ops = [] → sw.who = .tfence w.place.wid → w.busy = .sweep sw.id d →
        exec (.sweepComplete sw.part) s = .next
          (let ended : State :=
             { s with
               sweeps := []
               slices := { s.slices with
                 twins := s.slices.twins.filter fun x => x.part != sw.part || decide ((s.part sw.part).sweeps ≤ x.sweep) } }
           let u := setS ended (BitVec.allOnes 32) d
             (BitVec.ofNat 64 (sw.cutCpy.toNat * 2 ^ 32 + sw.cutAcc.toNat))
           { acquired u w.place.core with w := { u.w with busy := .none } })) ∧
      (∀ (o : Op) (e : Elem) (pa : Nat), s.ops = [o] → o.wid = w.place.wid → o.part = sw.part →
        o.kind = .load → o.l1 = none → o.chunks = [] → o.elems = [e] → e.state = .waiting → e.loc = .phys pa →
        o.sweep < (s.part o.part).sweeps →
        exec (.sweepComplete sw.part) s = .next s ∧
        ∀ (loc : Loc) (home : Option Die) (va : Word64) (s' : State),
          let fresh : Op := { o with asked := [] }
          let swept := { sw with
            cutAcc := sw.cutAcc + 1
            visited := (s.sliceAt (.phys pa)).elim sw.visited fun v =>
              if v ∈ sw.visited then sw.visited else v :: sw.visited }
          let asked : State := { ({ s with sweeps := [swept] } : State).askHomes o [e] with ops := [fresh] }
          asked.resolveVa w .load e.va true = (.ok loc home va, s') →
          s'.ops = [fresh] → s'.sweeps = [swept] →
          (s'.part o.part).sweeps = (s.part o.part).sweeps → sw.cutAcc.toNat + 1 < 2 ^ 32 →
          ∃ u, exec (.requestReturn o.id) s = .next u ∧
            u = { s' with
              tlb := u.tlb
              ops := [{ fresh with elems := [{ e with loc := loc, home := home }]
                                   sweep := (s.part o.part).sweeps }] })) ∧
    (∀ i : TlbInv, s.tlbinvs = [i] →
      let named := fun e : TlbEntry => e.part = i.part ∧ (i.arg.toNat / 2 ^ 63 = 1 ∨
        (e.asid = i.asid ∧ e.vpn = i.arg.toNat / 2 ^ 16 % 2 ^ 41 * 2 ^ 16 / 2 ^ levelShift e.level))
      ∃ u, exec (.tlbinvRemoval i.id) s = .next u ∧ u.tlbinvs = [] ∧
        u.w = { w with watched := u.w.watched } ∧
        (∀ k : TlbKey, k ∈ u.w.watched ↔ k ∈ w.watched ∧ ¬∃ e ∈ s.tlb, named e ∧ e.key = k) ∧
        ∀ e : TlbEntry, e ∈ u.tlb ↔ e ∈ s.tlb ∧ ¬named e) ∧
    (∀ va notify, w.busy = .pgreq va notify → ∀ (h₀ h r₀ r : Nat) (a b : Option Die) (t₁ t₂ s' s'' : State),
      let k := s.ctx w.env.beam w.env.ctx
      let c : XCtx := { w.xctx with shadow := none }
      let base : Word64 := BitVec.ofNat 64 (k.pgqBase.toNat * 2 ^ 12)
      let cap := (2 ^ (12 + k.pgqSize.toNat) - 64) / 32
      let posted := wordAt s'.mem h 4
      s.translate c .store base true = (.ok h₀ a, t₁) → t₁.atHome h₀ a = (h, s') →
      s'.translate c .store (base + BitVec.ofNat 64 (0x40 + 32 * (posted % cap))) true = (.ok r₀ b, t₂) →
      t₂.atHome r₀ b = (r, s'') → s''.slices.twins = [] → (∀ x ∈ s''.l1, x.ahead = false) →
      s''.w = s.w → isRemote h₀ = false → isRemote r₀ = false → (posted + 2 ^ 32 - wordAt s'.mem (h + 8) 4) % 2 ^ 32 ≠ cap →
      posted + 1 < 2 ^ 32 → Memory.wf s''.mem = true → r + 32 ≤ h ∨ h + 12 ≤ r →
      ∃ u, exec (.pgreqPost w.place.wid) s = .next u ∧ u.w = { w with busy := .none } ∧
        wordAt u.mem r 8 = va.toNat ∧ wordAt u.mem (r + 8) 8 = notify.toNat ∧
        wordAt u.mem (r + 16) 4 = posted ∧ wordAt u.mem h 4 = posted + 1 ∧
        ∀ x : Nat, (x < h ∨ h + 4 ≤ x) → (x < r ∨ r + 32 ≤ x) → cellGet u.mem x = cellGet s''.mem x) ∧
    (∀ g : Group, GroupIs s w g → (∀ c ∈ s.copies, c.before = []) → w.sched.hold = some .mwait → w.mwAddr.toNat / 2 ^ 60 = 2 →
      let at_ := w.mwAddr.toNat % 2 ^ 60
      at_ % 4 = 0 → at_ + 4 ≤ w.env.scratch →
      exec (.mwaitReread w.place.wid) s = .next
        (if wordAt g.scratch at_ 4 ≠ w.mwOld.toNat then { s with w := { w with busy := .woken } } else s)) ∧
    (∀ (b : Bolt) (l : Launch), s.bolts = [b] → b.bid = w.place.bid → s.launch? b.lid = some l →
      l.desc.attr.getLsbD 0 = true → b.index.toNat ≤ l.retired → b.save = .resident → s.held = [] →
      (∀ o ∈ s.ops, o.bid = b.bid → o.isAtomic = false) →
      exec (.epochFlush b.bid) s = .next
        (if w.exited = false ∧ b.flushed + 1 ≤ w.epoch then
           { s with bolts := [{ b with flushed := b.flushed + 1 }] }
         else s))

/-! ## Slots, the active set and fetching -/

/-- R139 to R144, R159, R308: a free position takes a pending warp, whether it is ready or not where the core holds
eight warps or fewer; with more, a blocked warp is exchanged for the oldest ready pending one, and the one that has
been active longest for one that has waited too long; a packet is fetched; and an exited warp frees its slot once
its counters are zero.
Where the rules leave it open, this is the model's choice: log 8. -/
def Obligations.IssueSetResult : Prop :=
  ∀ (s : State) (w : Warp) (core : Nat), s.w = w → w.place.wid ≠ 0 → w.place.core = core →
    s.regPoison = [] →
    (s.rest = [] → w.sched.state = .pending →
      exec (.activeSetFill core) s = .next { s with w := inSlot w .active 0 s.time }) ∧
    (s.rest = [] → w.sched.state = .active → w.sched.hold.elim false Hold.afterThreshold = true →
      exec (.swapThreshold w.place.wid) s = .next
        { s with w := { w with sched := { w.sched with blocked := true } } }) ∧
    (s.fewWarps core = true → exec (.warpSwap core) s = .next s ∧ exec (.starveSwap core) s = .next s) ∧
    (s.fewWarps core = false → ∀ a v : Warp, a.env.trace = false →
      let swapped := fun u : State => u.mem = s.mem ∧ u.groups = s.groups ∧
        ∀ x : Warp, x ∈ s.warps → ∃ y ∈ u.warps, y =
          if x.place.wid = v.place.wid then inSlot x .active a.sched.pos s.time
          else if x.place.wid = a.place.wid then
            { x with sched := { x.sched with state := .pending, age := s.time } }
          else x
      (s.blockedActive core = some a → (s.readyPending core).head? = some v →
        ∃ u, exec (.warpSwap core) s = .next u ∧ swapped u) ∧
      (∀ as : List Warp, sortBy Warp.older (s.coreWarps core .active) = a :: as → s.emptyPositions core = [] →
        (s.readyPending core)[Config.starved s.draws % (s.readyPending core).length]? = some v →
        ∃ u, exec (.starveSwap core) s = .next u ∧ swapped u)) ∧
    (s.rest = [] → w.packet = none → w.exited = false → w.trap = none → w.sched.state ≠ .saved →
      ∀ ws s', s.fetchPacket w w.pc = (.ok ws, s') → s'.w = s.w → s'.rest = s.rest →
      exec (.instructionFetch w.place.wid) s = .next
        { s' with w := { w with packet := some ⟨w.pc, ws⟩ } }) ∧
    (s.rest = [] → w.sched.state ≠ .exiting ∨ w.cnt.isZero = false →
      exec (.warpSlotFree w.place.wid) s = .next s) ∧
    (s.rest = [] → w.sched.state = .exiting → w.cnt = Counters.zero → ∃ u, exec (.warpSlotFree w.place.wid) s = .next u ∧ u.warp? w.place.wid = none)

/-! ## Host registers and contexts -/

/-- R75, R80, R84, R97, R205, R258, R270: a write that starts nothing sets the fields of its register and
nothing else: MCHK clears by ones, the registers of a busy partition keep their value, and a register
that cannot be written keeps all. Where the rules leave it open, this is the model's choice: log 44. -/
def Obligations.HostRegisterResult : Prop :=
  ∀ (s : State) (h : HostWrite) (v : Nat) (p : PartN) (d : Die) (b : Beam) (c : CtxN),
    let wrote := exec (.registerWrite h) s
    (Writes s h .mchk v .plain → wrote = .next (s.modPort h.port fun a =>
      { a with mchk := a.mchk &&& ~~~(BitVec.ofNat 5 v) })) ∧
    (Writes s h .nonce v .plain → wrote = .next (s.modPort h.port fun a =>
      { a with nonce := BitVec.ofNat 256 v })) ∧
    (Writes s h (.pmem p) v .plain → wrote = .next (if s.partBusy p then s
      else s.modPart p fun r =>
        { r with pmBase := BitVec.ofNat 10 (bits v 0 10), pmSize := BitVec.ofNat 11 (bits v 32 11) })) ∧
    (Writes s h (.trapv p) v .plain → wrote = .next (if s.partBusy p then s
      else s.modPart p fun r =>
        { r with trapEn := v.testBit 63, trapVa := BitVec.ofNat 49 (bits v 8 49) })) ∧
    (Writes s h (.tfbase p) v .plain → wrote = .next (if s.partBusy p then s
      else s.modPart p fun r => { r with tfBase := BitVec.ofNat 41 (bits v 16 41) })) ∧
    (Writes s h (.psave p) v .plain → wrote = .next (if s.partBusy p then s
      else s.modPart p fun r =>
        { r with saveCount := BitVec.ofNat 12 (bits v 52 12), saveBase := BitVec.ofNat 30 (bits v 22 30) })) ∧
    (Writes s h (.schedCtl d) v .plain → wrote = .next (s.modPly d fun q =>
      { q with starve := BitVec.ofNat 8 (bits v 8 8), swapThr := BitVec.ofNat 8 (bits v 0 8) })) ∧
    (Writes s h (.linkId b) v .plain → wrote = .next (s.modLinks b fun l =>
      { l with linkId := BitVec.ofNat 10 v })) ∧
    (Writes s h (.ctx b c .pgq) v .plain → wrote = .next (s.modCtx b c fun k =>
      { k with pgqBase := BitVec.ofNat 45 (bits v 12 45), pgqSize := BitVec.ofNat 4 (min (bits v 8 4) 8) })) ∧
    (Writes s h (.ctx b c .ring) v .plain → s.streamState b c = .idle → wrote = .next (s.modCtx b c fun k =>
      { k with ringBase := BitVec.ofNat 45 (bits v 12 45), ringSize := BitVec.ofNat 4 (min (bits v 8 4) 8)
               vec := BitVec.ofNat 6 (bits v 0 6) })) ∧
    (Writes s h (.ctx b c .ring) v .plain → s.streamState b c = .running → wrote = .next s) ∧
    (Writes s h (.gkill p) v .plain → wrote = .next s) ∧
    (Writes s h (.plyStatus d) v .plain → wrote = .next s) ∧
    (s.regWrite h = none → wrote = .next s)

/-- R79, R84, R96, R98, R101, R109: binding a context and taking its binding away, the writes of TAIL and
HEAD, the creation of a partition, and a command processor that stops.
Where the rules leave it open, this is the model's choice: log 38. -/
def Obligations.ContextControlResult : Prop :=
  ∀ (s : State) (h : HostWrite) (v : Nat) (b : Beam) (c : CtxN) (p : PartN),
    let k := s.ctx b c
    let off := bits v 0 20
    let legal := off % 8 = 0 ∧ off < 2 ^ (12 + k.ringSize.toNat)
    (Writes s h (.ctx b c .tail) v .tail → exec (.ctxTailWrite h) s = .next
      (if legal then s.modCtx b c fun k => { k with tail := BitVec.ofNat 20 off } else s)) ∧
    (Writes s h (.ctx b c .head) v .head → exec (.ctxHeadWrite h) s = .next
      (if k.halted = true ∧ legal then s.modCtx b c fun k =>
         { k with head := BitVec.ofNat 20 off, halted := false, err := 0, nest := [], skip := none
                  faulted := false }
       else s)) ∧
    (Writes s h (.ctx b c .bind) v .bindOn → exec (.ctxBindEnable h) s = .next
      (let q : PartN := Fin.ofNat 8 (bits v 0 3)
       if (s.part q).en = true ∧ (b = 0 ↔ q.val < 4) then
         s.modCtx b c fun k => { k with en := true, part := BitVec.ofNat 3 q.val }
       else s)) ∧
    (Writes s h (.ctx b c .bind) v .bindOff → k.cmds = [] → k.vec = 0 → exec (.ctxBindDisable h) s = .next
      (s.modCtx b c fun k =>
        let k := { k with en := false, part := BitVec.ofNat 3 (bits v 0 3) }
        if (s.ctx b c).en = true ∧ (s.ctx b c).halted = false then
          { k with halted := true, err := 0x0F, errOff := k.head }
        else k)) ∧
    (Writes s h (.part p) v .part → (List.finRange 8).all (fun q => !(s.part q).en) = true →
      s.launches = [] → s.groups = [] → (∀ e : Beam, ∀ i : Fin 64, ((s.beam e).reed.slots[i]).owned = false) →
      (∀ e ∈ s.tlb, e.part ≠ p) → p.val % 2 ^ bits v 8 2 = 0 → v.testBit 31 = true → s.dev.plyFail = 0 →
      ∃ u, exec (.partitionWrite h) s = .next u ∧ (u.part p) = { s.part p with
          en := true, size := BitVec.ofNat 2 (bits v 8 2), port := BitVec.ofNat 1 (bits v 0 1) } ∧
        (∀ q : PartN, q ≠ p → u.part q = s.part q) ∧
        (∀ e : Beam, ((u.beam e).reed.regions[p]).cleared = false) ∧ u.mem = s.mem) ∧
    (∃ u, exec (.cpHalt b) s = .next u ∧ (u.beam b).halted = true ∧
      ∀ q : Port, (u.port q).mchk = if (List.finRange 8).any (fun p => (s.part p).en &&
          (s.part p).port.toNat == q.val && decide (p.val / 4 = b.val))
        then (s.port q).mchk ||| 16 else (s.port q).mchk)

/-! ## Streams -/

/-- R99 to R102, R108: CLOBUSO_NOP completes at once; IF, ELSE, ENDIF, LOOP and ENDLOOP open, turn and close
their levels, and one that has no level to act on halts the stream with error 0x09.
Where the rules leave it open, this is the model's choice: log 37, 38. -/
def Obligations.StreamControlResult : Prop :=
  ∀ (s t : State) (b : Beam) (c : CtxN) (w : CmdWord),
    let k := s.ctx b c
    let p := past t b c w id
    (AtCmd s b c w 0x00 t → exec (.clobusoNop b c) s = .next p) ∧
    (AtCmd s b c w 0x03 t → 8 ≤ k.nest.length → exec (.cIf b c) s = .next (halted t b c w 0x09)) ∧
    (AtCmd s b c w 0x03 t → k.nest.length < 8 → ∀ (n : Nat) (z : State),
      p.cmdWord (p.cpCtx b c) w.d1 (w.arg.getLsbD 4) = (some n, z) →
      exec (.cIf b c) s = .next (z.modCtx b c fun x =>
        { x with
          nest := .cond false :: x.nest
          skip :=
            let d := if w.arg.getLsbD 4 then w.d2.toNat else w.d2.toNat % 2 ^ 32
            let met := match bits w.arg.toNat 1 3 with
              | 0 => decide (n = d)
              | 1 => decide (n ≠ d)
              | 2 => decide (n < d)
              | 3 => decide (d ≤ n)
              | 4 => decide (Nat.land n d ≠ 0)
              | 5 => decide (Nat.land n d = 0)
              | _ => false
            if met then none else some 0 })) ∧
    (AtCmd s b c w 0x04 t → exec (.cElse b c) s = .next (match k.nest with
      | .cond false :: ns => past t b c w fun x => { x with nest := .cond true :: ns, skip := some 0 }
      | _ => halted t b c w 0x09)) ∧
    (AtCmd s b c w 0x05 t → exec (.cEndif b c) s = .next (match k.nest with
      | .cond _ :: ns => past t b c w fun x => { x with nest := ns }
      | _ => halted t b c w 0x09)) ∧
    (AtCmd s b c w 0x06 t → exec (.cLoop b c) s = .next (if 8 ≤ k.nest.length then halted t b c w 0x09
      else
        let n : BitVec 32 := BitVec.ofNat 32 w.arg.toNat
        past t b c w fun x =>
          { x with nest := .loop w.next n :: x.nest, skip := if n = 0 then some 0 else none })) ∧
    (AtCmd s b c w 0x07 t → exec (.cEndloop b c) s = .next (match k.nest with
      | .loop body left :: ns =>
        if left.toNat ≤ 1 then past t b c w fun x => { x with nest := ns }
        else past t b c w fun x => { x with nest := .loop body (left - 1) :: ns, head := body }
      | _ => halted t b c w 0x09))

/-- R101, R102, R109, R110: WAITV waits for its word and is read again; SIGNAL writes or adds to its word;
and a FENCE waits for the sweep that it asks for, or completes at once.
Where the rules leave it open, this is the model's choice: log 37. -/
def Obligations.StreamWaitResult : Prop :=
  ∀ (s t : State) (b : Beam) (c : CtxN) (w : CmdWord),
    let p := past t b c w id
    let wait : CmdWait := .waitv w.d1 w.d2 true 0
    let p1 : State := { past t b c w (fun k => { k with cmds := [begun s b c w.off wait] }) with
      serial := s.serial + 1 }
    (AtCmd s b c w 0x08 t → w.arg = 0x10 → ∀ (n : Nat) (z : State),
      p1.cmdWord (p1.cpCtx b c) w.d1 true = (some n, z) → (z.ctx b c).cmds = [begun s b c w.off wait] →
      exec (.waitv b c) s = .next
        (if n = w.d2.toNat then z.modCtx b c fun k => { k with cmds := [] } else z)) ∧
    (∀ (k : Cmd) (n : Nat) (z : State), (s.ctx b c).cmds = [k] → k.wait = wait →
      (s.beam b).halted = false → s.cmdWord (s.cpCtx b c) w.d1 true = (some n, z) → (z.ctx b c).cmds = [k] →
      exec (.waitvRead b c) s = .next
        (if n = w.d2.toNat then z.modCtx b c fun x => { x with cmds := [] } else z)) ∧
    (AtCmd s b c w 0x09 t → bits w.arg.toNat 0 4 = 4 ∨ bits w.arg.toNat 0 4 = 5 →
      ∀ (pa : Nat) (z : State), p.engineAt (p.cpCtx b c) .store w.d1 8 = (.ok pa, z) →
      pa / 2 ^ 51 % 2 = 0 → z.poison = [] → (∀ x ∈ z.l1, x.ahead = false) → Memory.wf z.mem = true →
      let new := (if bits w.arg.toNat 0 2 = 0 then w.d2.toNat else wordAt z.mem pa 8 + w.d2.toNat) % 2 ^ 64
      ∃ u, exec (.signal b c) s = .next u ∧ u = { z with mem := u.mem, l1 := (z.l1Revoke pa 8).l1 } ∧
        StoredAt z u.mem pa 8 fun k => BitVec.ofNat 8 (new / 256 ^ k)) ∧
    (AtCmd s b c w 0x0A t → w.arg = 0 → exec (.clobusoFence b c) s = .next p) ∧
    (AtCmd s b c w 0x0A t → w.arg = 1 → s.sweeps = [] → ∃ u k z, exec (.clobusoFence b c) s = .next u ∧
      (u.ctx b c).cmds = [k] ∧ k.off = w.off ∧ k.wait = .sweep s.serial ∧ (u.ctx b c).head = w.next ∧
      u.sweeps = [z] ∧ z.id = s.serial ∧ z.part.val = (s.ctx b c).part.toNat ∧ z.running = true)

/-- R28, R30, R101 to R107, R111: LAUNCH and LAUNCHI queue a validated launch that keeps its descriptor, or
halt the stream with the code of what is wrong; its dent slots are given and returned; and a launch
without work left completes. Where the rules leave it open, this is the model's choice: log 37, 40. -/
def Obligations.StreamLaunchResult : Prop :=
  ∀ (s t : State) (b : Beam) (c : CtxN) (w : CmdWord),
    let p := past t b c w id
    let q : PartN := Fin.ofNat 8 (s.ctx b c).part.toNat
    let fresh := ∀ l ∈ s.launches, l.lid ≠ s.serial
    let queued := fun (u : State) (d : Desc) (ext : Nat × Nat × Nat) => ∃ l, u.launches = s.launches ++ [l] ∧
      l.lid = s.serial ∧ l.beam = b ∧ l.ctx = c ∧ l.part = q ∧ l.desc = d ∧ l.ext = ext ∧ l.next = 0 ∧
      l.faulted = false ∧ (u.ctx b c).head = w.next ∧
      (u.ctx b c).cmds.map (fun k => (k.off, k.wait)) = [(w.off, .launch s.serial)]
    (∀ (bs : List Byte) (z : State), p.engineRead (p.cpCtx b c) w.d1 128 128 = (.ok bs, z) →
      SameButXlat p z →
      let d := Desc.ofBytes bs
      let ext := (d.grid.x.toNat + 1, d.grid.y.toNat + 1, d.grid.z.toNat + 1)
      (AtCmd s b c w 0x01 t → w.arg = 0 ∨ w.arg = 1 → (∀ l ∈ s.launches, l.tag.isSome = true) →
        (∀ e, z.descError q bs d = some e → exec (.launch b c) s = .next (halted z b c w e)) ∧
        (z.descError q bs d = none → fresh → ∃ u, exec (.launch b c) s = .next u ∧ queued u d ext)) ∧
      (AtCmd s b c w 0x02 t → w.arg = 0 ∨ w.arg = 1 → (∀ l ∈ s.launches, l.tag.isSome = true) →
        ∀ (g : List Byte) (y : State), z.engineRead (z.cpCtx b c) w.d2 12 16 = (.ok g, y) →
        SameButXlat z y → y.descError q bs d = none →
        let e := (leVal (g.take 4), leVal ((g.drop 4).take 4), leVal (g.drop 8))
        (e.1 * e.2.1 * e.2.2 = 0 → exec (.launchi b c) s = .next y) ∧
        (e.1 * e.2.1 * e.2.2 ≠ 0 → fresh → ∃ u, exec (.launchi b c) s = .next u ∧ queued u d e))) ∧
    (∀ l : Launch, s.launches = [l] →
      (l.slots = true → exec (.slotAllocation l.lid) s = .next s) ∧
      (l.slots = false → l.tag.isSome = true → s.regionsClear l.part = true →
        let free := fun e : Beam => s.freeSlots e l.part
        let plies := fun e : Beam => (s.affinityDies l.part l.desc).filter fun x => dieBeam x = e
        let n := l.desc.dents.toNat
        ((∃ e, (free e).length < n * (plies e).length) → exec (.slotAllocation l.lid) s = .next s) ∧
        ((∀ e, n * (plies e).length ≤ (free e).length) → ∃ u, exec (.slotAllocation l.lid) s = .next u ∧
          u.launches = [{ l with slots := true }] ∧ u.mem = s.mem ∧ ∀ (e : Beam) (i : Fin 64),
            let k := (free e).idxOf i
            (u.beam e).reed.slots[i] =
              if k < n * (plies e).length then
                { (s.beam e).reed.slots[i] with
                  owned := true, ply := BitVec.ofNat 2 ((plies e).getD (k / n) 0).val, ltag := l.tag.getD 0
                  lid := l.lid }
              else (s.beam e).reed.slots[i])) ∧
      (s.workDone l = false → exec (.slotReturn l.lid) s = .next s ∧ exec (.launchComplete l.lid) s = .next s) ∧
      (s.workDone l = true → ∃ u, exec (.slotReturn l.lid) s = .next u ∧ u.launches = s.launches ∧
        ∀ (e : Beam) (i : Fin 64), ((u.beam e).reed.slots[i]).owned =
          (((s.beam e).reed.slots[i]).owned && ((s.beam e).reed.slots[i]).lid != l.lid)) ∧
      (s.workDone l = true → (∀ (e : Beam) (i : Fin 64), ((s.beam e).reed.slots[i]).owned = false) →
        ∃ u, exec (.launchComplete l.lid) s = .next u ∧ u.launches = [] ∧
          (u.ctx l.beam l.ctx).faulted = ((s.ctx l.beam l.ctx).faulted || l.faulted) ∧ u.mem = s.mem))

/-- R112, R113, R217 to R222: OPEN opens a closed domain with its flag word; COMMIT and ABORT close it and
wait for its launches, COMMIT then turning the generation where the flag word is zero; PAGE makes a
listed page resident and waits for a sweep; and a domain in the wrong state halts the stream.
Where the rules leave it open, this is the model's choice: log 39. -/
def Obligations.DomainPageResult : Prop :=
  ∀ (s t : State) (b : Beam) (c : CtxN) (w : CmdWord),
    let p := past t b c w id
    let q : PartN := Fin.ofNat 8 (s.ctx b c).part.toNat
    let v : Fin 16 := Fin.ofNat 16 w.arg.toNat
    let dom : DomState := (s.part q).doms[v]
    (AtCmd s b c w 0x0C t → ∀ (n : Nat) (z : State), p.cmdWord (p.cpCtx b c) w.d1 true = (some n, z) →
      SameButXlat p z → exec (.cOpen b c) s = .next (if dom = .closed then
          { z.modPart q fun r => { r with doms := r.doms.set v (.open w.d1) } with
            slices := { z.slices with
              twins := z.slices.twins.filter fun y => !(y.part == q && y.dom == BitVec.ofNat 4 v.val) } }
        else halted z b c w 0x0B)) ∧
    (AtCmd s b c w 0x0D t → w.d1 = 0 → ∀ f : Word64, dom = .open f →
      ∃ u, exec (.commit b c) s = .next u ∧ (u.part q).doms[v] = .closing f ∧
        (u.ctx b c).cmds.map Cmd.wait = [.domain (BitVec.ofNat 4 v.val) none true (some f) .launches]) ∧
    (AtCmd s b c w 0x0E t → ∀ f : Word64, dom = .open f →
      ∃ u, exec (.abort b c) s = .next u ∧ (u.part q).doms[v] = .closing f ∧
        (u.ctx b c).cmds.map Cmd.wait = [.domain (BitVec.ofNat 4 v.val) none false none .launches]) ∧
    (AtCmd s b c w 0x0D t → dom = .closed → exec (.commit b c) s = .next (halted t b c w 0x0B)) ∧
    (AtCmd s b c w 0x0E t → dom = .closed → exec (.abort b c) s = .next (halted t b c w 0x0B)) ∧
    (∀ (k : Cmd) (f : Word64) (z : State), (s.ctx b c).cmds = [k] → (s.beam b).halted = false →
      s.launches = [] → s.sweeps = [] →
      k.wait = .domain (BitVec.ofNat 4 v.val) none true (some f) .launches →
      s.cmdWord { s.cpCtx b c with part := k.part } f true = (some 0, z) → SameButXlat s z →
      ∃ u, exec (.commit b c) s = .next u ∧
        (u.part k.part).vgen = (s.part k.part).vgen ^^^ BitVec.twoPow 16 v.val ∧
        (u.part k.part).sweeps = (s.part k.part).sweeps + 1) ∧
    (AtCmd s b c w 0x0F t → w.arg = 0 → s.sweeps = [] → ∃ u k, exec (.page b c) s = .next u ∧
      (u.ctx b c).cmds = [k] ∧ k.wait = .sweep s.serial ∧ (u.ctx b c).head = w.next) ∧
    (AtCmd s b c w 0x0F t → w.arg = 1 → s.sweeps = [] →
      ∀ (bs : List Byte) (l a : Nat) (e : Pte) (y z : State),
      let x := p.cpCtx b c
      let va := leVal (bs.take 8)
      let size := 2 ^ levelShift l
      let filled := pageFilled y e.frame0 size a
      p.engineRead x w.d1 32 32 = (.ok bs, y) → SameButXlat p y → y.poison = [] → va < 2 ^ 57 →
      (y.walkFrom x va false).1 = .leaf l a e → (∀ h ∈ z.tlb, h.hits = 0) → SameButXlat y z →
      (∀ h ∈ z.l1, h.ahead = false) →
      (e.res = true ∧ y.engineWrite x (w.d1 + 24) 1 [1] = (none, z)) ∨
        (e.res = false ∧ e.ver = false ∧ (bs.getD 16 0).toNat % 2 = 0 ∧ isRemote e.frame0 = false ∧ Settled y ∧
          (∀ i : Nat, i < size / 4096 →
            y.leafAt q e (e.frame0 + 4096 * i) = (e.frame0 + 4096 * i, y)) ∧
          filled.engineWrite x (w.d1 + 24) 1 [0] = (none, z)) →
      ∃ u k, exec (.page b c) s = .next u ∧ (u.ctx b c).cmds = [k] ∧ k.wait = .sweep s.serial ∧
        u.mem = z.mem ∧ (u.ctx b c).head = w.next)

/-! ## Collectives -/

/-- R60 to R62, R67, R68, R93: COLL reads its descriptor and hands the collective to the engine of its beam: behind a
collective of its context that runs it waits; otherwise the engine rejects it, or reads PEERS, clears the record
and sends this rank's contributions. Where the rules leave it open, this is the model's choice: log 40, 41. -/
def Obligations.CollectiveResult : Prop :=
  ∀ (s t : State) (b : Beam) (c : CtxN) (w : CmdWord), AtCmd s b c w 0x0B t → ∀ (bs : List Byte) (z : State),
    let p := past t b c w id
    let k : Coll := ⟨s.serial, c, Fin.ofNat 8 (s.ctx b c).part.toNat, w.off, bs, false, [], [], [], 0, none⟩
    let x := p.cpCtx b c
    let colls := (s.beam b).links.colls
    let began := fun (u : State) (m : Coll) =>
      exec (.coll b c) s = .next u ∧ (u.beam b).links.colls = colls ++ [m] ∧ m.id = k.id ∧ m.ctx = c ∧
        m.part = k.part ∧ m.desc = bs ∧ m.off = w.off
    p.engineRead x w.d1 64 64 = (.ok bs, z) → SameButXlat p z → (∀ m ∈ colls, m.id ≠ s.serial) →
    ((∃ m ∈ colls, m.ctx = c) → (∀ m ∈ colls, m.ctx = c → m.started = true) →
      ∃ u, began u k ∧ (u.ctx b c).cmds.map Cmd.wait = [.coll s.serial] ∧ (u.ctx b c).head = w.next ∧
        u.mem = z.mem) ∧
    ((∀ m ∈ colls, m.ctx ≠ c) →
      (k.malformed = true → ∃ u code, began u { k with started := true, fate := some (2, code) } ∧
        u.mem = z.mem) ∧
      (k.malformed = false → ∀ v : State,
        v = (({ z with serial := z.serial + 2 } : State).modLinks b fun l =>
          { l with colls := l.colls ++ [{ k with started := true }] }).modCtx b c
            (fun m => { m with cmds := [⟨s.serial + 1, w.off, k.part, .coll s.serial⟩] }) →
        (∀ (e : BitVec 8) (y : State), v.readElems x k.peerVa 8 k.ranks = (.error e, y) → y.beams = v.beams →
          ∃ u, began u { k with started := true, fate := some (3, e.zeroExtend 32) }) ∧
        ∀ (ps : List Byte) (y : State), v.readElems x k.peerVa 8 k.ranks = (.ok ps, y) → y.beams = v.beams →
          let ids := (List.range k.ranks).map fun i =>
            (BitVec.ofNat 10 (((List.range 8).map fun n => (ps.getD (8 * i + n) 0).toNat * 256 ^ n).sum) : BitVec 10)
          let me := (s.beam b).links.linkId
          (ids.getD k.rank 0 ≠ me → ∃ u code, began u { k with started := true, fate := some (2, code) }) ∧
          ∀ y' : State, ids.getD k.rank 0 = me →
            y.engineWrite x (BitVec.ofNat 64 k.record) 4 [0, 0, 0, 0] = (none, y') → y'.beams = v.beams →
            (∃ u m, began u m ∧ m.started = true ∧ m.peers = ids) ∧
            ∀ (g : Nat × List Nat) (bs' : List Byte) (r : Nat) (q : State), k.gives = [g] →
              let q' := y'.modLinks b fun l => { l with colls := colls ++ [{ k with started := true, peers := ids }] }
              q'.readElems x (k.src + k.from_ g.1 * k.size) k.size (k.span g.1).2 = (.ok bs', q) →
              q.beams = q'.beams → r ∈ g.2 → r ≠ k.rank →
              ∃ u m, began u m ∧ .contribution b (ids.getD r 0)
                ⟨s.serial, g.1, me, k.rank, k.wire (k.span g.1).2 bs'⟩ ∈ u.out))

/-- R62 to R69, R93: a block of 16 f32 values goes out as the bit string of R68, filled up to a whole byte; what a
receiver rebuilds from a compressed payload is what was sent, bit for bit; a peer's
contribution is kept once, completes its chunk when it is the last, is counted late after it, and is dropped where the
collective does not expect it; a chunk that times out completes as partial; and a collective whose chunks are done
writes its record, word 0 last, and leaves, after which the next of its context starts.
Where the rules leave it open, this is the model's choice: log 41, 61. -/
def Obligations.CollectiveEventResult : Prop :=
  (∀ (ws : Fin 16 → Word32) (base : Nat), IsBase ws base →
    let out := wirePayload 16 ((List.range 64).map fun k => BitVec.ofNat 8 ((ws (Fin.ofNat 16 (k / 4))).toNat / 256 ^ (k % 4)))
    let str := blockBits ws base
    out.length = (str.length + 7) / 8 ∧
      ∀ n : Nat, n < 8 * out.length → (out.getD (n / 8) 0).getLsbD (n % 8) = str.getD n false) ∧
  (∀ (n : Nat) (bs : List Byte), bs.length = 4 * n → unwirePayload n (wirePayload n bs) = some bs) ∧
  (∀ (s : State) (b : Beam) (a : Contribution), (∀ (h : Beam), ∀ m ∈ (s.beam h).links.colls, m.id ≠ a.coll) →
    let late := ∃ (h : Beam), ∃ m ∈ (s.beam h).links.ended, m.id = a.coll ∧ m.expects a = true ∧
      m.isDone a.chunk = true
    (late → exec (.contributionArrival b a) s = .next
      (s.modLinks b fun l => { l with late := if l.late = 0xFFFF then l.late else l.late + 1 })) ∧
    (¬late → exec (.contributionArrival b a) s = .next s) ∧
    (∀ j : Nat, exec (.collTimeout b a.coll j) s = .next s)) ∧
  ∀ (s : State) (b h : Beam) (k : Coll), k ∈ (s.beam h).links.colls →
    (∀ m ∈ (s.beam h).links.colls, m.id = k.id → m = k) →
    (h = b ∨ h = 0 ∧ (∀ m ∈ (s.beam b).links.colls, m.id ≠ k.id) ∧ (s.part k.part).size = 3) →
    let x : XCtx := { s.cpCtx h k.ctx with part := k.part }
    let with_ := fun (u : State) (m : Coll) => u.modLinks h fun l =>
      { l with colls := l.colls.map fun y => if y.id = k.id then m else y }
    let done := fun (m : Coll) (j : Nat) =>
      { m with done := m.done ++ [(j, m.mask j)], partials := if m.full j then m.partials else m.partials + 1 }
    let ends := fun (i : Instr) (m : Coll) (j : Nat) =>
      let u := with_ s (done m j)
      (m.result j = none → exec i s = .next u) ∧
      ∀ (es : List (List Byte)) (y : State), m.result j = some es →
        (u.writeElems x (k.dst + k.place j * k.size) k.size es = (none, y) → exec i s = .next y) ∧
        ∀ e : BitVec 8, u.writeElems x (k.dst + k.place j * k.size) k.size es = (some e, y) →
          exec i s = .next (y.modLinks h fun l => { l with colls := l.colls.map fun m =>
            if m.id = k.id then { m with fate := some (3, e.zeroExtend 32) } else m })
    (∀ a : Contribution, a.coll = k.id →
      let arrival : Instr := .contributionArrival b a
      (k.expects a = false ∨ k.unwire (k.span a.chunk).2 a.data = none → exec arrival s = .next s) ∧
      ∀ bs : List Byte, k.unwire (k.span a.chunk).2 a.data = some bs →
      k.chunks.contains a.chunk = true → (k.sources a.chunk).contains a.rank = true → a.rank ≠ k.rank →
      (k.started = true → k.peers.getD a.rank 0 = a.peer) →
      let k' := { k with got := k.got ++ [{ a with data := bs }] }
      (k.isDone a.chunk = true → exec arrival s = .next
        (s.modLinks b fun l => { l with late := if l.late = 0xFFFF then l.late else l.late + 1 })) ∧
      (k.isDone a.chunk = false → (∃ m ∈ k.got, m.chunk = a.chunk ∧ m.rank = a.rank) →
        exec arrival s = .next s) ∧
      (k.isDone a.chunk = false → (∀ m ∈ k.got, m.chunk = a.chunk → m.rank ≠ a.rank) →
        (k.started = false ∨ k.fate ≠ none ∨ k'.full a.chunk = false → exec arrival s = .next (with_ s k')) ∧
        (k.started = true → k.fate = none → k'.full a.chunk = true → ends arrival k' a.chunk))) ∧
    (∀ j : Nat, k.started = true → k.fate = none → k.timeout ≠ 0 → k.chunks.contains j = true →
      k.isDone j = false → ends (.collTimeout b k.id j) k j) ∧
    (∀ j : Nat, k.started = false ∨ k.fate ≠ none ∨ k.timeout = 0 ∨ k.chunks.contains j = false ∨
      k.isDone j = true → exec (.collTimeout b k.id j) s = .next s) ∧
    (k.started = false ∨ k.fate = none ∧ k.chunks.all k.isDone = false →
      exec (.collComplete b k.id) s = .next s) ∧
    (k.started = true → (k.fate ≠ none ∨ k.chunks.all k.isDone = true) →
      let result : Nat := k.fate.elim (if k.partials = 0 then 0 else 1) fun f => f.1.toNat
      let code : Nat := k.fate.elim 0 fun f => f.2.toNat
      let masks := if result = 2 then [] else k.chunks.flatMap fun j =>
        leBytes 32 ((k.done.find? fun d => d.1 == j).elim 0 fun d => d.2.toNat)
      let n := if k.record % 4 = 0 then 4 else 1
      let cut := fun bs : List Byte => (List.range (bs.length / n)).map fun i => (bs.drop (n * i)).take n
      let gone := fun u : State => u.modLinks h fun l =>
        { l with colls := l.colls.filter fun m => m.id != k.id, ended := l.ended ++ [{ k with got := [] }] }
      let tail := cut (leBytes 4 code ++ List.replicate 56 0 ++ masks)
      let head := cut (leBytes 4 (2 ^ 31 + result * 2 ^ 29 + k.partials % 2 ^ 16))
      ∀ y z : State, s.writeElems x (k.record + 4) n tail = (none, y) →
        (y.writeElems x k.record n head = (none, z) → z.beams = s.beams →
          ((∀ m ∈ (s.beam h).links.colls, m.id ≠ k.id → m.started = true) →
            exec (.collComplete b k.id) s = .next (gone z)) ∧
          ∀ m : Coll, (s.beam h).links.colls = [k, m] → m.id ≠ k.id → m.ctx = k.ctx → m.started = false →
            m.malformed = true →
            ∃ u code, exec (.collComplete b k.id) s = .next u ∧
              (u.beam h).links.colls = [{ m with started := true, fate := some (2, code) }] ∧
              (u.beam h).links.ended = (s.beam h).links.ended ++ [{ k with got := [] }]) ∧
        ∀ e : BitVec 8, y.writeElems x k.record n head = (some e, z) → z.beams = s.beams →
          (∀ m ∈ (s.beam h).links.colls, m.id ≠ k.id → m.started = true) → (s.ctx h k.ctx).halted = false →
          (s.ctx h k.ctx).vec = 0 → exec (.collComplete b k.id) s = .next ((gone z).modCtx h k.ctx fun m =>
            { m with halted := true, err := 0x0D, errOff := k.off }))

/-! ## Plies -/

/-- R16 to R24, R45, R46: a request for a state, the state's entry once nothing keeps the ply in run and its L1s'
words have been written back, the wakes to run and to doze with their replay of the log or copy of the mirror, the heat index of each ply's hottest sensor, which the events give in
thousandths of a degree, and the clock events.
Where the rules leave it open, this is the model's choice: log 57, 63. -/
def Obligations.PlyResult : Prop :=
  ∀ (s : State) (h : HostWrite) (d : Die) (v : Nat) (ts : Vector (Int × List Int) 8),
    let p := s.ply d
    let asked := fun (n : BitVec 2) => s.modPly d fun q =>
      { q with
        autoDoze := BitVec.ofNat 8 (bits v 8 8), req := n
        pend :=
          if (q.state = .run ∧ n = 0) ∨ (q.state = .doze ∧ n = 1) ∨ (q.state = .sleep ∧ n = 2) then 0
          else if n = 0 then 3 else n }
    (Writes s h (.plyCtl d) v .plyRun → exec (.plyReqRun h) s = .next (asked 0)) ∧
    (Writes s h (.plyCtl d) v .plyDoze → exec (.plyReqDoze h) s = .next (asked 1)) ∧
    (Writes s h (.plyCtl d) v .plySleep → exec (.plyReqSleep h) s = .next (asked 2)) ∧
    (p.state = .run ∧ (p.pend = 1 ∨ p.pend = 2) ∨ p.state = .doze ∧ p.pend = 2 → exec (.plyStateEntry d) s = .next
      (if s.plyBusy d then s else s.modPly d fun q => { q with state := .trans q.pend })) ∧
    (∀ n : BitVec 2, n = 1 ∨ n = 2 → p.state = .trans n → p.wake = .none →
      ((∃ o ∈ s.ops, coreDie o.core = d) → exec (.plyStateEntry d) s = .next s) ∧
      (p.pend = n → (∀ o ∈ s.ops, coreDie o.core ≠ d) → ∃ u, exec (.plyStateEntry d) s = .next u ∧
        u = { s.modPly d (fun q =>
                { q with state := if n = 1 then .doze else .sleep, listen := decide (n = 1), pend := 0 }) with
              l1 := s.l1.filter fun y => coreDie y.core != d
              slices := u.slices
              mem := u.mem } ∧
        ((∀ y ∈ s.l1, coreDie y.core = d → y.dirty = true → y.ahead = false) → u.mem = s.mem) ∧
        (s.slices.twins = [] → Memory.wf s.mem = true → ∀ y ∈ s.l1, coreDie y.core = d → y.dirty = true →
          y.ahead = true → (∀ z ∈ s.l1, z ≠ y → z.pa + 4 ≤ y.pa ∨ y.pa + 4 ≤ z.pa) →
          wordAt u.mem y.pa 4 = y.data.toNat))) ∧
    (p.state = .doze → p.pend = 3 → exec (.dozeWake d) s = .next
      (s.modPly d fun q => { q with state := .trans 0 })) ∧
    (p.state = .trans 0 → p.wake = .none → p.pend = 3 → exec (.dozeWake d) s = .next
      (s.modPly d fun q => { q with state := .run, listen := true, pend := 0 })) ∧
    (p.autoDoze ≠ 0 → p.state = .run → p.pend = 0 → s.groups = [] →
      exec (.autoDoze d) s = .next (s.modPly d fun q => { q with pend := 1 })) ∧
    (p.autoDoze = 0 → exec (.autoDoze d) s = .next s) ∧
    (p.state = .sleep → p.pend = 3 ∨ p.pend = 1 → ∃ k, exec (.listenerLock d) s = .next
        (s.modPly d fun q => { q with state := .trans (if p.pend = 3 then 0 else 1), wake := k }) ∧
      (k = .replay ↔ (s.beam (dieBeam d)).reed.head - p.applied ≤ 4096 ∧
        ∀ e ∈ (s.beam (dieBeam d)).reed.log, p.applied < e.dsn → e.bad = false) ∧
      (k = .replay ∨ k = .copying)) ∧
    (∀ n : BitVec 2, n = 0 ∨ n = 1 → p.state = .trans n → p.wake = .replay →
      let ds := (s.beam (dieBeam d)).reed.log.filter fun e => decide (p.applied < e.dsn)
      ((∃ e ∈ ds, e.bad = true) → exec (.logReplay d) s = .next (s.modPly d fun q => { q with wake := .copying })) ∧
      ((∀ e ∈ ds, e.bad = false) → Memory.wf p.mirror = true → ∃ (q : Ply) (ms : Nat → List Host.Cell),
        exec (.logReplay d) s = .next (s.modPly d fun _ => q) ∧
        q = { awoken p n with
              mirror := ms ds.length, mirrorBad := q.mirrorBad, applied := ds.getLast?.elim p.applied Dent.dsn } ∧
        ms 0 = p.mirror ∧ ∀ (i : Nat) (e : Dent), ds[i]? = some e → Dented e.kind (ms i) (ms (i + 1)))) ∧
    (∀ n : BitVec 2, n = 0 ∨ n = 1 → p.state = .trans n → p.wake = .copying → ∀ e : Die, e ≠ d →
      dieBeam e = dieBeam d → (s.ply e).state = .run →
      (∀ f : Die, f.val < e.val → dieBeam f = dieBeam d → f ≠ d →
        (s.ply f).state ≠ .run ∧ (s.ply f).state ≠ .doze) →
      exec (.mirrorCopy d) s = .next (s.modPly d fun q =>
        { awoken q n with
          mirror := (s.ply e).mirror, mirrorBad := (s.ply e).mirrorBad, applied := (s.ply e).applied })) ∧
    (s.dev.ready = true → ∃ u, exec (.heatPublish ts) s = .next u ∧ ∀ e : Die, u.ply e = { s.ply e with
      heat :=
        let hottest := ts[e].2.foldl max ts[e].1
        if hottest < 25000 then 0
        else if 152500 ≤ hottest then 255
        else BitVec.ofNat 8 ((hottest - 25000).toNat / 500) }) ∧
    (s.dev.ready = false → exec (.heatPublish ts) s = .next s) ∧
    exec (.clockStepDown d) s = .next (s.modPly d fun q => { q with slowed := q.slowed + 1, throttle := true }) ∧
    exec (.clockStepUp d) s = .next (s.modPly d fun q =>
      { q with slowed := q.slowed - 1, throttle := decide (1 < q.slowed) })

/-! ## The reed -/

/-- R25 to R33, R35, R39, R41, R45: a slot's owner sends the first unsent entry of its queue, which takes the next
number and the slot's tag; the oldest dent that has passed, be it a write, an atomic, a region-clear or a token, is
applied to every mirror that listens and leaves its queue; an atomic's old value is that of its sender's mirror; a token
counts for its launch's beam barriers; and the region-clear dent, with slot tag 0xFF, passes in the slot that is its own.
Where the rules leave it open, this is the model's choice: log 42. -/
def Obligations.ReedResult : Prop :=
  ∀ (s : State) (b : Beam) (p : PartN),
    let r := (s.beam b).reed
    let slot : ReedSlot := r.slots[r.slotCtr.toNat]
    let turn := fun u : State => u.modReed b fun x => { x with slotCtr := x.slotCtr + 1 }
    (r.calOk = false → exec (.dentPass b) s = .next s) ∧
    (r.calOk = true → slot.owned = false → (∀ x : PartN, s.mayClear b x = false) →
      exec (.dentPass b) s = .next (turn s)) ∧
    (r.calOk = true → slot.owned = true →
      let d : Die := Fin.ofNat 8 (4 * b.val + slot.ply.toNat)
      (s.ply d).perf.freeze = true →
      ∀ (e : QEntry) (es : List QEntry), (s.ply d).queue = e :: es → e.sent = false →
      (∀ f ∈ es, f.id ≠ e.id) →
      exec (.dentPass b) s = .next (if e.lid = slot.lid then
          turn ((s.modPly d fun q => { q with queue := { e with sent := true } :: es }).modReed b fun x =>
            { x with passed := x.passed ++ [⟨x.head + x.passed.length + 1, slot.ltag, d, e.kind, e.id, false⟩] })
        else turn s)) ∧
    (r.passed = [] → exec (.dentApply b) s = .next s) ∧
    (∀ e : Dent, r.passed = [e] → (∀ d : Die, Memory.wf (s.ply d).mirror = true) →
      let applied := fun u : State =>
        exec (.dentApply b) s = .next u ∧ (u.beam b).reed.head = e.dsn ∧ (u.beam b).reed.passed = [] ∧ u.mem = s.mem ∧
        (∀ d : Die, dieBeam d = b → (s.ply d).listen = true →
          (u.ply d).applied = e.dsn ∧ Dented e.kind (s.ply d).mirror (u.ply d).mirror) ∧
        (∀ d : Die, dieBeam d = b → (s.ply d).listen = false →
          (u.ply d).mirror = (s.ply d).mirror ∧ (u.ply d).applied = (s.ply d).applied) ∧
        (s.groups = [] ∨ e.kind.tokenOf = none →
          (u.ply e.die).queue = (s.ply e.die).queue.filter fun q => q.id != e.id || e.id == 0)
      (s.ops = [] → ∃ u, applied u ∧ u.ops = [] ∧
        (e.kind.tokenOf = none → (u.beam b).reed.bars = r.bars) ∧
        ∀ lid : Nat, e.kind.tokenOf = some lid → (r.bars.map fun x => (x.lid, x.n)).Nodup →
          (u.beam b).reed.bars =
            ((if ∃ x ∈ r.bars, x.lid = lid then r.bars
              else r.bars ++ (List.range 8).map fun n => (⟨lid, BitVec.ofNat 3 n, 0, 0, 0⟩ : BeamBar)).map fun x =>
                if x.lid = lid then tokened e.kind x else x)) ∧
      (∀ (o : Op) (x : Elem) (blk off : Nat) (a : AOp) (t : ATy) (v c : Word64), s.ops = [o] → o.elems = [x] →
        o.kind = .atomic a t true → o.l1.isSome = true → x.state = .waiting → x.loc = .reed b (256 * blk + off) →
        e.kind = .atomic blk off a t v c o.id x.lane.toNat → e.die = coreDie o.core →
        (s.ply e.die).mirrorBad = [] →
        ∃ u, applied u ∧ u.w = s.w ∧ u.ops = [{ o with elems :=
          [{ x with state := .performed, old := BitVec.ofNat 64 (wordAt (s.ply e.die).mirror (256 * blk + off) t.bytes) }] }])) ∧
    (s.launches = [] → exec (.regionClear b p) s = .next s) ∧
    (s.mayClear b p = true →
      let region : ReedRegion := r.regions[p]
      let clear : DentKind := .clear p (2 ^ 16 * region.base.toNat) (2 ^ 16 * region.size.toNat)
      let cleared := s.modReed b fun x =>
        { x with
          passed := x.passed ++
            [⟨x.head + x.passed.length + 1, 0xFF, Fin.ofNat 8 (4 * b.val), clear, 0, false⟩]
          regions := x.regions.set p { region with cleared := true }
          slotCtr := x.slotCtr + 1 }
      exec (.regionClear b p) s = .next cleared ∧ exec (.dentPass b) s = .next cleared)

/-! ## Starts, firmware and attestation -/

/-- R85 to R92: every start leaves the machine as R86 and R88 say, a warm one with the memory, and reads the image in
flash; a start ends ready and cleared once more, in recovery where that image failed, with the results of its steps; the flash window
programs the bytes written and no other; and a quote is captured and then finished.
Where the rules leave it open, this is the model's choice: memory is zero after a cold start (log 1), a start keeps the
links and the size of BAR4, which is 1 GiB as power comes (log 3), and log 10, 45, 63. -/
def Obligations.StartResult : Prop :=
  ∀ (s : State) (h : HostWrite) (v : Nat) (q : Port) (fails : BitVec 8),
    (Writes s h .bootCtl v .cold → ∃ u, exec (.bootColdStart h) s = .next u ∧ Started s u false ∧
      u.dev.start = BitVec.ofNat 2 v) ∧
    (Writes s h .bootCtl v .warm → ∃ u, exec (.bootWarmStart h) s = .next u ∧ Started s u true ∧
      u.dev.start = BitVec.ofNat 2 v ∧ u.dev.forceCal = v.testBit 2) ∧
    (s.dev.power = true → q = 0 ∨ (s.port 0).linkUp = false →
      ∃ u, exec (.fundamentalReset q) s = .next u ∧ Started s u true) ∧
    (q ≠ 0 → (s.port 0).linkUp = true → exec (.fundamentalReset q) s = .next s) ∧
    (s.dev.power = false → ∃ u, exec .powerUp s = .next u ∧ Started s u false ∧
      ∀ r : Port, (u.port r).bar4 = 1) ∧
    (s.dev.power = true → exec .powerUp s = .next s) ∧
    (∃ u, exec .powerRemoval s = .next u ∧ u.dev.power = false ∧ u.dev.ready = false ∧
      u.dev.starting = false ∧ u.dev.retCal = false ∧ u.dev.vaultEcc = false ∧ u.dev.vaultFix = [] ∧
      u.mem = [] ∧ u.flash = s.flash ∧ u.dev.fuseSvn = s.dev.fuseSvn ∧ u.launches = [] ∧ u.l1 = [] ∧
      ∀ r : Port, (u.port r).mchk = 0) ∧
    (s.dev.starting = false → exec (.bootReady fails) s = .next s) ∧
    (s.dev.starting = true →
      let test := s.dev.kind = 1 ∨ s.dev.vaultEcc = true
      ∃ u, exec (.bootReady fails) s = .next u ∧
        (s.dev.img.ok = false → u = { s with dev := { s.dev with authFail := true, starting := false } }) ∧
        (s.dev.img.ok = true → Cleared s u true ∧ u.mem = retained s ∧ u.dev.start = 0 ∧
          u.dev.ready = true ∧ u.dev.starting = false ∧
          (u.dev.calReused = true ↔ s.dev.kind = 2 ∧ s.dev.retCal = true ∧ s.dev.forceCal = false ∧
            s.dev.retDigest = s.dev.img.digest) ∧
          (u.dev.vtestRan = true ↔ test) ∧ u.dev.plyFail = (if test then fails else s.dev.plyFail) ∧
          u.dev.svn = s.dev.img.svn ∧ u.dev.fwDigest = s.dev.img.digest ∧ u.dev.fuseSvn = s.dev.fuseSvn ∧
          ∀ r : Port, (u.port r).mchk =
            if test ∧ fails ≠ 0 then ((s.port r).mchk &&& 2) ||| 2 else (s.port r).mchk &&& 2)) ∧
    (∀ w : RegWrite, s.regWrite h = some w → w.reg = .flashWin → Memory.wf s.flash = true →
      let at_ := (s.port w.port).fwPage.toNat % 1024 * 2 ^ 15 + w.first
      ∃ u, exec (.flashWindowWrite h) s = .next u ∧ u = { s with flash := u.flash } ∧
        ∀ i : Nat, cellGet u.flash i =
          if at_ ≤ i ∧ i < at_ + w.size then BitVec.ofNat 8 (h.data.toNat / 256 ^ (i - at_))
          else cellGet s.flash i) ∧
    (Writes s h .attestCtl v .attest → (s.port h.port).attBusy = false → s.dev.ready = true →
      exec (.attestRequest h) s = .next (s.modPort h.port fun a =>
        { a with attReq := BitVec.ofNat 8 v, attBusy := true, capture := s.quoteBody h.port })) ∧
    (Writes s h .attestCtl v .attest → (s.port h.port).attBusy = false → s.dev.ready = false →
      exec (.attestRequest h) s = .next (s.modPort h.port fun a =>
        { a with attReq := BitVec.ofNat 8 v, attBusy := false })) ∧
    (Writes s h .attestCtl v .attest → (s.port h.port).attBusy = true →
      exec (.attestRequest h) s = .next s) ∧
    ((s.port q).attBusy = true → s.dev.ready = true → (s.port q).capture.length = 256 →
      ∃ u, exec (.quoteDone q) s = .next u ∧ (u.port q).attBusy = false ∧
        (u.port q).attDone = (s.port q).attReq ∧ (u.port q).quote.length = 0x1A0 ∧
        (u.port q).quote.take 256 = (s.port q).capture ∧ u.mem = s.mem) ∧
    ((s.port q).attBusy = false → exec (.quoteDone q) s = .next s)

/-! ## What comes from outside -/

/-- R53, R56 to R59, R83 to R85, R194 to R196: accesses through BAR4 and from peers are performed or
rejected, a peer's acknowledgement, rejection or silence ends the remote elements of an access, links change and fail,
and soft errors strike or are corrected.
Where the rules leave it open, this is the model's choice: log 9, 45, 46, 60, 62. -/
def Obligations.OutsideResult : Prop :=
  ∀ (s : State) (q : Port) (up : Bool) (gib : BitVec 11) (d : Die) (n : BitVec 4),
    exec .flitRetry s = .next s ∧
    exec (.portLinkChange q up) s = .next (s.modPort q fun a => { a with linkUp := up }) ∧
    (∀ k : Nat, k ≤ 10 → gib.toNat = 2 ^ k → exec (.resizableBarSet q gib) s = .next
      (s.modPort q fun a => { a with bar4 := gib.toNat })) ∧
    ((∀ k : Nat, k ≤ 10 → gib.toNat ≠ 2 ^ k) → exec (.resizableBarSet q gib) s = .next s) ∧
    (s.dev.linkDown = true ∨ s.dev.power = false → exec .beamLinkDown s = .next s) ∧
    (s.dev.linkDown = false → s.dev.power = true → ∃ u, exec .beamLinkDown s = .next u ∧
      u.dev.linkDown = true ∧ u.launches = s.launches.map (fun l =>
        if (s.part l.part).size = 3 then { l with stopped := true } else l) ∧
      ∀ r : Port, (u.port r).mchk = (s.port r).mchk ||| 1) ∧
    (∃ u, exec (.ualDown n) s = .next u ∧ u.mem = s.mem ∧ ∀ r : Port, (u.port r).mchk =
      if ∃ p : PartN, (s.part p).en = true ∧ (s.part p).port.toNat = r.val ∧ ∃ e : Die,
          s.dieIn p e = true ∧ ∃ i : Fin 32, ((s.beam (dieBeam e)).links.rwin[i]).en = true ∧
            ((s.beam (dieBeam e)).links.rwin[i]).ports.getLsbD n.toNat = true
      then (s.port r).mchk ||| 4 else (s.port r).mchk) ∧
    (∀ (off : Nat) (bs : List Byte), s.dev.power = true → s.poison = [] →
      let w := exec (.bar4Access ⟨q, off, some bs, 0⟩) s
      let inside := s.dev.ready = true ∧ off + bs.length ≤ (s.port q).bar4 * 2 ^ 30 ∧
        ∃ p : PartN, (s.part p).en = true ∧ (s.part p).port.toNat = q.val ∧
          s.inPmem p off bs.length = true
      (inside → Settled s → w = .next { s with mem := cellPut s.mem off bs, l1 := (s.l1Revoke off bs.length).l1 }) ∧
      (¬inside → (s.port q).hostErr.toNat < 2 ^ 32 - 1 → w = .next
        (s.modPort q fun a => { a with hostErr := a.hostErr + 1 }))) ∧
    (∀ (off len : Nat), s.dev.power = true → s.poison = [] →
      let r := exec (.bar4Access ⟨q, off, none, len⟩) s
      (s.bar4Ok q off len = true → (∀ x ∈ s.l1, x.ahead = false) → r = .next
        (s.emit (.bar4Data q ((List.range len).map fun i => cellGet s.mem (off + i))))) ∧
      (s.bar4Ok q off len = false → (s.port q).hostErr.toNat < 2 ^ 32 - 1 → r = .next
        ((s.modPort q fun a => { a with hostErr := a.hostErr + 1 }).emit
          (.bar4Data q (List.replicate len 0xFF))))) ∧
    (∀ a : InboundReq, s.dev.ready = true → s.poison = [] → Settled s →
      let r := exec (.inboundRemoteAccess a) s
      let out := fun (t : State) (ok : Bool) (bs : List Byte) => Host.Outcome.next (t.emit (.response a.beam ok bs))
      let granted := fun size : Nat => a.off + size ≤ 2 ^ 40 ∧ ∃ i : Fin 32,
        let w : LinkWin := (s.beam a.beam).links.reexp[i]
        w.en = true ∧ w.peer = a.peer ∧ w.base.toNat * 2 ^ 30 ≤ a.off ∧
          a.off + size ≤ (w.base.toNat + w.size.toNat) * 2 ^ 30
      (a.kind = .load → r = if granted a.len then
          out s true ((List.range a.len).map fun i => cellGet s.mem (a.off + i)) else out s false []) ∧
      (a.kind = .store → r = if granted a.data.length then
          out { s with mem := cellPut s.mem a.off a.data, l1 := (s.l1Revoke a.off a.data.length).l1 } true []
        else out s false []) ∧
      (a.kind = .atomic → a.aop ≠ .cas → r =
        let size := a.aty.bytes
        if granted size ∧ a.off % size = 0 ∧ a.aty ≠ .f32 then
          let old := wordAt s.mem a.off size
          let new := atomically a.aop a.aty old (leVal a.data) 0
          out { s with
              mem := if new.2 then cellPut s.mem a.off (leBytes size new.1) else s.mem
              l1 := (s.l1Revoke a.off size).l1 } true (leBytes size old)
        else out s false [])) ∧
    (∀ (w : Warp) (o : Op) (e : Elem) (pa : Nat), Alone s w → s.ops = [o] → o.wid = w.place.wid →
      o.gid = w.place.gid → o.elems = [e] → e.state = .waiting → e.loc = .phys pa → pa / 2 ^ 51 % 2 = 1 →
      o.kind = .store → o.acq = false → s.held = [] → w.exited = false → w.faults = [] →
      w.cnt = { Counters.zero with sc := [⟨o.id, false⟩] } → w.aside = Counters.zero →
      let ended := { s with ops := [], w := { w with cnt := Counters.zero }, draws := s.draws + 1 }
      let failed := fun f : FaultRec => { ended with w := { ended.w with faults := [f] } }
      (o.l1.isSome = true →
        (Config.remoteRejected s.draws = false → exec (.remoteAcknowledge o.id) s = .next ended) ∧
        (Config.remoteRejected s.draws = true → ∃ f, exec (.remoteAcknowledge o.id) s = .next (failed f) ∧
          f.cause = 0x10 ∧ f.remoteTo = false ∧ f.addr = e.va ∧ f.lane = e.lane) ∧
        ∃ f, exec (.remoteTimeout o.id) s = .next (failed f) ∧
          f.cause = 0x10 ∧ f.remoteTo = true ∧ f.addr = e.va ∧ f.lane = e.lane) ∧
      (o.l1 = none → exec (.remoteAcknowledge o.id) s = .next s ∧ exec (.remoteTimeout o.id) s = .next s)) ∧
    (∀ a : Nat, exec (.softError ⟨.vault a, false⟩) s = .next
      { s with poison := s.poison ++ [⟨.vault (a / 8 * 8), 4, 0, 0⟩], dev := { s.dev with vaultEcc := true } }) ∧
    (∀ i r l, exec (.softError ⟨.lane i r l, false⟩) s = .next
      { s with regPoison := s.regPoison ++ [.lane i r l] }) ∧
    (∀ i r l, exec (.softError ⟨.lane i r l, true⟩) s = .next s) ∧
    (∀ pa : Nat, exec (.softError ⟨.hbm pa, true⟩) s = .next s) ∧
    (∀ pa : Nat, (∀ p : PartN, (s.part p).en = false) → ∃ u,
      exec (.softError ⟨.hbm pa, false⟩) s = .next u ∧
      u.poison = s.poison ++ [⟨.phys (pa / 8 * 8), 9, 0, 0⟩] ∧
      (∀ r : Port, (u.port r).mchk = (s.port r).mchk ||| 8) ∧ u.mem = s.mem) ∧
    ((s.ply d).state = .run → ∀ (x : Poison) (a : Nat), x ∈ s.poison → x.loc = .vault a → a / 2 ^ 31 = d.val →
      exec (.patrolScrub d) s = .next { s with dev := { s.dev with vaultEcc := true } }) ∧
    ((∀ x ∈ s.poison, ∀ a : Nat, x.loc = .vault a → a / 2 ^ 31 ≠ d.val) →
      exec (.patrolScrub d) s = .next s) ∧
    ((s.ply d).state = .sleep → exec (.patrolScrub d) s = .next s)

/-! ## Tracing and counters -/

/-- R215, R299 to R301, R304: tracing starts with every WPTR and LOST of the die zero, a queued record is
written at WPTR and then WPTR itself, tracing stops, the counters clear, a read of a low half latches the
high half, and a write-back begins and ends, with the lines of HBM4E that its slices have written counted, and with
which two homes of a granule hold the same bytes again: a line has those of the home that has changed it.
Where the rules leave it open, this is the model's choice: log 43, 62, 63. -/
def Obligations.TraceCounterResult : Prop :=
  ∀ (s : State) (h : HostWrite) (v : Nat) (d : Die) (p : PartN),
    let t := (s.ply d).trace
    (Writes s h (.traceCtl d) v .traceOn → s.traceRoom d t = true →
      ∃ u, exec (.traceEnable h) s = .next u ∧ u.plies = (s.modPly d fun q => { q with trace :=
          { t with
            en := true, lost := 0, stop := v.testBit 30, swaps := v.testBit 2, waits := v.testBit 1
            issues := v.testBit 0
            cores := t.cores.map fun c => { c with wptr := 0, lost := 0, since := 0 } } }).plies ∧
        (Memory.wf s.mem = true → ∀ i : Nat, i < 192 →
          let base := t.base.toNat * 2 ^ 16 + i * (t.seg.toNat + 1) * 2 ^ 16
          wordAt u.mem base 8 = 0 ∧ wordAt u.mem (base + 0x10) 4 = 0)) ∧
    (Writes s h (.traceCtl d) v .traceOn → s.traceRoom d t = false →
      exec (.traceEnable h) s = .next s) ∧
    (Writes s h (.traceCtl d) v .traceOff → t.cores = [] → exec (.traceDisable h) s = .next
      (s.modPly d fun q => { q with trace :=
        { t with
          en := false, stop := v.testBit 30, swaps := v.testBit 2, waits := v.testBit 1
          issues := v.testBit 0 } })) ∧
    (∀ (core : Nat) (c : TraceCore) (r : List Byte), coreDie core = d → t.cores = [c] → c.core = core →
      t.en = true → c.queue = [r] → r.length = 32 → c.since = 0 → t.stop = false → c.wptr + 32 < 2 ^ 64 →
      s.traceRoom d t = true →
      Memory.wf s.mem = true →
      let n := (t.seg.toNat + 1) * 2 ^ 16
      let base := t.base.toNat * 2 ^ 16 + core % 192 * n
      let at_ := base + 64 + c.wptr % (n - 64)
      c.wptr % 32 = 0 →
      ∃ u, exec (.wptrPublish core) s = .next u ∧
        (u.ply d).trace = { t with cores := [{ c with queue := [], wptr := c.wptr + 32 }] } ∧
        (∀ i : Nat, i < 32 → cellGet u.mem (at_ + i) = r.getD i 0) ∧
        wordAt u.mem base 8 = c.wptr + 32 ∧ wordAt u.mem (base + 0x10) 4 = c.lost % 2 ^ 32 ∧
        ∀ x : Nat, (x < at_ ∨ at_ + 32 ≤ x) → (x < base ∨ base + 8 ≤ x) →
          (x < base + 0x10 ∨ base + 0x14 ≤ x) → cellGet u.mem x = cellGet s.mem x) ∧
    (∀ core : Nat, coreDie core = d → t.cores = [] ∨ t.en = false → exec (.wptrPublish core) s = .next s) ∧
    (Writes s h (.cntCtl d) v .clear → exec (.counterClear h) s = .next
      (let u := s.modPly d fun q => { q with perf := { q.perf with
        freeze := v.testBit 1, vals := Vector.replicate 9 0 } }
       { u with slices := { s.slices with traffic := s.slices.traffic.set d ⟨0, 0, 0, 0⟩ } })) ∧
    (∀ (r : HostRead) (k : Fin 9) (n : Nat), accessAt r.off r.size = some (.counter d k, 8, n) →
      s.dev.power = true → s.visible r.port (.counter d k) = true →
      let lines : Traffic := s.slices.traffic[d]
      let x : Word64 :=
        if k = 0 then lines.near else if k = 1 then lines.far else if k = 6 then lines.walks
        else if k = 8 then lines.hbm else (s.ply d).perf.vals[k]
      let high : BitVec 32 := BitVec.ofNat 32 (x.toNat / 2 ^ 32)
      (r.size = 4 → n = 0 → exec (.counterLatchRead r) s = .next
        ((s.modPly d fun q => { q with
            perf := { q.perf with latch := q.perf.latch.set k (some high) } }).emit
          (.readData r.port (BitVec.ofNat 64 (x.toNat % 2 ^ 32))))) ∧
      (r.size = 4 → n = 4 → ∀ y : BitVec 32, (s.ply d).perf.latch[k] = some y →
        exec (.counterLatchRead r) s = .next
        ((s.modPly d fun q => { q with
            perf := { q.perf with latch := q.perf.latch.set k none } }).emit
          (.readData r.port (y.zeroExtend 64)))) ∧
      (r.size = 8 → exec (.counterLatchRead r) s = .next
        (s.emit (.readData r.port x)))) ∧
    (Writes s h (.l2wb p) v .l2wb → (s.part p).l2Busy = false → exec (.l2wbStart h) s = .next
      (s.modPart p fun r =>
        { r with l2Busy := true, l2Size := BitVec.ofNat 24 (bits v 36 24), l2Base := BitVec.ofNat 36 v })) ∧
    (Writes s h (.l2wb p) v .l2wb → (s.part p).l2Busy = true → exec (.l2wbStart h) s = .next s) ∧
    ((s.part p).l2Busy = false → exec (.l2wbDone p) s = .next (s.modPart p fun r => { r with l2Busy := false })) ∧
    ((s.part p).l2Busy = true → s.slices.homes = [] → ∃ u, exec (.l2wbDone p) s = .next u ∧
      u = { s.modPart p (fun r => { r with l2Busy := false }) with
            slices := { s.slices with traffic := u.slices.traffic } } ∧
      ∀ e : Die, u.slices.traffic[e] = { s.slices.traffic[e] with hbm := (u.slices.traffic[e]).hbm } ∧
        (s.dieIn p e = false ∨ (s.ply e).perf.freeze = true → u.slices.traffic[e] = s.slices.traffic[e])) ∧
    (∀ (y : Homes) (e : Die), s.slices.homes = [y] → y.others = [e] → (s.part p).l2Busy = true →
      (s.part p).l2Base.toNat * 16 ≤ y.page →
      y.page < (s.part p).l2Base.toNat * 16 + (s.part p).l2Size.toNat * 16 → s.dieIn p y.first = true →
      Memory.wf s.mem = true →
      let same := fun (i j : Nat) => ∀ k : Nat, k < 128 →
        cellGet s.mem (y.page * 4096 + i + k) = cellGet s.mem (y.page * 4096 + j + k)
      ∃ u, exec (.l2wbDone p) s = .next u ∧ (u.part p).l2Busy = false ∧
        u.slices.homes = (if s.homeUsed y then [y] else []) ∧
        (s.homeUsed y = true → ∀ k : Nat, k < 4096 →
          cellGet u.mem (homeCopy e + (y.page * 4096 + k)) = cellGet u.mem (y.page * 4096 + k)) ∧
        (∀ k : Nat, k < 2 ^ 53 → k / 4096 ≠ y.page → cellGet u.mem k = cellGet s.mem k) ∧
        ∀ k : Nat, k < 4096 →
          let at_ := y.page * 4096 + k
          let line := k / 128 * 128
          (same line (homeOrigin + line) → cellGet u.mem at_ = cellGet s.mem (homeCopy e + at_)) ∧
          (same (homeCopy e + line) (homeOrigin + line) → cellGet u.mem at_ = cellGet s.mem at_) ∧
          (cellGet u.mem at_ = cellGet s.mem at_ ∨ cellGet u.mem at_ = cellGet s.mem (homeCopy e + at_)))

/-! ## The distributor -/

/-- R116 to R127, R129, R132 to R137: the next bolt of a launch is placed on a running ply that it may use
and fits, its warps starting as R125 says; of the launches that fit nowhere for long the first in the order of R126
starves; a launch of priority 3 pre-empts, and chooses no other set while that one drains; a FETCHW is answered;
a finished bolt retires, in an ordered launch in index order; and a killed group of an idem launch is placed
again. Where the rules leave it open, this is the model's choice: log 52, 53, 58. -/
def Obligations.PlacementResult : Prop :=
  (∀ (s : State) (l m : Launch) (b : Bolt) (bs : List Bolt), s.launches = [l, m] → l.lid ≠ m.lid →
    l.desc.prio = 3 → m.desc.prio ≠ 3 → m.part = l.part → s.fitsNowhere l = true → s.bolts = b :: bs →
    (∀ c ∈ bs, c.bid ≠ b.bid ∧ s.evictable c = false) → b.lid = m.lid →
    b.save = .resident → s.evictable b = true → s.eligible l b.die = true → (s.ply b.die).state = .run →
    ((s.without [b]).assignOn l b.die (l.desc.groups.toNat + 1)).isSome = true →
    m.desc.attr.getLsbD 1 = false →
    ((∀ c ∈ l.chosen, c = b.bid) → exec (.priorityPreemption l.lid) s = .next { s with
      bolts := { b with save := .draining false } :: bs
      launches := [{ l with chosen := [b.bid] }, m] }) ∧
    (∀ c ∈ bs, ∀ x : Bool, c.save = .draining x → c.bid ∈ l.chosen →
      exec (.priorityPreemption l.lid) s = .next s)) ∧
  (∀ (s : State) (l m : Launch), s.launches = [l, m] → l.lid ≠ m.lid → m.part = l.part → m.ripe = true →
    l.starving = false → m.starving = false → s.fitsNowhere l = true → s.fitsNowhere m = true →
    (l.desc.prio.toNat < m.desc.prio.toNat ∨ l.desc.prio = m.desc.prio ∧ m.age < l.age) →
    exec (.starving l.lid) s = .next { s with
      launches := [{ l with ripe := true }, { m with starving := true }] }) ∧
  ∀ (s : State) (l : Launch), s.launches = [l] → l.desc.trace = false →
    (s.wantsBolt l = true → ∀ d : Die, s.choosePly l = some d →
      (s.ply d).state = .run ∧ s.dieIn l.part d = true ∧ l.desc.affinity.getLsbD d.val = true ∧
      (l.desc.heat = 0 ∨ (s.ply d).heat.toNat < l.desc.heat.toNat) ∧
      (s.bolts = [] → ∀ e : Die, s.fitsPly l e = true → (s.ply d).heat.toNat ≤ (s.ply e).heat.toNat) ∧
      (s.groups = [] → s.warps = [] → (∀ b : Beam, ∀ i : Fin 64, ((s.beam b).reed.slots[i]).owned = false) →
        (∀ v ∈ s.rest, v.place.wid = 0) → s.w.place.wid = 0 → 0 < s.serial →
        ∃ u b, exec (.boltPlacement l.lid) s = .next u ∧ u.bolts = s.bolts ++ [b] ∧
        b.bid = s.serial ∧ b.lid = l.lid ∧ b.index.toNat = l.next % 2 ^ 96 ∧ b.die = d ∧
        b.coord = l.coord l.next ∧ b.groups = l.desc.groups.toNat + 1 ∧
        u.launches = [{ l with next := l.next + 1, ripe := false, starving := false, chosen := [] }] ∧
        u.groups.length = l.desc.groups.toNat + 1 ∧
        (∀ g ∈ u.groups, g.bid = b.bid ∧ g.lid = l.lid ∧ coreDie g.core = d ∧ g.scratch = [] ∧
          g.warps = l.desc.warps.toNat + 1 ∧ g.accs = List.replicate l.desc.acc.toNat AccTile.zero ∧
          ∀ n : Fin 16, g.named[n] = ⟨0, BitVec.ofNat 32 (2 ^ g.warps - 1), none, 0, false⟩) ∧
        u.warps.length = (l.desc.groups.toNat + 1) * (l.desc.warps.toNat + 1) ∧
        (∀ w ∈ u.warps, w.place.lid = l.lid ∧ w.place.bid = b.bid ∧ coreDie w.place.core = d ∧
          w.regs.s[1] = l.desc.args ∧ w.regs.s[2] = b.coord.x.zeroExtend 64 ∧
          w.regs.s[3] = b.coord.y.zeroExtend 64 ∧ w.regs.s[4] = b.coord.z.zeroExtend 64 ∧
          w.regs.s[5] = BitVec.ofNat 64 (256 * w.place.gidx.toNat + w.place.widx.toNat) ∧
          (∀ i : Fin 64, i = 0 ∨ 6 ≤ i.val → w.regs.s[i] = 0) ∧
          (∀ i : Fin 256, w.regs.v[i] = Vector.replicate 32 0 ∧ w.regs.k[i] = 0) ∧
          (∀ i : Fin 16, w.regs.p[i] = if i = 0 then BitVec.allOnes 32 else 0) ∧
          w.pc = l.desc.code + l.desc.entry.zeroExtend 64 ∧ w.widx = 0 ∧
          w.ctl = ⟨BitVec.allOnes 32, [], .t32, 0⟩ ∧ w.region = ⟨w.pc, 0, 0, w.ctl⟩ ∧
          w.handler = false ∧ w.rmask = 0 ∧ w.mwAddr = 0 ∧ w.cnt = Counters.zero ∧ w.lclock = 0 ∧
          w.sched.state = .pending) ∧
        u.mem = s.mem)) ∧
    (s.wantsBolt l = false → l.slots = true → exec (.boltPlacement l.lid) s = .next s) ∧
    (s.fitsNowhere l = true → l.starving = false → exec (.starving l.lid) s = .next
      { s with launches := [{ l with ripe := true, starving := true }] }) ∧
    (s.fitsNowhere l = true → l.starving = true → exec (.starving l.lid) s = .next
      { s with launches := [{ l with ripe := true }] }) ∧
    (s.fitsNowhere l = false → exec (.starving l.lid) s = .next s) ∧
    (l.desc.prio ≠ 3 → exec (.priorityPreemption l.lid) s = .next s) ∧
    (∀ (g : Group) (f : Fetch) (fs : List Fetch), s.groups = [g] → g.lid = l.lid → s.bolts = [] →
      g.killed = false → g.fetches = f :: fs → (∀ x ∈ fs, x.id ≠ f.id) →
      let t := g.tiles[f.name.toNat]
      let row := 16 * t.base.toNat + f.slot.toNat * (16 * (t.pitch.toNat + 1))
      let more := l.desc.attr.getLsbD 2 = true ∧ l.next < l.ext.1 * l.ext.2.1 * l.ext.2.2
      let hot := l.desc.heat ≠ 0 ∧ l.desc.heat.toNat ≤ (s.ply (coreDie g.core)).heat.toNat
      let c := l.coord l.next
      t.rsv = [⟨f.id, false⟩] → t.count.toNat < 256 → Memory.wf g.scratch = true →
      ∃ u g', exec (.fetchwAnswer g.gid) s = .next u ∧ u.groups = [g'] ∧ g'.fetches = fs ∧
        g'.tiles[f.name.toNat] = { t with rsv := [], count := t.count + 1 } ∧
        (g.replay = [] → more → ¬hot → u.launches = [{ l with next := l.next + 1 }] ∧
          wordAt g'.scratch row 4 = c.x.toNat ∧ wordAt g'.scratch (row + 4) 4 = c.y.toNat ∧
          wordAt g'.scratch (row + 8) 4 = c.z.toNat ∧ wordAt g'.scratch (row + 12) 4 = 0) ∧
        (g.replay = [] → more → hot → u.launches = [l] ∧ wordAt g'.scratch (row + 12) 4 = 2) ∧
        (g.replay = [] → ¬more → u.launches = [l] ∧ wordAt g'.scratch (row + 12) 4 = 1) ∧
        (∀ x xs, g.replay = x :: xs → g'.replay = xs ∧ u.launches = [l] ∧
          wordAt g'.scratch row 4 = x.x.toNat ∧ wordAt g'.scratch (row + 12) 4 = 0) ∧
        ∀ i : Nat, i < row ∨ row + 16 ≤ i → cellGet g'.scratch i = cellGet g.scratch i) ∧
    (∀ b : Bolt, s.bolts = [b] → b.lid = l.lid →
      (l.desc.attr.getLsbD 0 = false ∨ b.index.toNat = l.retired ∧ (∀ o ∈ s.ops, o.bid ≠ b.bid)) →
      (∀ e ∈ s.held, e.bid ≠ b.bid) → exec (.boltRetire b.bid) s = .next
        (if b.finished then { s with bolts := [], launches := [{ l with retired := l.retired + 1 }] }
         else s)) ∧
    (∀ b : Bolt, s.bolts = [b] → b.lid = l.lid → l.desc.attr.getLsbD 0 = true → b.index.toNat ≠ l.retired →
      exec (.boltRetire b.bid) s = .next s) ∧
    (∀ (g : Group) (b : Bolt), s.groups = [g] → s.bolts = [b] → g.bid = b.bid → b.lid = l.lid →
      g.lid = l.lid → l.stopped = false →
      (g.killed = false → exec (.idemRelaunch g.gid) s = .next s) ∧
      (g.killed = true → b.again = false → s.warps = [] → s.w.place.wid = 0 → 0 < s.serial →
        (∀ v ∈ s.rest, v.place.wid = 0) → g.nums.length = l.desc.warps.toNat + 1 →
        ∀ core slots, s.relaunchAt b l [g] = some [(core, slots)] → slots.length = l.desc.warps.toNat + 1 →
        (∀ e : Beam, ∀ i : Fin 64, ((s.beam e).reed.slots[i]).owned = false) →
        ∃ u g', exec (.idemRelaunch g.gid) s = .next u ∧ u.groups = [g'] ∧ g'.gid = g.gid ∧
          g'.killed = false ∧ g'.core = core ∧ g'.idx = g.idx ∧ g'.nums = g.nums ∧
          g'.relaunch = g.relaunch ∧ g'.scratch = [] ∧
          u.warps.map (fun w => w.place.num) = g.nums ∧
          ∀ w ∈ u.warps, w.pc = l.desc.code + l.desc.entry.zeroExtend 64 ∧
            w.regs.s[2] = b.coord.x.zeroExtend 64 ∧ w.place.core = core))

/-- R259 to R265, R268, R269, R272: a request names bolts, kills them or lets them go on, and its DONE counts
them; a named bolt begins its save once it is evictable; a save writes the image of each group into the
lowest free slots; a watched word that has changed wakes its saved warp; and a restorable bolt is resident
again, its warps where their frames say.
Where the rules leave it open, this is the model's choice: log 47, 48, 49, 50. -/
def Obligations.PreemptionResult : Prop :=
  ∀ (s : State) (h : HostWrite) (v : Nat) (l : Launch) (b : Bolt) (g : Group) (w : Warp),
    s.launches = [l] → s.bolts = [b] → s.groups = [g] → s.w = w → s.rest = [] → w.place.wid ≠ 0 →
    b.lid = l.lid → g.bid = b.bid → g.lid = l.lid → w.place.gid = g.gid → w.place.bid = b.bid →
    w.place.lid = l.lid → w.env.part = l.part → l.desc.trace = false → w.env.trace = false →
    b.finished = false → w.place.core = g.core → coreDie g.core = b.die →
    (∀ (e : Beam) (i : Fin 64), ((s.beam e).reed.slots[i]).owned = false) →
    let p := l.part
    let named := fun (op done : Nat) (busy : Bool) => s.modPart p fun r =>
      { r with
        preScope := 2, preOp := BitVec.ofNat 2 op, preCore := BitVec.ofNat 11 (bits v 32 11)
        preSlot := BitVec.ofNat 5 (bits v 24 5), preCtx := BitVec.ofNat 4 (bits v 20 4)
        preDone := BitVec.ofNat 16 done, preBusy := busy, pending := if busy then [b.bid] else [] }
    let all := bits v 60 2 = 2 ∧ (s.part p).preBusy = false
    (Writes s h (.preempt p) v .save → all → b.save = .resident → exec (.preemptSave h) s = .next
      { named 0 0 true with bolts := [{ b with save := .named }] }) ∧
    (Writes s h (.preempt p) v .save → (s.part p).preBusy = true → exec (.preemptSave h) s = .next s) ∧
    (Writes s h (.preempt p) v .kill → all → b.save = .resident → g.killed = false → s.ops = [] →
      s.copies = [] → s.held = [] →
      ∃ u, exec (.preemptKill h) s = .next u ∧ u.groups = [] ∧ u.warps = [] ∧
        u.launches = [{ l with faulted := true }] ∧ (u.part p).preDone = 1 ∧ (u.part p).preBusy = false ∧
        (u.part p).killCause = 0 ∧ u.mem = s.mem) ∧
    (∀ slots (byHost was : Bool), Writes s h (.preempt p) v .release → all → b.save = .saved slots byHost was →
      exec (.preemptRelease h) s = .next
        { named 2 1 false with bolts := [{ b with save := .saved slots byHost true }] }) ∧
    (b.save = .named → s.boltIdem b = false → exec (.boltSave b.bid) s = .next
      (if s.evictable b then { s with bolts := [{ b with save := .draining true }] } else s)) ∧
    (b.save = .resident → exec (.boltSave b.bid) s = .next s ∧ exec (.boltRestore b.bid) s = .next s) ∧
    (∀ byHost : Bool, b.save = .draining byHost → s.copies = [] → s.saveReady b = true → s.regPoison = [] →
      Memory.wf s.mem = true → s.boltIdem b = false → w.exited = false → w.sched.hold = some .mwait →
      w.env.sregs ≤ 64 → w.env.vregs ≤ 256 → w.env.pregs ≤ 16 → w.ctl.stack.length ≤ 32 →
      w.region.ctl.stack.length ≤ 32 → g.accs.length ≤ 32 → g.scratch = [] → s.held = [] →
      (∀ y ∈ s.l1, y.ahead = false) →
      ∃ k u, (List.range (s.part p).saveCount.toNat).find? (fun k => !(s.part p).used.contains k) = some k ∧
        let base := (s.part p).saveBase.toNat * 2 ^ 22 + k * 2 ^ 22
        let frame := base + 0xE0000 + 0xA000 * w.place.widx.toNat
        exec (.boltSave b.bid) s = .next u ∧ (u.part p).used = k :: (s.part p).used ∧
        u.bolts = [{ b with save := .saved [(g.gid, k)] byHost false }] ∧
        u.w.sched.state = .saved ∧ u.w.regs = w.regs ∧
        wordAt u.mem (base + 0x10) 12 = b.index.toNat ∧ wordAt u.mem (base + 0x1C) 1 = g.idx.toNat ∧
        wordAt u.mem frame 8 = w.pc.toNat ∧ wordAt u.mem (frame + 0x28) 4 = w.ctl.am.toNat ∧
        wordAt u.mem (frame + 0x60) 1 = 7 ∧
        (∀ i : Fin 64, 0 < i.val → i.val < w.env.sregs →
          wordAt u.mem (frame + 0x300 + 8 * i.val) 8 = (w.regs.s[i]).toNat) ∧
        (∀ (i : Fin 256) (n : Fin 32), i.val < w.env.vregs →
          wordAt u.mem (frame + 0x2000 + 128 * i.val + 4 * n.val) 4 = (w.lane i.val n.val).toNat) ∧
        ∀ x : Nat, x < base ∨ base + 2 ^ 22 ≤ x → cellGet u.mem x = cellGet s.mem x) ∧
    (∀ (k : Nat) (byHost was : Bool), b.save = .saved [(g.gid, k)] byHost was → w.sched.state = .saved →
      let base := (s.part p).saveBase.toNat * 2 ^ 22 + k * 2 ^ 22
      let frame := base + 0xE0000 + 0xA000 * w.place.widx.toNat
      let at_ := wordAt s.mem (frame + 0x68) 8
      (wordAt s.mem (frame + 0x60) 1 ≠ 7 → exec (.savedMwaddrRead w.place.wid) s = .next s) ∧
      (wordAt s.mem (frame + 0x60) 1 = 7 → at_ / 2 ^ 60 = 2 → at_ % 4 = 0 → at_ % 2 ^ 60 < w.env.scratch →
        s.poison = [] → s.held = [] → (∀ c ∈ s.copies, c.before = []) → exec (.savedMwaddrRead w.place.wid) s = .next
        (let old := wordAt s.mem (frame + 0x70) 8
         let seen : Busy := if wordAt g.scratch (at_ % 2 ^ 60) 4 ≠ old then .woken else .none
         { s with w := { w with busy := seen } })) ∧
      ((byHost = true ∧ was = false) ∨ l.stopped = true → exec (.boltRestore b.bid) s = .next s) ∧
      (∀ core slot, s.restorable b = true → (s.ply b.die).state = .run →
        ({ s with draws := s.draws + 1 } : State).restoreAt b l s.draws = some [(core, [slot])] → w.place.widx = 0 → g.warps = 1 →
        wordAt s.mem (base + 0x300) 8 = 0 → s.copies = [] → g.killed = false →
        wordAt s.mem (frame + 0x10) 8 / 2 ^ 46 % 2 = 1 → wordAt s.mem (frame + 0x10) 8 / 2 ^ 42 % 2 = 0 →
        (∀ c ∈ [wordAt s.mem (frame + 0x30) 8 / 2 ^ 48 % 8, wordAt s.mem (frame + 0x30) 8 / 2 ^ 51 % 8],
          1 ≤ c ∧ c ≤ 5) →
        ∃ u, exec (.boltRestore b.bid) s = .next u ∧
          (u.part p).used = (s.part p).used.filter (fun j => j != k) ∧
          (∃ b', u.bolts = [b'] ∧ b'.save = .resident ∧ b'.index = b.index) ∧
          u.w.place = { w.place with core := core, slot := slot } ∧
          u.w.sched.state = (if w.exited then .exiting else .pending) ∧
          u.w.pc = BitVec.ofNat 64 (wordAt s.mem frame 8) ∧
          u.w.ctl.am = BitVec.ofNat 32 (wordAt s.mem (frame + 0x28) 4) ∧
          (∀ i : Fin 64, i.val < w.env.sregs →
            u.w.regs.s[i] = BitVec.ofNat 64 (wordAt s.mem (frame + 0x300 + 8 * i.val) 8)) ∧
          u.mem = s.mem))

/-! ## The checks of a group -/

/-- R247, R256, R309, R310, R314, R321, R322, R352, R359, R467: a word that no encoding assigns, a packet that
breaks the chaining rules, a stack too deep or empty, a privileged word outside the handler and a register
beyond the allotment, where one operand of the word is, raise their precise traps, of which none of the group takes effect;
TRAP raises its own, and a warp that has drained takes it at once, with its cause where no older fault is pending.
Where the rules leave it open, this is the model's choice: log 12. -/
def Obligations.GroupCheckResult : Prop :=
  ∀ s : State, s.issue.snap = none → s.w.place.wid ≠ 0 → (∀ v ∈ s.rest, v.place.wid ≠ s.w.place.wid) →
    ∀ (x : Ext) (imm : BitVec 33) (f : BitVec 39) (d a b : SReg) (word : BitVec 32),
    let w := s.w
    let here := s.issue.word
    let raises := fun (i : Instr) (cause : BitVec 8) (addr : Word64) (against : BitVec 32) =>
      let r := raised s cause addr against
      (w.cnt.cc ≠ [] → exec i s = .next r) ∧
      (w.cnt = Counters.zero → ∃ u, exec i s = .next u ∧ exec (.trapTaken w.place.wid) r = .next u)
    raises (.illegalInstruction word) 0x01 s.issue.pc word ∧
    raises (.illegalPacket word) 0x02 s.issue.pc word ∧
    (32 ≤ w.ctl.stack.length → raises (.mif x f) 0x01 s.issue.pc here) ∧
    (w.ctl.stack = [] → raises (.melse x f) 0x01 s.issue.pc here ∧ raises (.mend x) 0x01 s.issue.pc here ∧
      raises (.mloop x f) 0x01 s.issue.pc here ∧ raises (.mbrk x f) 0x01 s.issue.pc here ∧
      raises (.mcont x f) 0x01 s.issue.pc here) ∧
    (w.handler = false → raises (.tfence x d) 0x04 s.issue.pc here ∧
      raises (.tlbinv x a) 0x04 s.issue.pc here ∧ raises (.tret x) 0x04 s.issue.pc here ∧
      raises (.srd x d .tframe) 0x04 s.issue.pc here ∧ raises (.swr x a .hscr0) 0x04 s.issue.pc here) ∧
    (w.env.sregs ≤ d.toNat → a.toNat < w.env.sregs → b.toNat < w.env.sregs → x.gp.toNat < w.env.pregs →
      raises (.sadd x .i64 d a b) 0x03 (d.zeroExtend 64) here) ∧
    (d.toNat < w.env.sregs → a.toNat < w.env.sregs → b.toNat < w.env.sregs →
      w.env.pregs ≤ x.gp.toNat → raises (.sadd x .i64 d a b) 0x03 (x.gp.zeroExtend 64) here) ∧
    (x.gp.toNat < w.env.pregs → w.guard x ≠ 0 → raises (.trap x imm) 0x05 (imm.zeroExtend 64) here) ∧
    (x.gp.toNat < w.env.pregs → w.guard x ≠ 0 → w.cnt = Counters.zero → w.faults = [] → w.handler = false →
      (s.part w.env.part).trapEn = true → ∀ (pas : List Nat) (s' : State),
      let r := raised s 0x05 (imm.zeroExtend 64) here
      r.framePas r.w .store = (.ok pas, s') → (∀ a ∈ pas, a / 2 ^ 51 % 2 = 0) → s'.w = r.w → s'.rest = r.rest →
      s'.parts = r.parts →
      ∃ u, exec (.trap x imm) s = .next u ∧ u.w.handler = true ∧
        u.w.pc = BitVec.ofNat 64 ((s.part w.env.part).trapVa.toNat * 2 ^ 8) ∧
        u.w.regs.s[1] = s.frameVa w ∧ u.w.regs.s[2] = 5) ∧
    (x.gp.toNat < w.env.pregs → w.faults = [] → w.env.ordered = false → w.env.trace = false →
      let c := s.count (coreDie w.place.core) .packets 1
      exec (.nop x) s = .next { c with
        w := { w with
          issued := w.issued + 1
          lclock := w.lclock + BitVec.ofNat 64 (if w.handler then 0 else s.issue.words.length)
          flushing := false
          waitRec := w.counts
          packet := if w.widx = 0 then none else w.packet
          sched := { w.sched with hold := none, blocked := false } }
        issue := { s.issue with snap := none, mark := s.serial, retry := none }
        lastPos := (w.place.core, w.sched.pos) :: s.lastPos.filter fun y => y.1 != w.place.core })

/-! ## Decoding and the step -/

/-- R147, R151, R307 to R311: where the warp that issues next stands at a word that begins a group of its
own, the step decodes it from the bytes at the program counter, or from the packet fetched for an earlier group
of it, moves past it, and is the meaning of the instruction; a program counter that lies no multiple of 12 bytes from its code
base is an illegal packet; a group of several words issues as a whole; and a
warp whose group is held is passed over.
Where the rules leave it open, this is the model's choice: log 6, 54. -/
def Obligations.StepRunsDecoded : Prop :=
  ∀ (s : State) (wid : Nat) (wids : List Nat), s.agenda = [] → s.turn = .issue ∨ s.events = [] →
    s.issueOrder = wid :: wids →
    let u := ({ s with turn := .events, time := s.time + 1 } : State).focus wid
    let w := u.w
    let k := w.widx.toNat
    let latch := fun words : List (BitVec 32) => Issue.mk w.pc w.widx 0 0 words none 0 none
    let next := fun o : Host.Outcome State Fault Refusal =>
      match o with
      | .next t => if t.issue.retry.isSome then issueTry wids t else .next t
      | .fault e => .fault e
      | .refused e => .refused e
    k < 3 → ∀ (packet : List (BitVec 32)) (v : State), packet.length = 3 →
    let at_ := fun j : Nat => packet.getD j 0
    (w.packet = some ⟨w.pc, packet⟩ ∧ v = { u with issue := latch [] } ∨
      (∀ p, w.packet = some p → p.pc ≠ w.pc) ∧ ∃ pas : List Nat,
        ({ u with issue := latch [] } : State).packetPas w w.pc = (.ok pas, v) ∧ pas.length = 12 ∧
        (∀ a ∈ pas, isRemote a = false) ∧ ∀ j : Nat, j < 3 → at_ j = BitVec.ofNat 32
          (((List.range 4).map fun i => (cellGet v.mem (pas.getD (4 * j + i) 0)).toNat * 256 ^ i).sum)) →
    v.w = w → v.issue = latch [] →
    let distance := (w.pc.toNat : Int) - (v.codeBase w).toNat
    (distance % 12 ≠ 0 → step s = next (exec (.illegalPacket 0) v)) ∧
    (distance % 12 = 0 →
    let past := fun (n : Nat) (words : List (BitVec 32)) => ({ v with
      w := { w with pc := if k + n = 3 then w.pc + 12 else w.pc
                    widx := if k + n = 3 then 0 else BitVec.ofNat 2 (k + n)
                    packet := some ⟨w.pc, packet⟩ }
      issue := latch words } : State)
    (∀ i : Instr, (at_ k).toNat < 2 ^ 31 → decodeUnit (at_ k) none = .ok i →
      step s = next (exec i
        (let t := past 1 [at_ k]; { t with issue := { t.issue with word := at_ k } }))) ∧
    (∀ i : Instr, k < 2 → 2 ^ 31 ≤ (at_ k).toNat → (at_ (k + 1)).toNat < 2 ^ 31 →
      isLit (at_ (k + 1)) = true → decodeUnit (at_ k) (some (at_ (k + 1))) = .ok i →
      step s = next (exec i
        (let t := past 2 [at_ k, at_ (k + 1)]; { t with issue := { t.issue with word := at_ k } }))) ∧
    (∀ i j : Instr, k < 2 → 2 ^ 31 ≤ (at_ k).toNat → (at_ (k + 1)).toNat < 2 ^ 31 →
      isLit (at_ (k + 1)) = false → decodeUnit (at_ k) none = .ok i →
      decodeUnit (at_ (k + 1)) none = .ok j → pipeOf (at_ k) ≠ pipeOf (at_ (k + 1)) →
      let gs := [⟨at_ k, 1, i⟩, ⟨at_ (k + 1), 1, j⟩]
      step s = next (.next ((past 2 [at_ k, at_ (k + 1)]).issueGroup gs (runWords gs 0)))) ∧
    ((at_ k).toNat < 2 ^ 31 → isLit (at_ k) = false → (∀ i, decodeUnit (at_ k) none ≠ .ok i) →
      step s = next (exec (.illegalInstruction (at_ k))
        (let t := past 1 [at_ k]; { t with issue := { t.issue with word := at_ k } }))))

/-- R307 to R311, R325: a few words, one or two of each family, written out from the encoding tables of
the spec. -/
def Obligations.DecodesSpecWords : Prop :=
  let x : Ext := ⟨false, 0, 0⟩
  let v := fun n : BitVec 5 => VOp.mk false n
  decodeTableWord 32 0x02004105 = some (.sadd x .i64 4 4 5) ∧
  decodeTableWord 32 0x04442043 = some (.scmp x .lt .i32 2 1 3) ∧
  decodeTableWord 32 0x16C00003 = some (.part x .t8) ∧
  decodeTableWord 32 0x20081083 = some (.vadd x .i16 (v 1) (v 2) (v 3)) ∧
  decodeTableWord 32 0x2A2E0400 = some (.vpack x .e2m1 .f32 (v 8) (v 0) false) ∧
  decodeTableWord 32 0x2C4031C0 = some (.kget x 3 (v 7)) ∧
  decodeTableWord 32 0x2EC450C8 = some (.vscan x .i32 (v 5) (v 3) true .add) ∧
  decodeTableWord 32 0x38A04140 = some (.vsin x (v 4) (v 5)) ∧
  decodeTableWord 32 0x40805188 = some (.ld x .i32 .g false 5 6 8 0) ∧
  decodeTableWord 32 0x434C31FC = some (.st x .f32 .s true 3 7 (-4)) ∧
  decodeTableWord 32 0x5220C20C = some (.vatom x .add .rlx .u32 .s true (v 2) (v 3) 0 (v 0)) ∧
  decodeTableWord 32 0x5420BFF0 = some (.wait x 2 63 15 0) ∧
  decodeTableWord 32 0x5824882A = some (.tdef x 9 4 5 true false) ∧
  decodeTableWord 32 0x5A43202A = some (.mmq x 3 (v 8) 2 .bf16) ∧
  decodeTableWord 32 0x5A001804 = some (.ldw x 6 .e2m1) ∧
  decodeTableWord 32 0x5C498A00 = some (.barm x .bolt 3 5) ∧
  decodeTableWord 32 0x7007FFFE = some (.br x (-2)) ∧
  decodeTableWord 32 0x787FFFFB = some (.mloop x (-5)) ∧
  decodeTableWord 32 0x7AC00005 = some (.trap x 5) ∧
  decodeTableWord 32 0x7CC00000 = some (.tret x) ∧
  decodeTableWord 32 0x00000000 = none ∧ decodeTableWord 32 0x7E000000 = none ∧
  decodeWords [0xA6601002, 0xFE363000] =
    (.ok (.vfma ⟨false, 3, 1⟩ .f32 (v 1) (v 0) (v 2) ⟨true, 3⟩), []) ∧
  decodeWords [0x83C47042, 0x7E003000] = (.ok (.smad x .i32 7 1 2 3), [])

/-- R307 to R311, R325: decoding the words that encode a well-formed instruction gives it back, with every
operand at every value, and the words that follow it. -/
def Obligations.DecodeOfEncode : Prop :=
  ∀ (i : Instr) (c : Bool) (ws : List (BitVec 32)), i.wf = true → (fields i).isSome = true →
    (c = true → ∀ w ∈ ws.head?, isLit w = false) →
    decodeWords (encode c i ++ ws) = (.ok i, ws)

/-! ## Reset and invariants -/

/-- R86, R88, R95 to R98, R145, R70 to R72, R39, R79: what the registers read after a start that has
completed; and every memory is in its canonical form.
Where the rules leave it open, this is the model's choice: log 2, 4. -/
def Obligations.ResetValues : Prop :=
  State.reset.memWf = true ∧ State.reset.safe = true ∧
  (∀ q : Port, State.reset.regWord q .mchk = 0 ∧ State.reset.regWord q .hostErr = 0) ∧
  (∀ (q : Port) (p : PartN), State.reset.regWord q (.part p) = 0 ∧ State.reset.regWord q (.vgen p) = 0 ∧
    State.reset.regWord q (.trapv p) = 0 ∧ State.reset.regWord q (.preempt p) = 0) ∧
  (∀ (q : Port) (d : Die), State.reset.regWord q (.schedCtl d) = 0x404 ∧
    State.reset.regWord q (.plyStatus d) = 0 ∧ State.reset.regWord q (.plyReed d) = 0) ∧
  (∀ (q : Port) (b : Beam), State.reset.regWord q (.reedHead b) = 0 ∧
    State.reset.regWord q (.rwinTimeout b) = 0x64 ∧ State.reset.regWord q (.linkId b) = 0) ∧
  (∀ (q : Port) (b : Beam) (c : CtxN), State.reset.regWord q (.ctx b c .bind) = 0 ∧
    State.reset.regWord q (.ctx b c .tail) = 0 ∧ State.reset.regWord q (.ctx b c .head) = 0) ∧
  State.reset.warps = [] ∧ State.reset.dev.ready = true

/-- Every step keeps every memory in its canonical form, whatever it runs.
Where the rules leave it open, this is the model's choice: log 1, 6. -/
def Obligations.StepKeepsMemories : Prop :=
  ∀ s t : State, s.memWf = true → step s = .next t → t.memWf = true
end

