-- ==== Sys2Proof/Laws/Memory.lean ====
section
/-! SUPPORT. Byte memories: what a byte reads as after each operation, and that every operation keeps the
canonical form. -/

namespace Sys2Proof.Machine

/-! ## The canonical form -/

theorem Memory.above_cons (a : Nat) (c : Host.Cell) (cs : List Host.Cell) :
    Memory.above a (c :: cs) = decide (a < c.1) := rfl

theorem Memory.wf_cons (c : Host.Cell) (cs : List Host.Cell) :
    Memory.wf (c :: cs) = true ↔
      c.2 ≠ Memory.absent ∧ Memory.above c.1 cs = true ∧ Memory.wf cs = true := by
  simp [Memory.wf, and_assoc]

@[simp] theorem Memory.wf_nil : Memory.wf [] = true := rfl

theorem Memory.wf_tail {c : Host.Cell} {cs : List Host.Cell} (h : Memory.wf (c :: cs) = true) :
    Memory.wf cs = true := ((Memory.wf_cons c cs).1 h).2.2

theorem Memory.above_trans {a b : Nat} {cs : List Host.Cell} (h : a ≤ b)
    (hb : Memory.above b cs = true) : Memory.above a cs = true := by
  cases cs with
  | nil => rfl
  | cons c cs => simp [Memory.above] at *; omega

/-- Every address of a canonical memory whose first is above a bound is above it. -/
theorem Memory.all_above {a : Nat} {cs : List Host.Cell} (hw : Memory.wf cs = true)
    (ha : Memory.above a cs = true) : ∀ c ∈ cs, a < c.1 := by
  induction cs generalizing a with
  | nil => simp
  | cons d ds ih =>
    have h := (Memory.wf_cons d ds).1 hw
    have hd : a < d.1 := by simpa [Memory.above] using ha
    intro c hc
    rcases List.mem_cons.1 hc with rfl | hc
    · exact hd
    · exact Nat.lt_trans hd (ih h.2.2 h.2.1 c hc)

theorem Memory.above_of_all {a : Nat} {cs : List Host.Cell} (h : ∀ c ∈ cs, a < c.1) :
    Memory.above a cs = true := by
  cases cs with
  | nil => rfl
  | cons c cs => simpa [Memory.above] using h c (by simp)

theorem cellSet_mem {m : List Host.Cell} {a : Nat} {b : Byte} {c : Host.Cell}
    (h : c ∈ cellSet m a b) : c ∈ m ∨ (c = (a, b) ∧ b ≠ Memory.absent) := by
  induction m with
  | nil =>
    unfold cellSet at h
    split at h
    · simp at h
    · exact .inr ⟨by simpa using h, ‹_›⟩
  | cons d ds ih =>
    unfold cellSet at h
    split at h
    · rcases List.mem_cons.1 h with rfl | h
      · simp
      · rcases ih h with h | h
        · exact .inl (List.mem_cons_of_mem _ h)
        · exact .inr h
    · split at h
      · split at h
        · exact .inl (List.mem_cons_of_mem _ h)
        · rcases List.mem_cons.1 h with rfl | h
          · exact .inr ⟨rfl, ‹_›⟩
          · exact .inl (List.mem_cons_of_mem _ h)
      · split at h
        · exact .inl h
        · rcases List.mem_cons.1 h with rfl | h
          · exact .inr ⟨rfl, ‹_›⟩
          · exact .inl h

/-- Writing a byte keeps the canonical form. -/
theorem cellSet_wf {m : List Host.Cell} (h : Memory.wf m = true) (a : Nat) (b : Byte) :
    Memory.wf (cellSet m a b) = true := by
  induction m with
  | nil => unfold cellSet; split <;> simp_all [Memory.wf, Memory.above]
  | cons c cs ih =>
    obtain ⟨hc, ha, ht⟩ := (Memory.wf_cons c cs).1 h
    have hall := Memory.all_above ht ha
    unfold cellSet
    split
    · refine (Memory.wf_cons _ _).2 ⟨hc, Memory.above_of_all fun d hd => ?_, ih ht⟩
      rcases cellSet_mem hd with hd | ⟨rfl, -⟩
      · exact hall d hd
      · assumption
    · split
      · split
        · exact ht
        · rename_i h1 h2 h3
          exact (Memory.wf_cons _ _).2 ⟨h3, Memory.above_trans (by simp [h2]) ha, ht⟩
      · split
        · exact h
        · rename_i h1 h2 h3
          refine (Memory.wf_cons _ _).2 ⟨h3, ?_, h⟩
          simp [Memory.above]; omega

/-! ## Reading after writing -/

@[simp] theorem cellGet_nil (a : Nat) : cellGet [] a = Memory.absent := rfl

/-- An address below every listed one reads as unwritten. -/
theorem cellGet_above {m : List Host.Cell} {a : Nat} (h : ∀ c ∈ m, a < c.1) :
    cellGet m a = Memory.absent := by
  induction m with
  | nil => rfl
  | cons c cs ih =>
    have hc := h c (by simp)
    unfold cellGet
    rw [if_neg (by omega)]
    exact ih fun d hd => h d (List.mem_cons_of_mem _ hd)

/-- A byte that has been written reads back. -/
theorem cellGet_cellSet_self {m : List Host.Cell} (h : Memory.wf m = true) (a : Nat) (b : Byte) :
    cellGet (cellSet m a b) a = b := by
  induction m with
  | nil => unfold cellSet; split <;> simp_all [cellGet]
  | cons c cs ih =>
    obtain ⟨hc, ha, ht⟩ := (Memory.wf_cons c cs).1 h
    have hall := Memory.all_above ht ha
    unfold cellSet
    split
    · unfold cellGet
      rw [if_neg (by omega)]
      exact ih ht
    · split
      · split
        · rename_i h1 h2 h3
          rw [h3]; exact cellGet_above fun d hd => h2 ▸ hall d hd
        · simp [cellGet]
      · split
        · rename_i h1 h2 h3
          rw [h3]
          refine cellGet_above fun d hd => ?_
          rcases List.mem_cons.1 hd with rfl | hd
          · omega
          · have := hall d hd; omega
        · simp [cellGet]

/-- A write leaves every other byte alone. -/
theorem cellGet_cellSet_ne {m : List Host.Cell} {a k : Nat} {b : Byte} (hk : k ≠ a) :
    cellGet (cellSet m a b) k = cellGet m k := by
  induction m with
  | nil => unfold cellSet; split <;> simp [cellGet, Ne.symm hk]
  | cons c cs ih =>
    unfold cellSet
    split
    · simp only [cellGet, ih]
    · split
      · split
        · rename_i h1 h2 h3
          have : c.1 ≠ k := by omega
          simp [cellGet, this]
        · rename_i h1 h2 h3
          have : c.1 ≠ k := by omega
          simp [cellGet, this, Ne.symm hk]
      · split
        · rfl
        · simp [cellGet, Ne.symm hk]

theorem cellPut_wf {m : List Host.Cell} (h : Memory.wf m = true) (a : Nat) (bs : List Byte) :
    Memory.wf (cellPut m a bs) = true := by
  induction bs generalizing m a with
  | nil => exact h
  | cons b bs ih => exact ih (cellSet_wf h a b) (a + 1)

/-- Bytes outside those written read as before. -/
theorem cellGet_cellPut_ne {m : List Host.Cell} {a k : Nat} {bs : List Byte}
    (h : k < a ∨ a + bs.length ≤ k) : cellGet (cellPut m a bs) k = cellGet m k := by
  induction bs generalizing m a with
  | nil => rfl
  | cons b bs ih =>
    simp only [List.length_cons] at h
    unfold cellPut
    rw [ih (by omega), cellGet_cellSet_ne (by omega)]

/-- The bytes written read back. -/
theorem cellBytes_cellPut {m : List Host.Cell} (hm : Memory.wf m = true) (a : Nat) (bs : List Byte) :
    cellBytes (cellPut m a bs) a bs.length = bs := by
  induction bs generalizing m a with
  | nil => rfl
  | cons b bs ih =>
    simp only [List.length_cons, cellBytes, cellPut]
    rw [ih (cellSet_wf hm a b), cellGet_cellPut_ne (by omega), cellGet_cellSet_self hm]

/-- Reading a range depends on the bytes of the range alone. -/
theorem cellBytes_congr {m m' : List Host.Cell} {a n : Nat}
    (h : ∀ k, a ≤ k → k < a + n → cellGet m' k = cellGet m k) :
    cellBytes m' a n = cellBytes m a n := by
  induction n generalizing a with
  | zero => rfl
  | succ n ih =>
    simp only [cellBytes]
    rw [h a (by omega) (by omega), ih fun k h1 h2 => h k (by omega) (by omega)]

theorem Memory.filter_wf {m : List Host.Cell} (h : Memory.wf m = true) (p : Host.Cell → Bool) :
    Memory.wf (m.filter p) = true := by
  induction m with
  | nil => rfl
  | cons c cs ih =>
    obtain ⟨hc, ha, ht⟩ := (Memory.wf_cons c cs).1 h
    have hall := Memory.all_above ht ha
    rw [List.filter_cons]
    split
    · exact (Memory.wf_cons _ _).2 ⟨hc, Memory.above_of_all fun d hd => hall d (List.mem_filter.1 hd).1,
        ih ht⟩
    · exact ih ht

theorem cellClear_wf {m : List Host.Cell} (h : Memory.wf m = true) (a n : Nat) :
    Memory.wf (cellClear m a n) = true := Memory.filter_wf h _

theorem cellSets_wf (cs : List Host.Cell) (f : Host.Cell → Nat) {m : List Host.Cell}
    (h : Memory.wf m = true) : Memory.wf (cs.foldl (fun m' c => cellSet m' (f c) c.2) m) = true := by
  induction cs generalizing m with
  | nil => exact h
  | cons c cs ih => exact ih (cellSet_wf h (f c) c.2)

theorem cellCopy_wf {m : List Host.Cell} (h : Memory.wf m = true) (src dst n : Nat) :
    Memory.wf (cellCopy m src dst n) = true := cellSets_wf _ _ (cellClear_wf h dst n)

theorem cellLoad_wf {m : List Host.Cell} (h : Memory.wf m = true) (dst n : Nat) (cs : List Host.Cell) :
    Memory.wf (cellLoad m dst n cs) = true := cellSets_wf cs _ (cellClear_wf h dst n)

theorem cellPutWord_wf {m : List Host.Cell} (h : Memory.wf m = true) (a n v : Nat) :
    Memory.wf (cellPutWord m a n v) = true := cellPut_wf h a _

/-! ## Words -/

@[simp] theorem leBytes_length (n v : Nat) : (leBytes n v).length = n := by
  induction n generalizing v with
  | zero => rfl
  | succ n ih => simp [leBytes, ih]

/-- A word's bytes give its value back. -/
theorem leVal_leBytes (n v : Nat) : leVal (leBytes n v) = v % 256 ^ n := by
  induction n generalizing v with
  | zero => simp [leBytes, leVal, Nat.mod_one]
  | succ n ih =>
    simp only [leBytes, leVal, ih, BitVec.toNat_ofNat]
    show v % 256 + 256 * (v / 256 % 256 ^ n) = _
    rw [Nat.pow_succ', Nat.mod_mul (a := 256) (b := 256 ^ n)]

/-- A word that has been written reads back. -/
theorem cellWord_cellPutWord {m : List Host.Cell} (h : Memory.wf m = true) (a n v : Nat) :
    cellWord (cellPutWord m a n v) a n = v % 256 ^ n := by
  have := cellBytes_cellPut h a (leBytes n v)
  rw [leBytes_length] at this
  rw [cellWord, cellPutWord, this, leVal_leBytes]

end Sys2Proof.Machine
end

