-- ==== Sys2Proof/Laws/Translate.lean ====
section
/-! SUPPORT. What a translation, and an access to a home or a peer that follows it, can do: they change memory (the
A, D and SD bits of an entry, and the copies of a granule's homes), the cached entries, the counter of draws, what
stands at the slices, the ownership of words in the L1s, and what has been sent out; and they keep memory in its canonical form. -/

namespace Sys2Proof.Machine

/-- A state differs from another only in memory, the cached entries, the draws, the slices, the L1s and what is out, and its
memory is in canonical form where the other's is. -/
def XlatOnly (s t : State) : Prop :=
  t = { s with mem := t.mem, tlb := t.tlb, draws := t.draws, slices := t.slices, l1 := t.l1, out := t.out } ∧
    (Memory.wf s.mem = true → Memory.wf t.mem = true)

theorem XlatOnly.refl (s : State) : XlatOnly s s := ⟨rfl, id⟩

theorem XlatOnly.trans {s t u : State} (h : XlatOnly s t) (k : XlatOnly t u) : XlatOnly s u :=
  ⟨by rw [k.1, h.1], fun w => k.2 (h.2 w)⟩

/-- What is read of a state besides these is the same afterwards. -/
theorem XlatOnly.same {s t : State} (h : XlatOnly s t) {α : Type} (f : State → α)
    (hf : ∀ m l d x y o, f { s with mem := m, tlb := l, draws := d, slices := x, l1 := y, out := o } = f s) : f t = f s := by
  rw [h.1]
  exact hf _ _ _ _ _ _

theorem XlatOnly.ctx {s t : State} (h : XlatOnly s t) (b : Beam) (c : CtxN) : t.ctx b c = s.ctx b c :=
  h.same (fun u => u.ctx b c) fun _ _ _ _ _ _ => rfl
theorem XlatOnly.poison {s t : State} (h : XlatOnly s t) : t.poison = s.poison := h.same State.poison fun _ _ _ _ _ _ => rfl

theorem State.pickPte_only (s : State) (p : PartN) (a : BitVec 12) (l va addr : Nat) (c : Bool) :
    XlatOnly s (s.pickPte p a l va addr c).2 := by
  unfold State.pickPte
  dsimp only
  split
  · exact .refl s
  · exact ⟨rfl, id⟩

theorem State.tlbUse_only (s : State) (p : PartN) (a : BitVec 12) (l va : Nat) (o n : Pte) (f : Nat) (h : Bool) :
    XlatOnly s (s.tlbUse p a l va o n f h) := by
  unfold State.tlbUse
  dsimp only
  split <;> exact ⟨rfl, id⟩

theorem State.draw_only (s : State) : XlatOnly s s.draw.2 := ⟨rfl, id⟩

theorem State.traffic_only (s : State) (d : Die) (f : Traffic → Traffic) : XlatOnly s (s.traffic d f) := by
  unfold State.traffic
  split
  · exact .refl s
  · exact ⟨rfl, id⟩

/-- R227: the ownership of a word is revoked. -/
theorem State.l1Revoke_only (s : State) (pa n : Nat) : XlatOnly s (s.l1Revoke pa n) := ⟨rfl, id⟩

/-- R181, R304: requests for lines change the counters of the dies. -/
theorem State.lineRequests_only (s : State) (d : Option Die) (h : Die) (n : Nat) : XlatOnly s (s.lineRequests d h n) := by
  unfold State.lineRequests
  dsimp only
  refine XlatOnly.trans ?_ (State.traffic_only _ _ _)
  cases d with
  | none => exact .refl s
  | some d => simp only [Option.elim]; exact State.traffic_only _ _ _

theorem State.lineRequest_only (s : State) (d : Option Die) (h : Die) : XlatOnly s (s.lineRequest d h) :=
  s.lineRequests_only d h 1

theorem State.lineRequestIf_only (s : State) (asks : Bool) (d : Option Die) (h : Die) :
    XlatOnly s (s.lineRequestIf asks d h) := ⟨rfl, id⟩

theorem cellSetAll_wf {α : Type} (f : α → Nat) (g : α → Byte) (l : List α) :
    ∀ m, Memory.wf m = true → Memory.wf (l.foldl (fun m o => cellSet m (f o) (g o)) m) = true := by
  induction l with
  | nil => exact fun m h => h
  | cons a l ih => exact fun m h => ih _ (cellSet_wf h _ _)

/-- R212: a home that is first used gets a copy of the granule. -/
theorem State.openHome_only (s : State) (x : Homes) (d : Die) : XlatOnly s (s.openHome x d) := by
  refine ⟨rfl, fun w => cellSetAll_wf _ _ _ _ (cellCopy_wf ?_ _ _ _)⟩
  dsimp only
  split
  · exact cellCopy_wf w _ _ _
  · exact w

/-- R212: naming a home changes the copies of the granule. -/
theorem State.atHome_only (s : State) (pa : Nat) (h : Option Die) : XlatOnly s (s.atHome pa h).2 := by
  unfold State.atHome
  split
  · exact .refl s
  · dsimp only
    split
    · exact ⟨rfl, id⟩
    · split
      · exact .refl s
      · split
        · exact .refl s
        · exact (State.openHome_only _ _ _).trans ⟨rfl, id⟩

theorem State.noteTwin_only (s : State) (x : Twin) : XlatOnly s (s.noteTwin x) := by
  unfold State.noteTwin
  split <;> exact ⟨rfl, id⟩

theorem State.walk_only (die : Option Die) (p : PartN) (a : BitVec 12) (va : Nat) (c : Bool) :
    ∀ (ls : List Nat) (s : State) (base : Nat), XlatOnly s (s.walk die p a va c ls base).2 := by
  intro ls
  induction ls with
  | nil => intro s base; exact .refl s
  | cons l ls ih =>
    intro s base
    unfold State.walk
    have hq := s.pickPte_only p a l va (base + 16 * (va / 2 ^ levelShift l % levelSize l)) c
    simp only
    split
    · exact .refl s
    · generalize s.pickPte p a l va (base + 16 * (va / 2 ^ levelShift l % levelSize l)) c = r at hq ⊢
      have hp : XlatOnly s (if c && r.2.cached p a l va r.1 then r.2 else
          (r.2.lineRequest die (r.2.homeDie p (base + 16 * (va / 2 ^ levelShift l % levelSize l)) false 0)).l1Revoke
            (base + 16 * (va / 2 ^ levelShift l % levelSize l)) 16) := by
        split
        · exact hq
        · exact (hq.trans (State.lineRequest_only _ _ _)).trans (State.l1Revoke_only _ _ _)
      generalize (if (c && r.2.cached p a l va r.1) = true then r.2 else _) = u at hp ⊢
      split
      · exact hp
      · split
        · split <;> exact hp
        · split
          · exact hp
          · exact (hp.trans (State.tlbUse_only _ _ _ _ _ _ _ _ _)).trans (ih _ _)

theorem State.walkFrom_only (s : State) (x : XCtx) (va : Nat) (c : Bool) :
    XlatOnly s (s.walkFrom x va c).2 := by
  unfold State.walkFrom
  dsimp only
  split
  · exact .refl s
  · exact State.walk_only _ _ _ _ _ _ _ _

theorem State.countWalk_only (s : State) (x : XCtx) (va : Nat) (k : WalkEnd) (b : Bool) :
    XlatOnly s (s.countWalk x va k b) := by
  unfold State.countWalk
  dsimp only
  split
  · exact .refl s
  · split
    · split
      · exact .refl s
      · exact State.traffic_only _ _ _
    · split
      · exact .refl s
      · exact State.traffic_only _ _ _

/-- R208: setting bits of an entry. -/
theorem State.markPte_only (s : State) (x : XCtx) (addr : Nat) (m : Pte) : XlatOnly s (s.markPte x addr m) :=
  XlatOnly.trans (t := { s with mem := cellPutWord (cellPutWord s.mem addr 8 m.w0.toNat) (addr + 8) 8 m.w1.toNat })
    ⟨rfl, fun w => cellPutWord_wf (cellPutWord_wf w _ _ _) _ _ _⟩
    ((State.lineRequest_only _ _ _).trans (State.l1Revoke_only _ _ _))

theorem State.useLeaf_only (s : State) (x : XCtx) (acc : Access) (va l addr : Nat) (e : Pte) (hit : Bool)
    (r : XOut × State) (h : s.useLeaf x acc va l addr e hit = some r) : XlatOnly s r.2 := by
  have hn : ∀ (p : Bool) (k : Twin), XlatOnly s (if p then s.noteTwin k else s) := by
    intro p k
    cases p
    · exact .refl s
    · exact s.noteTwin_only k
  replace hn := hn (acc == .store && e.ver && !s.domOpen x.part e.vdom) ⟨x.part, e.vdom, s.frameOf x e,
    if s.frameOf x e == e.frame0 then e.frame1 else e.frame0, 2 ^ levelShift l, (s.part x.part).sweeps⟩
  unfold State.useLeaf at h
  dsimp only at h
  iterate 4
    split at h
    · cases h; exact .refl s
  generalize (if (acc == Access.store && e.ver && !s.domOpen x.part e.vdom) = true then s.noteTwin _ else s) = t at h hn
  split at h
  · cases h; exact hn.trans (State.tlbUse_only _ _ _ _ _ _ _ _ _)
  · split at h
    · cases h
      exact hn.trans ((State.markPte_only _ _ _ _).trans (State.tlbUse_only _ _ _ _ _ _ _ _ _))
    · cases h

/-- R202: what a translation changes. -/
theorem State.translate_only (s : State) (x : XCtx) (acc : Access) (va : Word64) (hit : Bool) :
    XlatOnly s (s.translate x acc va hit).2 := by
  unfold State.translate
  split
  · exact .refl s
  · have h1 := s.walkFrom_only x va.toNat true
    split
    · rename_i u e; rw [e] at h1; exact XlatOnly.trans h1 (u.countWalk_only x va.toNat .fault true)
    · rename_i l addr e s0 he
      rw [he] at h1
      replace h1 := h1.trans (s0.countWalk_only x va.toNat (.leaf l addr e) true)
      generalize s0.countWalk x va.toNat (.leaf l addr e) true = s1 at h1 ⊢
      dsimp only
      split
      · rename_i r hr; exact h1.trans (State.useLeaf_only _ _ _ _ _ _ _ _ _ hr)
      · have h2 := s1.walkFrom_only x va.toNat false
        split
        · rename_i s3 e2; rw [e2] at h2
          exact XlatOnly.trans (XlatOnly.trans h1 h2) (s3.countWalk_only x va.toNat .fault false)
        · rename_i l2 a2 e2 s3 he2
          rw [he2] at h2
          replace h2 := XlatOnly.trans h2 (s3.countWalk_only x va.toNat (.leaf l2 a2 e2) false)
          generalize s3.countWalk x va.toNat (.leaf l2 a2 e2) false = s2 at h2 ⊢
          cases hu : s2.useLeaf x acc va.toNat l2 a2 e2 hit with
          | none => exact h1.trans h2
          | some r => exact (h1.trans h2).trans (State.useLeaf_only _ _ _ _ _ _ _ _ _ hu)

end Sys2Proof.Machine
end

