-- ==== Sys2Proof/Laws/Engine.lean ====
section
/-! SUPPORT. What fetching and the accesses of a command processor can do before they write: they change
what a translation changes, and nothing else. -/

namespace Sys2Proof.Machine

theorem XlatOnly.foldl {α β : Type} {s : State} (f : β × State → α → β × State)
    (h : ∀ r a, XlatOnly s r.2 → XlatOnly s (f r a).2) (l : List α) :
    ∀ r, XlatOnly s r.2 → XlatOnly s (l.foldl f r).2 := by
  induction l with
  | nil => exact fun r k => k
  | cons a l ih => exact fun r k => ih _ (h r a k)

theorem XlatOnly.foldlState {α : Type} {s : State} (f : State → α → State)
    (h : ∀ t a, XlatOnly s t → XlatOnly s (f t a)) (l : List α) :
    ∀ t, XlatOnly s t → XlatOnly s (l.foldl f t) := by
  induction l with
  | nil => exact fun t k => k
  | cons a l ih => exact fun t k => ih _ (h t a k)

/-- R181, R212: a request to the home of a translation, and the location there. -/
theorem State.home_only (s : State) (d : Option Die) (pa : Nat) (h : Option Die) :
    XlatOnly s ((h.elim s fun x => s.lineRequest d x).atHome pa h).2 := by
  cases h with
  | none => exact .refl s
  | some x => exact XlatOnly.trans (s.lineRequest_only d x) (State.atHome_only _ _ _)

theorem State.sendRemote_only (s : State) (b : Beam) (pa : Nat) (q : RemoteReq) :
    XlatOnly s (s.sendRemote b pa q) := by
  unfold State.sendRemote
  dsimp only
  split
  · exact ⟨rfl, id⟩
  · exact .refl s

theorem State.sendStore_only (s : State) (b : Beam) (pa : Nat) (bs : List Byte) :
    XlatOnly s (s.sendStore b pa bs) :=
  XlatOnly.foldlState _ (fun t _ h => h.trans (t.sendRemote_only _ _ _)) _ _ (.refl s)

theorem State.accepted_only (s : State) : XlatOnly s s.accepted.2 := s.draw_only

/-- R57: asking a peer changes what is out, and the draws. -/
theorem State.askRemote_only (s : State) (b : Beam) (pa n : Nat) : XlatOnly s (s.askRemote b pa n).2 := by
  have h : XlatOnly s ((granules pa n).foldl (fun s g => s.sendRemote b g.1 (.load g.2.2)) s) :=
    XlatOnly.foldlState _ (fun t _ h => h.trans (t.sendRemote_only _ _ _)) _ _ (.refl s)
  unfold State.askRemote
  dsimp only
  generalize (granules pa n).foldl (fun s g => s.sendRemote b g.1 (.load g.2.2)) s = t at h ⊢
  have k := h.trans t.accepted_only
  split
  · rename_i e; rw [e] at k; exact k
  · rename_i u e
    rw [e] at k
    refine XlatOnly.foldl _ ?_ (List.range n) ([], u) k
    exact fun r _ h => h.trans r.2.draw_only

theorem State.resolveVa_only (s : State) (w : Warp) (acc : Access) (va : Word64) (hit : Bool) :
    XlatOnly s (s.resolveVa w acc va hit).2 := by
  have h := s.translate_only w.xctx acc va hit
  unfold State.resolveVa
  split
  · rename_i pa home t e
    rw [e] at h
    exact XlatOnly.trans h (t.atHome_only pa home)
  · rename_i e; rw [e] at h; split <;> exact h
  · rename_i e; rw [e] at h; exact h

theorem State.engineAt_only (s : State) (x : XCtx) (acc : Access) (va : Word64) (align : Nat) :
    XlatOnly s (s.engineAt x acc va align).2 := by
  have h := s.translate_only x acc va false
  unfold State.engineAt
  split
  · exact .refl s
  · split
    · rename_i pa home t e
      rw [e] at h
      exact XlatOnly.trans h (t.home_only none pa home)
    · rename_i e; rw [e] at h; exact h
    · rename_i e; rw [e] at h; exact h

theorem State.physBytes_only (s : State) (b : Beam) (pa n : Nat) : XlatOnly s (s.physBytes b pa n).2 := by
  have h := s.askRemote_only b pa n
  unfold State.physBytes
  split
  · split <;> (rename_i e; rw [e] at h; exact h)
  · split <;> exact .refl s

/-- R500: a read of an engine changes what its translation changes. -/
theorem State.engineRead_only (s : State) (x : XCtx) (va : Word64) (n align : Nat) :
    XlatOnly s (s.engineRead x va n align).2 := by
  have h := s.engineAt_only x .load va align
  unfold State.engineRead
  split
  · rename_i e; rw [e] at h; exact h
  · rename_i pa t e
    rw [e] at h
    exact h.trans (t.physBytes_only x.link pa n)

theorem State.engineWord_only (s : State) (x : XCtx) (va : Word64) (n : Nat) :
    XlatOnly s (s.engineWord x va n).2 := by
  have h := s.engineRead_only x va n n
  unfold State.engineWord
  split <;> (rename_i e; rw [e] at h; exact h)

theorem State.cmdWord_only (s : State) (x : XCtx) (va : Word64) (w64 : Bool) :
    XlatOnly s (s.cmdWord x va w64).2 := by
  have h := s.engineWord_only x va (if w64 then 8 else 4)
  unfold State.cmdWord
  split <;> (rename_i e; rw [e] at h; exact h)

theorem State.ringWord_only (s : State) (b : Beam) (c : CtxN) (off : Nat) :
    XlatOnly s (s.ringWord b c off).2 := by
  have h := s.engineWord_only (s.cpCtx b c) (BitVec.ofNat 64 ((s.ctx b c).ringBase.toNat * 2 ^ 12 + off)) 8
  unfold State.ringWord
  dsimp only
  split <;> (rename_i e; rw [e] at h; exact h)

theorem State.cmdAt_only (s : State) (b : Beam) (c : CtxN) (opc len : Nat) (arg : Word64) (sk : Bool) :
    XlatOnly s (s.cmdAt b c opc len arg sk).2 := by
  have h : ∀ (u : State) (p : Prop) [Decidable p] (o : Nat), XlatOnly s u →
      XlatOnly s (if p then u.ringWord b c o else (some 0, u)).2 := by
    intro u p _ o hu
    split
    · exact hu.trans (u.ringWord_only b c o)
    · exact hu
  unfold State.cmdAt
  dsimp only
  split
  · exact .refl s
  · have k := h _ (3 ≤ len ∧ opc ≠ 0) ((s.ctx b c).ringOff (s.ctx b c).head.toNat (8 * 2))
      (h s (2 ≤ len ∧ opc ≠ 0) ((s.ctx b c).ringOff (s.ctx b c).head.toNat (8 * 1)) (.refl s))
    split <;> exact k

/-- R98: reading the head of a stream changes what its translations change. -/
theorem State.peek_only (s : State) (b : Beam) (c : CtxN) : XlatOnly s (s.peek b c).2 := by
  unfold State.peek
  dsimp only
  split
  · exact .refl s
  · have h := s.ringWord_only b c ((s.ctx b c).ringOff (s.ctx b c).head.toNat 0)
    split
    · rename_i e; rw [e] at h; exact h
    · rename_i w t e
      rw [e] at h
      split
      · exact h
      · split
        · exact h
        · split
          · exact h
          · split
            · exact h.trans (State.cmdAt_only ..)
            · split
              · exact h
              · exact h.trans (State.cmdAt_only ..)

/-- R220: the other frame of a closed domain is memory. -/
theorem State.mirror_only (s : State) (pa : Nat) (bs : List Byte) : XlatOnly s (s.mirror pa bs) :=
  XlatOnly.foldlState _ (fun _ _ h => h.trans ⟨rfl, fun w => cellPut_wf w _ _⟩) _ _ (.refl s)

theorem State.tellPeer_only (s : State) (b : Beam) (pa : Nat) (bs : List Byte) :
    XlatOnly s (s.tellPeer fun s => s.sendStore b pa bs).2 := by
  have h := (s.sendStore_only b pa bs).trans (s.sendStore b pa bs).accepted_only
  unfold State.tellPeer
  split <;> (rename_i e; rw [e] at h; exact h)

/-- R227: words that run ahead of the home in an L1 stand or fall as the draws say. -/
theorem State.l1Yield_only (s : State) (pa n : Nat) : XlatOnly s (s.l1Yield pa n) := by
  unfold State.l1Yield
  split
  · exact .refl s
  · dsimp only
    split <;> exact ⟨rfl, id⟩

/-- Bytes that reach their home where no word is poisoned change memory. -/
theorem State.putHome_only (s : State) (pa : Nat) (bs : List Byte) (hp : s.poison = []) :
    XlatOnly s (s.putHome (.phys pa) bs) := by
  have h : s.soundBy 0 (.phys pa) bs.length = s := by
    unfold State.soundBy
    rw [hp, List.filterMap_nil, ← hp]
  simp only [State.putHome, State.putHomeBy, h]
  exact ⟨rfl, fun w => cellPut_wf w pa bs⟩

/-- R220, R227: a write of an engine at its home is made in both frames of a closed domain, and revokes the words that
an L1 owns. -/
theorem State.putShared_only (s : State) (pa : Nat) (bs : List Byte) (hp : s.poison = []) :
    XlatOnly s (s.putShared pa bs) := by
  have h := s.l1Yield_only pa bs.length
  exact ((h.trans (State.putHome_only _ pa bs (XlatOnly.poison h ▸ hp))).trans (State.mirror_only _ _ _)).trans
    (State.l1Revoke_only _ _ _)

theorem State.putShared_beams (s : State) (pa : Nat) (bs : List Byte) : (s.putShared pa bs).beams = s.beams :=
  ((State.mirror_only ((s.l1Yield pa bs.length).putHome (.phys pa) bs) pa bs).same State.beams
    fun _ _ _ _ _ _ => rfl).trans ((s.l1Yield_only pa bs.length).same State.beams fun _ _ _ _ _ _ => rfl)

/-- R103, R58: bytes that an engine writes where no word is poisoned change memory, or go out. -/
theorem State.putPhys_only (s : State) (b : Beam) (pa : Nat) (bs : List Byte) (hp : s.poison = []) :
    XlatOnly s (s.putPhys b pa bs).2 := by
  unfold State.putPhys
  split
  · exact s.tellPeer_only b pa bs
  · exact s.putShared_only pa bs hp

/-- R103: a write of an engine changes, where no word is poisoned, what a translation does. -/
theorem State.engineWrite_only (s : State) (x : XCtx) (va : Word64) (align : Nat) (bs : List Byte)
    (hp : s.poison = []) : XlatOnly s (s.engineWrite x va align bs).2 := by
  have h := s.engineAt_only x .store va align
  unfold State.engineWrite
  split
  · rename_i e; rw [e] at h; exact h
  · rename_i pa t e
    rw [e] at h
    exact XlatOnly.trans h (t.putPhys_only _ _ _ (XlatOnly.poison h ▸ hp))

/-- R103: a write of an engine leaves the registers of the beams as they are. -/
theorem State.engineWrite_beams (s : State) (x : XCtx) (va : Word64) (align : Nat) (bs : List Byte) :
    (s.engineWrite x va align bs).2.beams = s.beams := by
  have h := (s.engineAt_only x .store va align).same State.beams fun _ _ _ _ _ _ => rfl
  unfold State.engineWrite
  split
  · rename_i e; rw [e] at h; exact h
  · rename_i pa t e
    rw [e] at h
    have k : (t.putPhys x.link pa bs).2.beams = t.beams := by
      unfold State.putPhys
      split
      · exact (t.tellPeer_only x.link pa bs).same State.beams fun _ _ _ _ _ _ => rfl
      · exact t.putShared_beams pa bs
    exact k.trans h

/-- R213: that a packet adds at most one hit to an entry changes the cached entries. -/
theorem State.oneHit_only (s : State) (l : List TlbEntry) : XlatOnly s (s.oneHit l) := ⟨rfl, id⟩

/-- R308: translating a packet changes what its translations change. -/
theorem State.packetPas_only (s : State) (w : Warp) (pc : Word64) : XlatOnly s (s.packetPas w pc).2 := by
  unfold State.packetPas
  dsimp only
  refine XlatOnly.trans ?_ (State.oneHit_only _ _)
  refine XlatOnly.foldl _ ?_ _ _ (.refl s)
  intro r part h
  obtain ⟨o, t⟩ := r
  cases o with
  | error e => exact h
  | ok as =>
    dsimp only
    split
    · exact h
    · have k := XlatOnly.trans h (t.translate_only w.xctx .fetch (pc + BitVec.ofNat 64 part.1) true)
      split
      · rename_i e; rw [e] at k; exact k
      · rename_i e; rw [e] at k; exact k
      · rename_i a home u e
        rw [e] at k
        cases home with
        | none => exact k
        | some x => exact (XlatOnly.trans k (u.lineRequestIf_only _ _ _)).trans (State.atHome_only _ _ _)

/-- R57: a peer's answer, its rejection or its silence. -/
theorem State.askPeer_only (s : State) (b : Beam) (pa n : Nat) : XlatOnly s (s.askPeer b pa n).2 := by
  have h := s.askRemote_only b pa n
  unfold State.askPeer
  split
  · rename_i e; rw [e] at h; exact h
  · rename_i t e; rw [e] at h; exact XlatOnly.trans h t.draw_only

/-- R55, R308: the bytes of a packet, those of a remote page from its peer. -/
theorem State.packetBytes_only (s : State) (w : Warp) (pc : Word64) (pas : List Nat) :
    XlatOnly s (s.packetBytes w pc pas).2 := by
  unfold State.packetBytes
  split
  · exact .refl s
  · refine XlatOnly.foldl _ ?_ _ _ (.refl s)
    intro r part h
    obtain ⟨o, t⟩ := r
    cases o with
    | error e => exact h
    | ok bs =>
      dsimp only
      split
      · have k := XlatOnly.trans h
          (t.askPeer_only (dieBeam (coreDie w.place.core)) (((pas.drop part.1).take part.2).headD 0) part.2)
        split <;> (rename_i e; rw [e] at k; exact k)
      · exact h

/-- R308: fetching a packet changes what its translations change. -/
theorem State.fetchPacket_only (s : State) (w : Warp) (pc : Word64) : XlatOnly s (s.fetchPacket w pc).2 := by
  have h := s.packetPas_only w pc
  unfold State.fetchPacket
  split
  · rename_i e; rw [e] at h; exact h
  · rename_i pas t e
    rw [e] at h
    have k := XlatOnly.trans h (t.packetBytes_only w pc pas)
    split <;> (rename_i e; rw [e] at k; exact k)

end Sys2Proof.Machine
end

