-- ==== Sys2Proof/Laws/Frame.lean ====
section
/-! SUPPORT. What finding and reading a trap frame can do: it changes what its translations, its line requests and the
write-back of private words change, and nothing else. -/

namespace Sys2Proof.Machine

/-- R181: asking the homes of lines changes the counters of the dies. -/
theorem State.askLines_only (s : State) (d : Option Die) (rs : List (Nat × Nat)) : XlatOnly s (s.askLines d rs) :=
  XlatOnly.foldlState _ (fun t _ h => h.trans (t.lineRequest_only _ _)) _ _ (.refl s)

/-- R178: writing words of an L1 back changes memory, the L1s and the counters. -/
theorem State.l1Flush_only (s : State) (p : L1Word → Bool) : XlatOnly s (s.l1Flush p) := by
  unfold State.l1Flush
  dsimp only
  refine XlatOnly.trans ?_ ⟨rfl, id⟩
  refine XlatOnly.foldlState _ (fun t w h => h.trans ?_) _ _ ?_
  · exact XlatOnly.trans ⟨rfl, fun k => cellPut_wf k _ _⟩ (State.mirror_only _ _ _)
  · exact XlatOnly.foldlState _ (fun t x h => h.trans (t.lineRequest_only _ _)) _ _ (.refl s)

/-- R178: a read at the home changes what the write-back of private words changes. -/
theorem State.l1Recall_only (s : State) (c : Option Nat) (pa n : Nat) : XlatOnly s (s.l1Recall c pa n) := by
  unfold State.l1Recall
  split
  · exact .refl s
  · exact s.draw_only.trans (State.l1Flush_only _ _)

/-- R202, R213: finding the granules of a frame changes what their translations change. -/
theorem State.framePas_only (s : State) (w : Warp) (acc : Access) : XlatOnly s (s.framePas w acc).2 := by
  unfold State.framePas
  dsimp only
  refine XlatOnly.trans ?_ (State.oneHit_only _ _)
  refine XlatOnly.foldl _ ?_ _ _ (.refl s)
  intro r i h
  obtain ⟨o, t⟩ := r
  cases o with
  | error e => exact h
  | ok as =>
    have k := h.trans (t.translate_only w.xctx acc (t.frameVa w + BitVec.ofNat 64 (4096 * i)) true)
    dsimp only
    split
    · rename_i e; rw [e] at k; exact k
    · rename_i e; rw [e] at k; exact k
    · rename_i e; rw [e] at k; exact k.trans (State.atHome_only _ _ _)

/-- R57, R178, R225: reading a frame changes what its line requests, the private words of its range and its peer's answers
change. -/
theorem State.readFrame_only (s : State) (w : Warp) (pas : List Nat) : XlatOnly s (s.readFrame w pas).2 := by
  unfold State.readFrame
  dsimp only
  split
  · exact .refl s
  · refine XlatOnly.foldl _ ?_ _ _ ?_
    · intro r x h
      obtain ⟨o, t⟩ := r
      cases o with
      | error e => exact h
      | ok m =>
        have k := h.trans (t.askPeer_only (dieBeam (coreDie w.place.core)) x.1 x.2)
        dsimp only
        split <;> (rename_i e; rw [e] at k; exact k)
    · exact XlatOnly.foldlState _ (fun t r h => h.trans (t.l1Recall_only _ _ _)) _ _ (s.askLines_only _ _)

end Sys2Proof.Machine
end

