-- ==== Sys2Proof/Laws/Granule.lean ====
section
/-! SUPPORT. Two addresses of a 4 KiB granule are translated alike: they have one walk, one leaf and one home. -/

namespace Sys2Proof.Machine

/-- R207: a cached entry covers two addresses alike that its level does not tell apart. -/
theorem TlbEntry.covers_congr {va vb l : Nat} (h : va / 2 ^ levelShift l = vb / 2 ^ levelShift l) (e : TlbEntry)
    (p : PartN) (a : BitVec 12) : e.covers p a l va = e.covers p a l vb := by
  unfold TlbEntry.covers
  rw [h]

theorem State.tlbUse_congr {va vb l : Nat} (h : va / 2 ^ levelShift l = vb / 2 ^ levelShift l) (s : State) (p : PartN)
    (a : BitVec 12) (o n : Pte) (f : Nat) (hit : Bool) : s.tlbUse p a l va o n f hit = s.tlbUse p a l vb o n f hit := by
  unfold State.tlbUse
  simp only [TlbEntry.covers_congr h, h]

theorem State.cached_congr {va vb l : Nat} (h : va / 2 ^ levelShift l = vb / 2 ^ levelShift l) (s : State) (p : PartN)
    (a : BitVec 12) (e : Pte) : s.cached p a l va e = s.cached p a l vb e := by
  unfold State.cached
  simp only [TlbEntry.covers_congr h]

/-- R198, R207: two addresses that no level tells apart are walked alike. -/
theorem State.walk_congr {va vb : Nat} (h : ∀ l, va / 2 ^ levelShift l = vb / 2 ^ levelShift l) (die : Option Die)
    (p : PartN) (a : BitVec 12) (c : Bool) :
    ∀ (ls : List Nat) (s : State) (base : Nat), s.walk die p a va c ls base = s.walk die p a vb c ls base := by
  intro ls
  induction ls with
  | nil => exact fun _ _ => rfl
  | cons l ls ih =>
    intro s base
    unfold State.walk State.pickPte
    simp only [h l, TlbEntry.covers_congr (h l), State.cached_congr (h l), State.tlbUse_congr (h l), ih]

theorem State.walkFrom_congr {va vb : Nat} (h : ∀ l, va / 2 ^ levelShift l = vb / 2 ^ levelShift l) (s : State)
    (x : XCtx) (c : Bool) : s.walkFrom x va c = s.walkFrom x vb c := by
  unfold State.walkFrom
  simp only [State.walk_congr h]

theorem State.countWalk_congr {va vb : Nat} (h : ∀ l, va / 2 ^ levelShift l = vb / 2 ^ levelShift l) (s : State)
    (x : XCtx) (k : WalkEnd) (c : Bool) : s.countWalk x va k c = s.countWalk x vb k c := by
  unfold State.countWalk
  simp only [State.cached_congr (h _)]

/-- R198: addresses of one granule of 4 KiB differ at no level. -/
theorem level_granule {va vb : Nat} (h : va / 4096 = vb / 4096) (l : Nat) :
    va / 2 ^ levelShift l = vb / 2 ^ levelShift l := by
  have e : ∀ v k : Nat, v / 2 ^ (12 + k) = v / 4096 / 2 ^ k := fun v k => by
    rw [Nat.pow_add, ← Nat.div_div_eq_div_mul]
  have hl : ∃ k, levelShift l = 12 + k := by
    unfold levelShift
    split
    · exact ⟨4, rfl⟩
    · exact ⟨9, rfl⟩
    · exact ⟨18, rfl⟩
    · exact ⟨27, rfl⟩
    · exact ⟨36, rfl⟩
  obtain ⟨k, hk⟩ := hl
  rw [hk, e, e, h]

/-- R179: the addresses of a granule have one home. -/
theorem State.homeDie_granule {pa pb : Nat} (h : pa / 4096 = pb / 4096) (s : State) (p : PartN) (plc : Bool) (pld : Die) :
    s.homeDie p pa plc pld = s.homeDie p pb plc pld := by
  have e : ∀ v i : Nat, v / 2 ^ (12 + 3 * i) = v / 4096 / 2 ^ (3 * i) := fun v i => by
    rw [Nat.pow_add, ← Nat.div_div_eq_div_mul]
  unfold State.homeDie
  simp only [e, h]

/-- An offset in a page, from that of another address of the granule. -/
theorem offset_granule {va vb : Nat} (h : va / 4096 = vb / 4096) (l : Nat) :
    vb % 4096 ≤ vb % 2 ^ levelShift l ∧
      va % 2 ^ levelShift l = vb % 2 ^ levelShift l - vb % 4096 + va % 4096 := by
  have hl := level_granule h l
  have hd : 4096 ∣ 2 ^ levelShift l := by
    unfold levelShift
    split <;> decide
  have ha := Nat.div_add_mod va (2 ^ levelShift l)
  have hb := Nat.div_add_mod vb (2 ^ levelShift l)
  have hm := Nat.mod_mod_of_dvd vb hd
  rw [hl] at ha
  generalize 2 ^ levelShift l * (vb / 2 ^ levelShift l) = z at ha hb
  generalize vb % 2 ^ levelShift l = r at *
  generalize va % 2 ^ levelShift l = q at *
  omega

/-- R202: two addresses of a granule use a leaf alike where one of them reaches memory of the device. -/
theorem State.useLeaf_granule {va vb pa : Nat} (h : va / 4096 = vb / 4096) (s t : State) (x : XCtx) (acc : Access)
    (l addr : Nat) (e : Pte) (hit : Bool) (d : Die) (ha : pa % 4096 = vb % 4096)
    (hu : s.useLeaf x acc vb l addr e hit = some (.ok pa (some d), t)) :
    s.useLeaf x acc va l addr e hit = some (.ok (pa - vb % 4096 + va % 4096) (some d), t) := by
  have hl := level_granule h l
  obtain ⟨hle, hoff⟩ := offset_granule h l
  unfold State.useLeaf at hu ⊢
  dsimp only at hu ⊢
  iterate 4
    split at hu
    · cases hu
    rename_i hc
    rw [if_neg hc]
    clear hc
  generalize (if (acc == Access.store && e.ver && !s.domOpen x.part e.vdom) = true then s.noteTwin _ else s) = u at hu ⊢
  cases hr : isRemote (s.frameOf x e) with
  | true =>
    rw [hr] at hu
    simp only [if_true] at hu
    split at hu
    · split at hu <;> cases hu
    · split at hu
      · split at hu <;> cases hu
      · cases hu
  | false =>
    rw [hr] at hu
    simp only [Bool.false_eq_true, if_false] at hu ⊢
    simp only [State.tlbUse_congr hl, hoff]
    generalize s.frameOf x e = f at hu ⊢
    generalize vb % 2 ^ levelShift l = r at hu hle ⊢
    have key : f + r = pa → f + (r - vb % 4096 + va % 4096) = pa - vb % 4096 + va % 4096 ∧
        (f + (r - vb % 4096 + va % 4096)) / 4096 = (f + r) / 4096 := by
      intro hp
      subst hp
      omega
    split at hu
    · rename_i hc
      rw [if_pos hc]
      simp only [Option.some.injEq, Prod.mk.injEq, XOut.ok.injEq] at hu ⊢
      obtain ⟨⟨hp, hh⟩, ht⟩ := hu
      obtain ⟨k1, k2⟩ := key hp
      exact ⟨⟨k1, by rw [State.homeDie_granule k2]; exact hh⟩, ht⟩
    · rename_i hc
      rw [if_neg hc]
      split at hu
      · rename_i hc
        rw [if_pos hc]
        simp only [Option.some.injEq, Prod.mk.injEq, XOut.ok.injEq] at hu ⊢
        obtain ⟨⟨hp, hh⟩, ht⟩ := hu
        obtain ⟨k1, k2⟩ := key hp
        exact ⟨⟨k1, by rw [State.homeDie_granule k2]; exact hh⟩, ht⟩
      · cases hu

/-- R208: whether a leaf must be walked to again does not depend on the address. -/
theorem State.useLeaf_none {va vb l addr : Nat} {e : Pte} {s : State} {x : XCtx} {acc : Access} {hit : Bool}
    (hu : s.useLeaf x acc vb l addr e hit = none) : s.useLeaf x acc va l addr e hit = none := by
  unfold State.useLeaf at hu ⊢
  dsimp only at hu ⊢
  iterate 4
    split at hu
    · cases hu
    rename_i hc
    rw [if_neg hc]
    clear hc
  generalize (if (acc == Access.store && e.ver && !s.domOpen x.part e.vdom) = true then s.noteTwin _ else s) = u at hu ⊢
  split at hu
  · cases hu
  · rename_i hc
    rw [if_neg hc]
    split at hu
    · cases hu
    · rename_i hc
      rw [if_neg hc]

/-- R202: two addresses of a granule are translated alike where one of them reaches memory of the device. -/
theorem State.translate_granule {va vb : Word64} {pa : Nat} (h : va.toNat / 4096 = vb.toNat / 4096) (s t : State)
    (x : XCtx) (acc : Access) (hit : Bool) (d : Die) (ha : pa % 4096 = vb.toNat % 4096)
    (ht : s.translate x acc vb hit = (.ok pa (some d), t)) :
    s.translate x acc va hit = (.ok (pa - vb.toNat % 4096 + va.toNat % 4096) (some d), t) := by
  have hl := level_granule h
  have hb : bitsOf va 63 57 = bitsOf vb 63 57 := by
    unfold bitsOf
    have e : ∀ v : Nat, v / 2 ^ 57 = v / 4096 / 2 ^ 45 := fun v => by omega
    rw [e, e, h]
  unfold State.translate at ht ⊢
  simp only [hb, State.walkFrom_congr hl, State.countWalk_congr hl]
  split at ht
  · cases ht
  · rename_i hc
    rw [if_neg hc]
    generalize s.walkFrom x vb.toNat true = w at ht ⊢
    obtain ⟨k, u⟩ := w
    cases k with
    | fault => cases ht
    | leaf l addr e =>
      dsimp only at ht ⊢
      generalize u.countWalk x vb.toNat (.leaf l addr e) true = u at ht ⊢
      cases hu : u.useLeaf x acc vb.toNat l addr e hit with
      | some r =>
        rw [hu] at ht
        dsimp only at ht
        subst ht
        rw [State.useLeaf_granule h _ _ _ _ _ _ _ _ _ ha hu]
      | none =>
        rw [hu] at ht
        rw [State.useLeaf_none hu]
        dsimp only at ht ⊢
        generalize u.walkFrom x vb.toNat false = w at ht ⊢
        obtain ⟨k, u⟩ := w
        cases k with
        | fault => cases ht
        | leaf l addr e =>
          dsimp only at ht ⊢
          generalize u.countWalk x vb.toNat (.leaf l addr e) false = u at ht ⊢
          cases hu : u.useLeaf x acc vb.toNat l addr e hit with
          | some r =>
            rw [hu, Option.getD_some] at ht
            subst ht
            rw [State.useLeaf_granule h _ _ _ _ _ _ _ _ _ ha hu, Option.getD_some]
          | none =>
            rw [hu] at ht
            cases ht

/-- R212: two addresses of a granule lie at one home alike, where one of them lies where it is. -/
theorem State.atHome_granule {pa pb : Nat} (h : pa / 4096 = pb / 4096) (s t : State) (d : Option Die)
    (hb : s.atHome pb d = (pb, t)) : s.atHome pa d = (pa, t) := by
  unfold State.atHome at hb ⊢
  cases d with
  | none => cases hb; rfl
  | some d =>
    dsimp only at hb ⊢
    rw [h]
    cases hf : s.slices.homes.find? (fun x => x.page == pb / 4096) with
    | none =>
      rw [hf] at hb
      dsimp only at hb ⊢
      simp only [Prod.mk.injEq, true_and] at hb ⊢
      exact hb
    | some y =>
      rw [hf] at hb
      dsimp only at hb ⊢
      have hn : pb + homeCopy d ≠ pb := by
        unfold homeCopy
        omega
      split at hb
      · rename_i hc
        rw [if_pos hc]
        simp only [Prod.mk.injEq, true_and] at hb ⊢
        exact hb
      · split at hb
        · exact absurd (congrArg Prod.fst hb) hn
        · exact absurd (congrArg Prod.fst hb) hn

/-- R202, R212: where the translation of an address of a granule changes nothing, that of every other address of it changes
nothing either. -/
theorem State.resolveVa_granule {va vb : Word64} {pb : Nat} (h : va.toNat / 4096 = vb.toNat / 4096) (s : State) (w : Warp)
    (acc : Access) (hit : Bool) (d : Die) (ha : pb % 4096 = vb.toNat % 4096)
    (ht : s.translate w.xctx acc vb hit = (.ok pb (some d), s)) (hh : s.atHome pb (some d) = (pb, s)) :
    s.resolveVa w acc va hit = (.ok (.phys (pb - vb.toNat % 4096 + va.toNat % 4096)) (some d) va, s) := by
  have k := State.atHome_granule (pa := pb - vb.toNat % 4096 + va.toNat % 4096) (by omega) s s (some d) hh
  unfold State.resolveVa
  rw [State.translate_granule h _ _ _ _ _ _ ha ht]
  dsimp only
  rw [k]

end Sys2Proof.Machine
end

