-- ==== Sys2Proof/Laws/State.lean ====
section
/-! SUPPORT. One lemma for each field of the state under each update of it: a field that an update does
not name keeps its value. -/

namespace Sys2Proof.Machine.State

@[simp] theorem modW_w (s : State) (f : Warp → Warp) : (s.modW f).w = f s.w := rfl
@[simp] theorem modW_rd (s : State) (f : Warp → Warp) (w : Warp) (h : s.issue.snap = some w) :
    (s.modW f).rd = w := by simp [rd, modW, h]
theorem rd_of_snap {s : State} {w : Warp} (h : s.issue.snap = some w) : s.rd = w := by simp [rd, h]
@[simp] theorem emit_out (s : State) (o : Output) : (s.emit o).out = s.out ++ [o] := rfl
@[simp] theorem fresh_fst (s : State) : s.fresh.1 = s.serial := rfl
@[simp] theorem draw_fst (s : State) : s.draw.1 = s.draws := rfl

@[simp] theorem modW_rest (s : State) (f : Warp → Warp) : (s.modW f).rest = s.rest := rfl
@[simp] theorem modW_issue (s : State) (f : Warp → Warp) : (s.modW f).issue = s.issue := rfl
@[simp] theorem modW_groups (s : State) (f : Warp → Warp) : (s.modW f).groups = s.groups := rfl
@[simp] theorem modW_bolts (s : State) (f : Warp → Warp) : (s.modW f).bolts = s.bolts := rfl
@[simp] theorem modW_launches (s : State) (f : Warp → Warp) : (s.modW f).launches = s.launches := rfl
@[simp] theorem modW_ops (s : State) (f : Warp → Warp) : (s.modW f).ops = s.ops := rfl
@[simp] theorem modW_l1 (s : State) (f : Warp → Warp) : (s.modW f).l1 = s.l1 := rfl
@[simp] theorem modW_slices (s : State) (f : Warp → Warp) : (s.modW f).slices = s.slices := rfl
@[simp] theorem modW_held (s : State) (f : Warp → Warp) : (s.modW f).held = s.held := rfl
@[simp] theorem modW_tlb (s : State) (f : Warp → Warp) : (s.modW f).tlb = s.tlb := rfl
@[simp] theorem modW_sweeps (s : State) (f : Warp → Warp) : (s.modW f).sweeps = s.sweeps := rfl
@[simp] theorem modW_tlbinvs (s : State) (f : Warp → Warp) : (s.modW f).tlbinvs = s.tlbinvs := rfl
@[simp] theorem modW_looms (s : State) (f : Warp → Warp) : (s.modW f).looms = s.looms := rfl
@[simp] theorem modW_copies (s : State) (f : Warp → Warp) : (s.modW f).copies = s.copies := rfl
@[simp] theorem modW_mem (s : State) (f : Warp → Warp) : (s.modW f).mem = s.mem := rfl
@[simp] theorem modW_vault (s : State) (f : Warp → Warp) : (s.modW f).vault = s.vault := rfl
@[simp] theorem modW_flash (s : State) (f : Warp → Warp) : (s.modW f).flash = s.flash := rfl
@[simp] theorem modW_poison (s : State) (f : Warp → Warp) : (s.modW f).poison = s.poison := rfl
@[simp] theorem modW_regPoison (s : State) (f : Warp → Warp) : (s.modW f).regPoison = s.regPoison := rfl
@[simp] theorem modW_parts (s : State) (f : Warp → Warp) : (s.modW f).parts = s.parts := rfl
@[simp] theorem modW_plies (s : State) (f : Warp → Warp) : (s.modW f).plies = s.plies := rfl
@[simp] theorem modW_beams (s : State) (f : Warp → Warp) : (s.modW f).beams = s.beams := rfl
@[simp] theorem modW_ports (s : State) (f : Warp → Warp) : (s.modW f).ports = s.ports := rfl
@[simp] theorem modW_dev (s : State) (f : Warp → Warp) : (s.modW f).dev = s.dev := rfl
@[simp] theorem modW_clocks (s : State) (f : Warp → Warp) : (s.modW f).clocks = s.clocks := rfl
@[simp] theorem modW_lastPos (s : State) (f : Warp → Warp) : (s.modW f).lastPos = s.lastPos := rfl
@[simp] theorem modW_time (s : State) (f : Warp → Warp) : (s.modW f).time = s.time := rfl
@[simp] theorem modW_out (s : State) (f : Warp → Warp) : (s.modW f).out = s.out := rfl
@[simp] theorem modW_turn (s : State) (f : Warp → Warp) : (s.modW f).turn = s.turn := rfl
@[simp] theorem modW_agenda (s : State) (f : Warp → Warp) : (s.modW f).agenda = s.agenda := rfl
@[simp] theorem modW_round (s : State) (f : Warp → Warp) : (s.modW f).round = s.round := rfl
@[simp] theorem modW_draws (s : State) (f : Warp → Warp) : (s.modW f).draws = s.draws := rfl
@[simp] theorem modW_serial (s : State) (f : Warp → Warp) : (s.modW f).serial = s.serial := rfl

@[simp] theorem modWarp_issue (s : State) (i : Nat) (f : Warp → Warp) : (s.modWarp i f).issue = s.issue := rfl
@[simp] theorem modWarp_groups (s : State) (i : Nat) (f : Warp → Warp) : (s.modWarp i f).groups = s.groups := rfl
@[simp] theorem modWarp_bolts (s : State) (i : Nat) (f : Warp → Warp) : (s.modWarp i f).bolts = s.bolts := rfl
@[simp] theorem modWarp_launches (s : State) (i : Nat) (f : Warp → Warp) : (s.modWarp i f).launches = s.launches := rfl
@[simp] theorem modWarp_ops (s : State) (i : Nat) (f : Warp → Warp) : (s.modWarp i f).ops = s.ops := rfl
@[simp] theorem modWarp_l1 (s : State) (i : Nat) (f : Warp → Warp) : (s.modWarp i f).l1 = s.l1 := rfl
@[simp] theorem modWarp_slices (s : State) (i : Nat) (f : Warp → Warp) : (s.modWarp i f).slices = s.slices := rfl
@[simp] theorem modWarp_held (s : State) (i : Nat) (f : Warp → Warp) : (s.modWarp i f).held = s.held := rfl
@[simp] theorem modWarp_tlb (s : State) (i : Nat) (f : Warp → Warp) : (s.modWarp i f).tlb = s.tlb := rfl
@[simp] theorem modWarp_sweeps (s : State) (i : Nat) (f : Warp → Warp) : (s.modWarp i f).sweeps = s.sweeps := rfl
@[simp] theorem modWarp_tlbinvs (s : State) (i : Nat) (f : Warp → Warp) : (s.modWarp i f).tlbinvs = s.tlbinvs := rfl
@[simp] theorem modWarp_looms (s : State) (i : Nat) (f : Warp → Warp) : (s.modWarp i f).looms = s.looms := rfl
@[simp] theorem modWarp_copies (s : State) (i : Nat) (f : Warp → Warp) : (s.modWarp i f).copies = s.copies := rfl
@[simp] theorem modWarp_mem (s : State) (i : Nat) (f : Warp → Warp) : (s.modWarp i f).mem = s.mem := rfl
@[simp] theorem modWarp_vault (s : State) (i : Nat) (f : Warp → Warp) : (s.modWarp i f).vault = s.vault := rfl
@[simp] theorem modWarp_flash (s : State) (i : Nat) (f : Warp → Warp) : (s.modWarp i f).flash = s.flash := rfl
@[simp] theorem modWarp_poison (s : State) (i : Nat) (f : Warp → Warp) : (s.modWarp i f).poison = s.poison := rfl
@[simp] theorem modWarp_regPoison (s : State) (i : Nat) (f : Warp → Warp) : (s.modWarp i f).regPoison = s.regPoison := rfl
@[simp] theorem modWarp_parts (s : State) (i : Nat) (f : Warp → Warp) : (s.modWarp i f).parts = s.parts := rfl
@[simp] theorem modWarp_plies (s : State) (i : Nat) (f : Warp → Warp) : (s.modWarp i f).plies = s.plies := rfl
@[simp] theorem modWarp_beams (s : State) (i : Nat) (f : Warp → Warp) : (s.modWarp i f).beams = s.beams := rfl
@[simp] theorem modWarp_ports (s : State) (i : Nat) (f : Warp → Warp) : (s.modWarp i f).ports = s.ports := rfl
@[simp] theorem modWarp_dev (s : State) (i : Nat) (f : Warp → Warp) : (s.modWarp i f).dev = s.dev := rfl
@[simp] theorem modWarp_clocks (s : State) (i : Nat) (f : Warp → Warp) : (s.modWarp i f).clocks = s.clocks := rfl
@[simp] theorem modWarp_lastPos (s : State) (i : Nat) (f : Warp → Warp) : (s.modWarp i f).lastPos = s.lastPos := rfl
@[simp] theorem modWarp_time (s : State) (i : Nat) (f : Warp → Warp) : (s.modWarp i f).time = s.time := rfl
@[simp] theorem modWarp_out (s : State) (i : Nat) (f : Warp → Warp) : (s.modWarp i f).out = s.out := rfl
@[simp] theorem modWarp_turn (s : State) (i : Nat) (f : Warp → Warp) : (s.modWarp i f).turn = s.turn := rfl
@[simp] theorem modWarp_agenda (s : State) (i : Nat) (f : Warp → Warp) : (s.modWarp i f).agenda = s.agenda := rfl
@[simp] theorem modWarp_round (s : State) (i : Nat) (f : Warp → Warp) : (s.modWarp i f).round = s.round := rfl
@[simp] theorem modWarp_draws (s : State) (i : Nat) (f : Warp → Warp) : (s.modWarp i f).draws = s.draws := rfl
@[simp] theorem modWarp_serial (s : State) (i : Nat) (f : Warp → Warp) : (s.modWarp i f).serial = s.serial := rfl

@[simp] theorem modWarps_issue (s : State) (f : Warp → Warp) : (s.modWarps f).issue = s.issue := rfl
@[simp] theorem modWarps_groups (s : State) (f : Warp → Warp) : (s.modWarps f).groups = s.groups := rfl
@[simp] theorem modWarps_bolts (s : State) (f : Warp → Warp) : (s.modWarps f).bolts = s.bolts := rfl
@[simp] theorem modWarps_launches (s : State) (f : Warp → Warp) : (s.modWarps f).launches = s.launches := rfl
@[simp] theorem modWarps_ops (s : State) (f : Warp → Warp) : (s.modWarps f).ops = s.ops := rfl
@[simp] theorem modWarps_l1 (s : State) (f : Warp → Warp) : (s.modWarps f).l1 = s.l1 := rfl
@[simp] theorem modWarps_slices (s : State) (f : Warp → Warp) : (s.modWarps f).slices = s.slices := rfl
@[simp] theorem modWarps_held (s : State) (f : Warp → Warp) : (s.modWarps f).held = s.held := rfl
@[simp] theorem modWarps_tlb (s : State) (f : Warp → Warp) : (s.modWarps f).tlb = s.tlb := rfl
@[simp] theorem modWarps_sweeps (s : State) (f : Warp → Warp) : (s.modWarps f).sweeps = s.sweeps := rfl
@[simp] theorem modWarps_tlbinvs (s : State) (f : Warp → Warp) : (s.modWarps f).tlbinvs = s.tlbinvs := rfl
@[simp] theorem modWarps_looms (s : State) (f : Warp → Warp) : (s.modWarps f).looms = s.looms := rfl
@[simp] theorem modWarps_copies (s : State) (f : Warp → Warp) : (s.modWarps f).copies = s.copies := rfl
@[simp] theorem modWarps_mem (s : State) (f : Warp → Warp) : (s.modWarps f).mem = s.mem := rfl
@[simp] theorem modWarps_vault (s : State) (f : Warp → Warp) : (s.modWarps f).vault = s.vault := rfl
@[simp] theorem modWarps_flash (s : State) (f : Warp → Warp) : (s.modWarps f).flash = s.flash := rfl
@[simp] theorem modWarps_poison (s : State) (f : Warp → Warp) : (s.modWarps f).poison = s.poison := rfl
@[simp] theorem modWarps_regPoison (s : State) (f : Warp → Warp) : (s.modWarps f).regPoison = s.regPoison := rfl
@[simp] theorem modWarps_parts (s : State) (f : Warp → Warp) : (s.modWarps f).parts = s.parts := rfl
@[simp] theorem modWarps_plies (s : State) (f : Warp → Warp) : (s.modWarps f).plies = s.plies := rfl
@[simp] theorem modWarps_beams (s : State) (f : Warp → Warp) : (s.modWarps f).beams = s.beams := rfl
@[simp] theorem modWarps_ports (s : State) (f : Warp → Warp) : (s.modWarps f).ports = s.ports := rfl
@[simp] theorem modWarps_dev (s : State) (f : Warp → Warp) : (s.modWarps f).dev = s.dev := rfl
@[simp] theorem modWarps_clocks (s : State) (f : Warp → Warp) : (s.modWarps f).clocks = s.clocks := rfl
@[simp] theorem modWarps_lastPos (s : State) (f : Warp → Warp) : (s.modWarps f).lastPos = s.lastPos := rfl
@[simp] theorem modWarps_time (s : State) (f : Warp → Warp) : (s.modWarps f).time = s.time := rfl
@[simp] theorem modWarps_out (s : State) (f : Warp → Warp) : (s.modWarps f).out = s.out := rfl
@[simp] theorem modWarps_turn (s : State) (f : Warp → Warp) : (s.modWarps f).turn = s.turn := rfl
@[simp] theorem modWarps_agenda (s : State) (f : Warp → Warp) : (s.modWarps f).agenda = s.agenda := rfl
@[simp] theorem modWarps_round (s : State) (f : Warp → Warp) : (s.modWarps f).round = s.round := rfl
@[simp] theorem modWarps_draws (s : State) (f : Warp → Warp) : (s.modWarps f).draws = s.draws := rfl
@[simp] theorem modWarps_serial (s : State) (f : Warp → Warp) : (s.modWarps f).serial = s.serial := rfl

@[simp] theorem modGroup_w (s : State) (i : Nat) (f : Group → Group) : (s.modGroup i f).w = s.w := rfl
@[simp] theorem modGroup_rest (s : State) (i : Nat) (f : Group → Group) : (s.modGroup i f).rest = s.rest := rfl
@[simp] theorem modGroup_issue (s : State) (i : Nat) (f : Group → Group) : (s.modGroup i f).issue = s.issue := rfl
@[simp] theorem modGroup_bolts (s : State) (i : Nat) (f : Group → Group) : (s.modGroup i f).bolts = s.bolts := rfl
@[simp] theorem modGroup_launches (s : State) (i : Nat) (f : Group → Group) : (s.modGroup i f).launches = s.launches := rfl
@[simp] theorem modGroup_ops (s : State) (i : Nat) (f : Group → Group) : (s.modGroup i f).ops = s.ops := rfl
@[simp] theorem modGroup_l1 (s : State) (i : Nat) (f : Group → Group) : (s.modGroup i f).l1 = s.l1 := rfl
@[simp] theorem modGroup_slices (s : State) (i : Nat) (f : Group → Group) : (s.modGroup i f).slices = s.slices := rfl
@[simp] theorem modGroup_held (s : State) (i : Nat) (f : Group → Group) : (s.modGroup i f).held = s.held := rfl
@[simp] theorem modGroup_tlb (s : State) (i : Nat) (f : Group → Group) : (s.modGroup i f).tlb = s.tlb := rfl
@[simp] theorem modGroup_sweeps (s : State) (i : Nat) (f : Group → Group) : (s.modGroup i f).sweeps = s.sweeps := rfl
@[simp] theorem modGroup_tlbinvs (s : State) (i : Nat) (f : Group → Group) : (s.modGroup i f).tlbinvs = s.tlbinvs := rfl
@[simp] theorem modGroup_looms (s : State) (i : Nat) (f : Group → Group) : (s.modGroup i f).looms = s.looms := rfl
@[simp] theorem modGroup_copies (s : State) (i : Nat) (f : Group → Group) : (s.modGroup i f).copies = s.copies := rfl
@[simp] theorem modGroup_mem (s : State) (i : Nat) (f : Group → Group) : (s.modGroup i f).mem = s.mem := rfl
@[simp] theorem modGroup_vault (s : State) (i : Nat) (f : Group → Group) : (s.modGroup i f).vault = s.vault := rfl
@[simp] theorem modGroup_flash (s : State) (i : Nat) (f : Group → Group) : (s.modGroup i f).flash = s.flash := rfl
@[simp] theorem modGroup_poison (s : State) (i : Nat) (f : Group → Group) : (s.modGroup i f).poison = s.poison := rfl
@[simp] theorem modGroup_regPoison (s : State) (i : Nat) (f : Group → Group) : (s.modGroup i f).regPoison = s.regPoison := rfl
@[simp] theorem modGroup_parts (s : State) (i : Nat) (f : Group → Group) : (s.modGroup i f).parts = s.parts := rfl
@[simp] theorem modGroup_plies (s : State) (i : Nat) (f : Group → Group) : (s.modGroup i f).plies = s.plies := rfl
@[simp] theorem modGroup_beams (s : State) (i : Nat) (f : Group → Group) : (s.modGroup i f).beams = s.beams := rfl
@[simp] theorem modGroup_ports (s : State) (i : Nat) (f : Group → Group) : (s.modGroup i f).ports = s.ports := rfl
@[simp] theorem modGroup_dev (s : State) (i : Nat) (f : Group → Group) : (s.modGroup i f).dev = s.dev := rfl
@[simp] theorem modGroup_clocks (s : State) (i : Nat) (f : Group → Group) : (s.modGroup i f).clocks = s.clocks := rfl
@[simp] theorem modGroup_lastPos (s : State) (i : Nat) (f : Group → Group) : (s.modGroup i f).lastPos = s.lastPos := rfl
@[simp] theorem modGroup_time (s : State) (i : Nat) (f : Group → Group) : (s.modGroup i f).time = s.time := rfl
@[simp] theorem modGroup_out (s : State) (i : Nat) (f : Group → Group) : (s.modGroup i f).out = s.out := rfl
@[simp] theorem modGroup_turn (s : State) (i : Nat) (f : Group → Group) : (s.modGroup i f).turn = s.turn := rfl
@[simp] theorem modGroup_agenda (s : State) (i : Nat) (f : Group → Group) : (s.modGroup i f).agenda = s.agenda := rfl
@[simp] theorem modGroup_round (s : State) (i : Nat) (f : Group → Group) : (s.modGroup i f).round = s.round := rfl
@[simp] theorem modGroup_draws (s : State) (i : Nat) (f : Group → Group) : (s.modGroup i f).draws = s.draws := rfl
@[simp] theorem modGroup_serial (s : State) (i : Nat) (f : Group → Group) : (s.modGroup i f).serial = s.serial := rfl

@[simp] theorem modBolt_w (s : State) (i : Nat) (f : Bolt → Bolt) : (s.modBolt i f).w = s.w := rfl
@[simp] theorem modBolt_rest (s : State) (i : Nat) (f : Bolt → Bolt) : (s.modBolt i f).rest = s.rest := rfl
@[simp] theorem modBolt_issue (s : State) (i : Nat) (f : Bolt → Bolt) : (s.modBolt i f).issue = s.issue := rfl
@[simp] theorem modBolt_groups (s : State) (i : Nat) (f : Bolt → Bolt) : (s.modBolt i f).groups = s.groups := rfl
@[simp] theorem modBolt_launches (s : State) (i : Nat) (f : Bolt → Bolt) : (s.modBolt i f).launches = s.launches := rfl
@[simp] theorem modBolt_ops (s : State) (i : Nat) (f : Bolt → Bolt) : (s.modBolt i f).ops = s.ops := rfl
@[simp] theorem modBolt_l1 (s : State) (i : Nat) (f : Bolt → Bolt) : (s.modBolt i f).l1 = s.l1 := rfl
@[simp] theorem modBolt_slices (s : State) (i : Nat) (f : Bolt → Bolt) : (s.modBolt i f).slices = s.slices := rfl
@[simp] theorem modBolt_held (s : State) (i : Nat) (f : Bolt → Bolt) : (s.modBolt i f).held = s.held := rfl
@[simp] theorem modBolt_tlb (s : State) (i : Nat) (f : Bolt → Bolt) : (s.modBolt i f).tlb = s.tlb := rfl
@[simp] theorem modBolt_sweeps (s : State) (i : Nat) (f : Bolt → Bolt) : (s.modBolt i f).sweeps = s.sweeps := rfl
@[simp] theorem modBolt_tlbinvs (s : State) (i : Nat) (f : Bolt → Bolt) : (s.modBolt i f).tlbinvs = s.tlbinvs := rfl
@[simp] theorem modBolt_looms (s : State) (i : Nat) (f : Bolt → Bolt) : (s.modBolt i f).looms = s.looms := rfl
@[simp] theorem modBolt_copies (s : State) (i : Nat) (f : Bolt → Bolt) : (s.modBolt i f).copies = s.copies := rfl
@[simp] theorem modBolt_mem (s : State) (i : Nat) (f : Bolt → Bolt) : (s.modBolt i f).mem = s.mem := rfl
@[simp] theorem modBolt_vault (s : State) (i : Nat) (f : Bolt → Bolt) : (s.modBolt i f).vault = s.vault := rfl
@[simp] theorem modBolt_flash (s : State) (i : Nat) (f : Bolt → Bolt) : (s.modBolt i f).flash = s.flash := rfl
@[simp] theorem modBolt_poison (s : State) (i : Nat) (f : Bolt → Bolt) : (s.modBolt i f).poison = s.poison := rfl
@[simp] theorem modBolt_regPoison (s : State) (i : Nat) (f : Bolt → Bolt) : (s.modBolt i f).regPoison = s.regPoison := rfl
@[simp] theorem modBolt_parts (s : State) (i : Nat) (f : Bolt → Bolt) : (s.modBolt i f).parts = s.parts := rfl
@[simp] theorem modBolt_plies (s : State) (i : Nat) (f : Bolt → Bolt) : (s.modBolt i f).plies = s.plies := rfl
@[simp] theorem modBolt_beams (s : State) (i : Nat) (f : Bolt → Bolt) : (s.modBolt i f).beams = s.beams := rfl
@[simp] theorem modBolt_ports (s : State) (i : Nat) (f : Bolt → Bolt) : (s.modBolt i f).ports = s.ports := rfl
@[simp] theorem modBolt_dev (s : State) (i : Nat) (f : Bolt → Bolt) : (s.modBolt i f).dev = s.dev := rfl
@[simp] theorem modBolt_clocks (s : State) (i : Nat) (f : Bolt → Bolt) : (s.modBolt i f).clocks = s.clocks := rfl
@[simp] theorem modBolt_lastPos (s : State) (i : Nat) (f : Bolt → Bolt) : (s.modBolt i f).lastPos = s.lastPos := rfl
@[simp] theorem modBolt_time (s : State) (i : Nat) (f : Bolt → Bolt) : (s.modBolt i f).time = s.time := rfl
@[simp] theorem modBolt_out (s : State) (i : Nat) (f : Bolt → Bolt) : (s.modBolt i f).out = s.out := rfl
@[simp] theorem modBolt_turn (s : State) (i : Nat) (f : Bolt → Bolt) : (s.modBolt i f).turn = s.turn := rfl
@[simp] theorem modBolt_agenda (s : State) (i : Nat) (f : Bolt → Bolt) : (s.modBolt i f).agenda = s.agenda := rfl
@[simp] theorem modBolt_round (s : State) (i : Nat) (f : Bolt → Bolt) : (s.modBolt i f).round = s.round := rfl
@[simp] theorem modBolt_draws (s : State) (i : Nat) (f : Bolt → Bolt) : (s.modBolt i f).draws = s.draws := rfl
@[simp] theorem modBolt_serial (s : State) (i : Nat) (f : Bolt → Bolt) : (s.modBolt i f).serial = s.serial := rfl

@[simp] theorem modLaunch_w (s : State) (i : Nat) (f : Launch → Launch) : (s.modLaunch i f).w = s.w := rfl
@[simp] theorem modLaunch_rest (s : State) (i : Nat) (f : Launch → Launch) : (s.modLaunch i f).rest = s.rest := rfl
@[simp] theorem modLaunch_issue (s : State) (i : Nat) (f : Launch → Launch) : (s.modLaunch i f).issue = s.issue := rfl
@[simp] theorem modLaunch_groups (s : State) (i : Nat) (f : Launch → Launch) : (s.modLaunch i f).groups = s.groups := rfl
@[simp] theorem modLaunch_bolts (s : State) (i : Nat) (f : Launch → Launch) : (s.modLaunch i f).bolts = s.bolts := rfl
@[simp] theorem modLaunch_ops (s : State) (i : Nat) (f : Launch → Launch) : (s.modLaunch i f).ops = s.ops := rfl
@[simp] theorem modLaunch_l1 (s : State) (i : Nat) (f : Launch → Launch) : (s.modLaunch i f).l1 = s.l1 := rfl
@[simp] theorem modLaunch_slices (s : State) (i : Nat) (f : Launch → Launch) : (s.modLaunch i f).slices = s.slices := rfl
@[simp] theorem modLaunch_held (s : State) (i : Nat) (f : Launch → Launch) : (s.modLaunch i f).held = s.held := rfl
@[simp] theorem modLaunch_tlb (s : State) (i : Nat) (f : Launch → Launch) : (s.modLaunch i f).tlb = s.tlb := rfl
@[simp] theorem modLaunch_sweeps (s : State) (i : Nat) (f : Launch → Launch) : (s.modLaunch i f).sweeps = s.sweeps := rfl
@[simp] theorem modLaunch_tlbinvs (s : State) (i : Nat) (f : Launch → Launch) : (s.modLaunch i f).tlbinvs = s.tlbinvs := rfl
@[simp] theorem modLaunch_looms (s : State) (i : Nat) (f : Launch → Launch) : (s.modLaunch i f).looms = s.looms := rfl
@[simp] theorem modLaunch_copies (s : State) (i : Nat) (f : Launch → Launch) : (s.modLaunch i f).copies = s.copies := rfl
@[simp] theorem modLaunch_mem (s : State) (i : Nat) (f : Launch → Launch) : (s.modLaunch i f).mem = s.mem := rfl
@[simp] theorem modLaunch_vault (s : State) (i : Nat) (f : Launch → Launch) : (s.modLaunch i f).vault = s.vault := rfl
@[simp] theorem modLaunch_flash (s : State) (i : Nat) (f : Launch → Launch) : (s.modLaunch i f).flash = s.flash := rfl
@[simp] theorem modLaunch_poison (s : State) (i : Nat) (f : Launch → Launch) : (s.modLaunch i f).poison = s.poison := rfl
@[simp] theorem modLaunch_regPoison (s : State) (i : Nat) (f : Launch → Launch) : (s.modLaunch i f).regPoison = s.regPoison := rfl
@[simp] theorem modLaunch_parts (s : State) (i : Nat) (f : Launch → Launch) : (s.modLaunch i f).parts = s.parts := rfl
@[simp] theorem modLaunch_plies (s : State) (i : Nat) (f : Launch → Launch) : (s.modLaunch i f).plies = s.plies := rfl
@[simp] theorem modLaunch_beams (s : State) (i : Nat) (f : Launch → Launch) : (s.modLaunch i f).beams = s.beams := rfl
@[simp] theorem modLaunch_ports (s : State) (i : Nat) (f : Launch → Launch) : (s.modLaunch i f).ports = s.ports := rfl
@[simp] theorem modLaunch_dev (s : State) (i : Nat) (f : Launch → Launch) : (s.modLaunch i f).dev = s.dev := rfl
@[simp] theorem modLaunch_clocks (s : State) (i : Nat) (f : Launch → Launch) : (s.modLaunch i f).clocks = s.clocks := rfl
@[simp] theorem modLaunch_lastPos (s : State) (i : Nat) (f : Launch → Launch) : (s.modLaunch i f).lastPos = s.lastPos := rfl
@[simp] theorem modLaunch_time (s : State) (i : Nat) (f : Launch → Launch) : (s.modLaunch i f).time = s.time := rfl
@[simp] theorem modLaunch_out (s : State) (i : Nat) (f : Launch → Launch) : (s.modLaunch i f).out = s.out := rfl
@[simp] theorem modLaunch_turn (s : State) (i : Nat) (f : Launch → Launch) : (s.modLaunch i f).turn = s.turn := rfl
@[simp] theorem modLaunch_agenda (s : State) (i : Nat) (f : Launch → Launch) : (s.modLaunch i f).agenda = s.agenda := rfl
@[simp] theorem modLaunch_round (s : State) (i : Nat) (f : Launch → Launch) : (s.modLaunch i f).round = s.round := rfl
@[simp] theorem modLaunch_draws (s : State) (i : Nat) (f : Launch → Launch) : (s.modLaunch i f).draws = s.draws := rfl
@[simp] theorem modLaunch_serial (s : State) (i : Nat) (f : Launch → Launch) : (s.modLaunch i f).serial = s.serial := rfl

@[simp] theorem modPart_w (s : State) (p : PartN) (f : PartRegs → PartRegs) : (s.modPart p f).w = s.w := rfl
@[simp] theorem modPart_rest (s : State) (p : PartN) (f : PartRegs → PartRegs) : (s.modPart p f).rest = s.rest := rfl
@[simp] theorem modPart_issue (s : State) (p : PartN) (f : PartRegs → PartRegs) : (s.modPart p f).issue = s.issue := rfl
@[simp] theorem modPart_groups (s : State) (p : PartN) (f : PartRegs → PartRegs) : (s.modPart p f).groups = s.groups := rfl
@[simp] theorem modPart_bolts (s : State) (p : PartN) (f : PartRegs → PartRegs) : (s.modPart p f).bolts = s.bolts := rfl
@[simp] theorem modPart_launches (s : State) (p : PartN) (f : PartRegs → PartRegs) : (s.modPart p f).launches = s.launches := rfl
@[simp] theorem modPart_ops (s : State) (p : PartN) (f : PartRegs → PartRegs) : (s.modPart p f).ops = s.ops := rfl
@[simp] theorem modPart_l1 (s : State) (p : PartN) (f : PartRegs → PartRegs) : (s.modPart p f).l1 = s.l1 := rfl
@[simp] theorem modPart_slices (s : State) (p : PartN) (f : PartRegs → PartRegs) : (s.modPart p f).slices = s.slices := rfl
@[simp] theorem modPart_held (s : State) (p : PartN) (f : PartRegs → PartRegs) : (s.modPart p f).held = s.held := rfl
@[simp] theorem modPart_tlb (s : State) (p : PartN) (f : PartRegs → PartRegs) : (s.modPart p f).tlb = s.tlb := rfl
@[simp] theorem modPart_sweeps (s : State) (p : PartN) (f : PartRegs → PartRegs) : (s.modPart p f).sweeps = s.sweeps := rfl
@[simp] theorem modPart_tlbinvs (s : State) (p : PartN) (f : PartRegs → PartRegs) : (s.modPart p f).tlbinvs = s.tlbinvs := rfl
@[simp] theorem modPart_looms (s : State) (p : PartN) (f : PartRegs → PartRegs) : (s.modPart p f).looms = s.looms := rfl
@[simp] theorem modPart_copies (s : State) (p : PartN) (f : PartRegs → PartRegs) : (s.modPart p f).copies = s.copies := rfl
@[simp] theorem modPart_mem (s : State) (p : PartN) (f : PartRegs → PartRegs) : (s.modPart p f).mem = s.mem := rfl
@[simp] theorem modPart_vault (s : State) (p : PartN) (f : PartRegs → PartRegs) : (s.modPart p f).vault = s.vault := rfl
@[simp] theorem modPart_flash (s : State) (p : PartN) (f : PartRegs → PartRegs) : (s.modPart p f).flash = s.flash := rfl
@[simp] theorem modPart_poison (s : State) (p : PartN) (f : PartRegs → PartRegs) : (s.modPart p f).poison = s.poison := rfl
@[simp] theorem modPart_regPoison (s : State) (p : PartN) (f : PartRegs → PartRegs) : (s.modPart p f).regPoison = s.regPoison := rfl
@[simp] theorem modPart_plies (s : State) (p : PartN) (f : PartRegs → PartRegs) : (s.modPart p f).plies = s.plies := rfl
@[simp] theorem modPart_beams (s : State) (p : PartN) (f : PartRegs → PartRegs) : (s.modPart p f).beams = s.beams := rfl
@[simp] theorem modPart_ports (s : State) (p : PartN) (f : PartRegs → PartRegs) : (s.modPart p f).ports = s.ports := rfl
@[simp] theorem modPart_dev (s : State) (p : PartN) (f : PartRegs → PartRegs) : (s.modPart p f).dev = s.dev := rfl
@[simp] theorem modPart_clocks (s : State) (p : PartN) (f : PartRegs → PartRegs) : (s.modPart p f).clocks = s.clocks := rfl
@[simp] theorem modPart_lastPos (s : State) (p : PartN) (f : PartRegs → PartRegs) : (s.modPart p f).lastPos = s.lastPos := rfl
@[simp] theorem modPart_time (s : State) (p : PartN) (f : PartRegs → PartRegs) : (s.modPart p f).time = s.time := rfl
@[simp] theorem modPart_out (s : State) (p : PartN) (f : PartRegs → PartRegs) : (s.modPart p f).out = s.out := rfl
@[simp] theorem modPart_turn (s : State) (p : PartN) (f : PartRegs → PartRegs) : (s.modPart p f).turn = s.turn := rfl
@[simp] theorem modPart_agenda (s : State) (p : PartN) (f : PartRegs → PartRegs) : (s.modPart p f).agenda = s.agenda := rfl
@[simp] theorem modPart_round (s : State) (p : PartN) (f : PartRegs → PartRegs) : (s.modPart p f).round = s.round := rfl
@[simp] theorem modPart_draws (s : State) (p : PartN) (f : PartRegs → PartRegs) : (s.modPart p f).draws = s.draws := rfl
@[simp] theorem modPart_serial (s : State) (p : PartN) (f : PartRegs → PartRegs) : (s.modPart p f).serial = s.serial := rfl

@[simp] theorem modPly_w (s : State) (d : Die) (f : Ply → Ply) : (s.modPly d f).w = s.w := rfl
@[simp] theorem modPly_rest (s : State) (d : Die) (f : Ply → Ply) : (s.modPly d f).rest = s.rest := rfl
@[simp] theorem modPly_issue (s : State) (d : Die) (f : Ply → Ply) : (s.modPly d f).issue = s.issue := rfl
@[simp] theorem modPly_groups (s : State) (d : Die) (f : Ply → Ply) : (s.modPly d f).groups = s.groups := rfl
@[simp] theorem modPly_bolts (s : State) (d : Die) (f : Ply → Ply) : (s.modPly d f).bolts = s.bolts := rfl
@[simp] theorem modPly_launches (s : State) (d : Die) (f : Ply → Ply) : (s.modPly d f).launches = s.launches := rfl
@[simp] theorem modPly_ops (s : State) (d : Die) (f : Ply → Ply) : (s.modPly d f).ops = s.ops := rfl
@[simp] theorem modPly_l1 (s : State) (d : Die) (f : Ply → Ply) : (s.modPly d f).l1 = s.l1 := rfl
@[simp] theorem modPly_slices (s : State) (d : Die) (f : Ply → Ply) : (s.modPly d f).slices = s.slices := rfl
@[simp] theorem modPly_held (s : State) (d : Die) (f : Ply → Ply) : (s.modPly d f).held = s.held := rfl
@[simp] theorem modPly_tlb (s : State) (d : Die) (f : Ply → Ply) : (s.modPly d f).tlb = s.tlb := rfl
@[simp] theorem modPly_sweeps (s : State) (d : Die) (f : Ply → Ply) : (s.modPly d f).sweeps = s.sweeps := rfl
@[simp] theorem modPly_tlbinvs (s : State) (d : Die) (f : Ply → Ply) : (s.modPly d f).tlbinvs = s.tlbinvs := rfl
@[simp] theorem modPly_looms (s : State) (d : Die) (f : Ply → Ply) : (s.modPly d f).looms = s.looms := rfl
@[simp] theorem modPly_copies (s : State) (d : Die) (f : Ply → Ply) : (s.modPly d f).copies = s.copies := rfl
@[simp] theorem modPly_mem (s : State) (d : Die) (f : Ply → Ply) : (s.modPly d f).mem = s.mem := rfl
@[simp] theorem modPly_vault (s : State) (d : Die) (f : Ply → Ply) : (s.modPly d f).vault = s.vault := rfl
@[simp] theorem modPly_flash (s : State) (d : Die) (f : Ply → Ply) : (s.modPly d f).flash = s.flash := rfl
@[simp] theorem modPly_poison (s : State) (d : Die) (f : Ply → Ply) : (s.modPly d f).poison = s.poison := rfl
@[simp] theorem modPly_regPoison (s : State) (d : Die) (f : Ply → Ply) : (s.modPly d f).regPoison = s.regPoison := rfl
@[simp] theorem modPly_parts (s : State) (d : Die) (f : Ply → Ply) : (s.modPly d f).parts = s.parts := rfl
@[simp] theorem modPly_beams (s : State) (d : Die) (f : Ply → Ply) : (s.modPly d f).beams = s.beams := rfl
@[simp] theorem modPly_ports (s : State) (d : Die) (f : Ply → Ply) : (s.modPly d f).ports = s.ports := rfl
@[simp] theorem modPly_dev (s : State) (d : Die) (f : Ply → Ply) : (s.modPly d f).dev = s.dev := rfl
@[simp] theorem modPly_clocks (s : State) (d : Die) (f : Ply → Ply) : (s.modPly d f).clocks = s.clocks := rfl
@[simp] theorem modPly_lastPos (s : State) (d : Die) (f : Ply → Ply) : (s.modPly d f).lastPos = s.lastPos := rfl
@[simp] theorem modPly_time (s : State) (d : Die) (f : Ply → Ply) : (s.modPly d f).time = s.time := rfl
@[simp] theorem modPly_out (s : State) (d : Die) (f : Ply → Ply) : (s.modPly d f).out = s.out := rfl
@[simp] theorem modPly_turn (s : State) (d : Die) (f : Ply → Ply) : (s.modPly d f).turn = s.turn := rfl
@[simp] theorem modPly_agenda (s : State) (d : Die) (f : Ply → Ply) : (s.modPly d f).agenda = s.agenda := rfl
@[simp] theorem modPly_round (s : State) (d : Die) (f : Ply → Ply) : (s.modPly d f).round = s.round := rfl
@[simp] theorem modPly_draws (s : State) (d : Die) (f : Ply → Ply) : (s.modPly d f).draws = s.draws := rfl
@[simp] theorem modPly_serial (s : State) (d : Die) (f : Ply → Ply) : (s.modPly d f).serial = s.serial := rfl

@[simp] theorem modBeam_w (s : State) (b : Beam) (f : BeamRegs → BeamRegs) : (s.modBeam b f).w = s.w := rfl
@[simp] theorem modBeam_rest (s : State) (b : Beam) (f : BeamRegs → BeamRegs) : (s.modBeam b f).rest = s.rest := rfl
@[simp] theorem modBeam_issue (s : State) (b : Beam) (f : BeamRegs → BeamRegs) : (s.modBeam b f).issue = s.issue := rfl
@[simp] theorem modBeam_groups (s : State) (b : Beam) (f : BeamRegs → BeamRegs) : (s.modBeam b f).groups = s.groups := rfl
@[simp] theorem modBeam_bolts (s : State) (b : Beam) (f : BeamRegs → BeamRegs) : (s.modBeam b f).bolts = s.bolts := rfl
@[simp] theorem modBeam_launches (s : State) (b : Beam) (f : BeamRegs → BeamRegs) : (s.modBeam b f).launches = s.launches := rfl
@[simp] theorem modBeam_ops (s : State) (b : Beam) (f : BeamRegs → BeamRegs) : (s.modBeam b f).ops = s.ops := rfl
@[simp] theorem modBeam_l1 (s : State) (b : Beam) (f : BeamRegs → BeamRegs) : (s.modBeam b f).l1 = s.l1 := rfl
@[simp] theorem modBeam_slices (s : State) (b : Beam) (f : BeamRegs → BeamRegs) : (s.modBeam b f).slices = s.slices := rfl
@[simp] theorem modBeam_held (s : State) (b : Beam) (f : BeamRegs → BeamRegs) : (s.modBeam b f).held = s.held := rfl
@[simp] theorem modBeam_tlb (s : State) (b : Beam) (f : BeamRegs → BeamRegs) : (s.modBeam b f).tlb = s.tlb := rfl
@[simp] theorem modBeam_sweeps (s : State) (b : Beam) (f : BeamRegs → BeamRegs) : (s.modBeam b f).sweeps = s.sweeps := rfl
@[simp] theorem modBeam_tlbinvs (s : State) (b : Beam) (f : BeamRegs → BeamRegs) : (s.modBeam b f).tlbinvs = s.tlbinvs := rfl
@[simp] theorem modBeam_looms (s : State) (b : Beam) (f : BeamRegs → BeamRegs) : (s.modBeam b f).looms = s.looms := rfl
@[simp] theorem modBeam_copies (s : State) (b : Beam) (f : BeamRegs → BeamRegs) : (s.modBeam b f).copies = s.copies := rfl
@[simp] theorem modBeam_mem (s : State) (b : Beam) (f : BeamRegs → BeamRegs) : (s.modBeam b f).mem = s.mem := rfl
@[simp] theorem modBeam_vault (s : State) (b : Beam) (f : BeamRegs → BeamRegs) : (s.modBeam b f).vault = s.vault := rfl
@[simp] theorem modBeam_flash (s : State) (b : Beam) (f : BeamRegs → BeamRegs) : (s.modBeam b f).flash = s.flash := rfl
@[simp] theorem modBeam_poison (s : State) (b : Beam) (f : BeamRegs → BeamRegs) : (s.modBeam b f).poison = s.poison := rfl
@[simp] theorem modBeam_regPoison (s : State) (b : Beam) (f : BeamRegs → BeamRegs) : (s.modBeam b f).regPoison = s.regPoison := rfl
@[simp] theorem modBeam_parts (s : State) (b : Beam) (f : BeamRegs → BeamRegs) : (s.modBeam b f).parts = s.parts := rfl
@[simp] theorem modBeam_plies (s : State) (b : Beam) (f : BeamRegs → BeamRegs) : (s.modBeam b f).plies = s.plies := rfl
@[simp] theorem modBeam_ports (s : State) (b : Beam) (f : BeamRegs → BeamRegs) : (s.modBeam b f).ports = s.ports := rfl
@[simp] theorem modBeam_dev (s : State) (b : Beam) (f : BeamRegs → BeamRegs) : (s.modBeam b f).dev = s.dev := rfl
@[simp] theorem modBeam_clocks (s : State) (b : Beam) (f : BeamRegs → BeamRegs) : (s.modBeam b f).clocks = s.clocks := rfl
@[simp] theorem modBeam_lastPos (s : State) (b : Beam) (f : BeamRegs → BeamRegs) : (s.modBeam b f).lastPos = s.lastPos := rfl
@[simp] theorem modBeam_time (s : State) (b : Beam) (f : BeamRegs → BeamRegs) : (s.modBeam b f).time = s.time := rfl
@[simp] theorem modBeam_out (s : State) (b : Beam) (f : BeamRegs → BeamRegs) : (s.modBeam b f).out = s.out := rfl
@[simp] theorem modBeam_turn (s : State) (b : Beam) (f : BeamRegs → BeamRegs) : (s.modBeam b f).turn = s.turn := rfl
@[simp] theorem modBeam_agenda (s : State) (b : Beam) (f : BeamRegs → BeamRegs) : (s.modBeam b f).agenda = s.agenda := rfl
@[simp] theorem modBeam_round (s : State) (b : Beam) (f : BeamRegs → BeamRegs) : (s.modBeam b f).round = s.round := rfl
@[simp] theorem modBeam_draws (s : State) (b : Beam) (f : BeamRegs → BeamRegs) : (s.modBeam b f).draws = s.draws := rfl
@[simp] theorem modBeam_serial (s : State) (b : Beam) (f : BeamRegs → BeamRegs) : (s.modBeam b f).serial = s.serial := rfl

@[simp] theorem modReed_w (s : State) (b : Beam) (f : Reed → Reed) : (s.modReed b f).w = s.w := rfl
@[simp] theorem modReed_rest (s : State) (b : Beam) (f : Reed → Reed) : (s.modReed b f).rest = s.rest := rfl
@[simp] theorem modReed_issue (s : State) (b : Beam) (f : Reed → Reed) : (s.modReed b f).issue = s.issue := rfl
@[simp] theorem modReed_groups (s : State) (b : Beam) (f : Reed → Reed) : (s.modReed b f).groups = s.groups := rfl
@[simp] theorem modReed_bolts (s : State) (b : Beam) (f : Reed → Reed) : (s.modReed b f).bolts = s.bolts := rfl
@[simp] theorem modReed_launches (s : State) (b : Beam) (f : Reed → Reed) : (s.modReed b f).launches = s.launches := rfl
@[simp] theorem modReed_ops (s : State) (b : Beam) (f : Reed → Reed) : (s.modReed b f).ops = s.ops := rfl
@[simp] theorem modReed_l1 (s : State) (b : Beam) (f : Reed → Reed) : (s.modReed b f).l1 = s.l1 := rfl
@[simp] theorem modReed_slices (s : State) (b : Beam) (f : Reed → Reed) : (s.modReed b f).slices = s.slices := rfl
@[simp] theorem modReed_held (s : State) (b : Beam) (f : Reed → Reed) : (s.modReed b f).held = s.held := rfl
@[simp] theorem modReed_tlb (s : State) (b : Beam) (f : Reed → Reed) : (s.modReed b f).tlb = s.tlb := rfl
@[simp] theorem modReed_sweeps (s : State) (b : Beam) (f : Reed → Reed) : (s.modReed b f).sweeps = s.sweeps := rfl
@[simp] theorem modReed_tlbinvs (s : State) (b : Beam) (f : Reed → Reed) : (s.modReed b f).tlbinvs = s.tlbinvs := rfl
@[simp] theorem modReed_looms (s : State) (b : Beam) (f : Reed → Reed) : (s.modReed b f).looms = s.looms := rfl
@[simp] theorem modReed_copies (s : State) (b : Beam) (f : Reed → Reed) : (s.modReed b f).copies = s.copies := rfl
@[simp] theorem modReed_mem (s : State) (b : Beam) (f : Reed → Reed) : (s.modReed b f).mem = s.mem := rfl
@[simp] theorem modReed_vault (s : State) (b : Beam) (f : Reed → Reed) : (s.modReed b f).vault = s.vault := rfl
@[simp] theorem modReed_flash (s : State) (b : Beam) (f : Reed → Reed) : (s.modReed b f).flash = s.flash := rfl
@[simp] theorem modReed_poison (s : State) (b : Beam) (f : Reed → Reed) : (s.modReed b f).poison = s.poison := rfl
@[simp] theorem modReed_regPoison (s : State) (b : Beam) (f : Reed → Reed) : (s.modReed b f).regPoison = s.regPoison := rfl
@[simp] theorem modReed_parts (s : State) (b : Beam) (f : Reed → Reed) : (s.modReed b f).parts = s.parts := rfl
@[simp] theorem modReed_plies (s : State) (b : Beam) (f : Reed → Reed) : (s.modReed b f).plies = s.plies := rfl
@[simp] theorem modReed_ports (s : State) (b : Beam) (f : Reed → Reed) : (s.modReed b f).ports = s.ports := rfl
@[simp] theorem modReed_dev (s : State) (b : Beam) (f : Reed → Reed) : (s.modReed b f).dev = s.dev := rfl
@[simp] theorem modReed_clocks (s : State) (b : Beam) (f : Reed → Reed) : (s.modReed b f).clocks = s.clocks := rfl
@[simp] theorem modReed_lastPos (s : State) (b : Beam) (f : Reed → Reed) : (s.modReed b f).lastPos = s.lastPos := rfl
@[simp] theorem modReed_time (s : State) (b : Beam) (f : Reed → Reed) : (s.modReed b f).time = s.time := rfl
@[simp] theorem modReed_out (s : State) (b : Beam) (f : Reed → Reed) : (s.modReed b f).out = s.out := rfl
@[simp] theorem modReed_turn (s : State) (b : Beam) (f : Reed → Reed) : (s.modReed b f).turn = s.turn := rfl
@[simp] theorem modReed_agenda (s : State) (b : Beam) (f : Reed → Reed) : (s.modReed b f).agenda = s.agenda := rfl
@[simp] theorem modReed_round (s : State) (b : Beam) (f : Reed → Reed) : (s.modReed b f).round = s.round := rfl
@[simp] theorem modReed_draws (s : State) (b : Beam) (f : Reed → Reed) : (s.modReed b f).draws = s.draws := rfl
@[simp] theorem modReed_serial (s : State) (b : Beam) (f : Reed → Reed) : (s.modReed b f).serial = s.serial := rfl

@[simp] theorem modLinks_w (s : State) (b : Beam) (f : Links → Links) : (s.modLinks b f).w = s.w := rfl
@[simp] theorem modLinks_rest (s : State) (b : Beam) (f : Links → Links) : (s.modLinks b f).rest = s.rest := rfl
@[simp] theorem modLinks_issue (s : State) (b : Beam) (f : Links → Links) : (s.modLinks b f).issue = s.issue := rfl
@[simp] theorem modLinks_groups (s : State) (b : Beam) (f : Links → Links) : (s.modLinks b f).groups = s.groups := rfl
@[simp] theorem modLinks_bolts (s : State) (b : Beam) (f : Links → Links) : (s.modLinks b f).bolts = s.bolts := rfl
@[simp] theorem modLinks_launches (s : State) (b : Beam) (f : Links → Links) : (s.modLinks b f).launches = s.launches := rfl
@[simp] theorem modLinks_ops (s : State) (b : Beam) (f : Links → Links) : (s.modLinks b f).ops = s.ops := rfl
@[simp] theorem modLinks_l1 (s : State) (b : Beam) (f : Links → Links) : (s.modLinks b f).l1 = s.l1 := rfl
@[simp] theorem modLinks_slices (s : State) (b : Beam) (f : Links → Links) : (s.modLinks b f).slices = s.slices := rfl
@[simp] theorem modLinks_held (s : State) (b : Beam) (f : Links → Links) : (s.modLinks b f).held = s.held := rfl
@[simp] theorem modLinks_tlb (s : State) (b : Beam) (f : Links → Links) : (s.modLinks b f).tlb = s.tlb := rfl
@[simp] theorem modLinks_sweeps (s : State) (b : Beam) (f : Links → Links) : (s.modLinks b f).sweeps = s.sweeps := rfl
@[simp] theorem modLinks_tlbinvs (s : State) (b : Beam) (f : Links → Links) : (s.modLinks b f).tlbinvs = s.tlbinvs := rfl
@[simp] theorem modLinks_looms (s : State) (b : Beam) (f : Links → Links) : (s.modLinks b f).looms = s.looms := rfl
@[simp] theorem modLinks_copies (s : State) (b : Beam) (f : Links → Links) : (s.modLinks b f).copies = s.copies := rfl
@[simp] theorem modLinks_mem (s : State) (b : Beam) (f : Links → Links) : (s.modLinks b f).mem = s.mem := rfl
@[simp] theorem modLinks_vault (s : State) (b : Beam) (f : Links → Links) : (s.modLinks b f).vault = s.vault := rfl
@[simp] theorem modLinks_flash (s : State) (b : Beam) (f : Links → Links) : (s.modLinks b f).flash = s.flash := rfl
@[simp] theorem modLinks_poison (s : State) (b : Beam) (f : Links → Links) : (s.modLinks b f).poison = s.poison := rfl
@[simp] theorem modLinks_regPoison (s : State) (b : Beam) (f : Links → Links) : (s.modLinks b f).regPoison = s.regPoison := rfl
@[simp] theorem modLinks_parts (s : State) (b : Beam) (f : Links → Links) : (s.modLinks b f).parts = s.parts := rfl
@[simp] theorem modLinks_plies (s : State) (b : Beam) (f : Links → Links) : (s.modLinks b f).plies = s.plies := rfl
@[simp] theorem modLinks_ports (s : State) (b : Beam) (f : Links → Links) : (s.modLinks b f).ports = s.ports := rfl
@[simp] theorem modLinks_dev (s : State) (b : Beam) (f : Links → Links) : (s.modLinks b f).dev = s.dev := rfl
@[simp] theorem modLinks_clocks (s : State) (b : Beam) (f : Links → Links) : (s.modLinks b f).clocks = s.clocks := rfl
@[simp] theorem modLinks_lastPos (s : State) (b : Beam) (f : Links → Links) : (s.modLinks b f).lastPos = s.lastPos := rfl
@[simp] theorem modLinks_time (s : State) (b : Beam) (f : Links → Links) : (s.modLinks b f).time = s.time := rfl
@[simp] theorem modLinks_out (s : State) (b : Beam) (f : Links → Links) : (s.modLinks b f).out = s.out := rfl
@[simp] theorem modLinks_turn (s : State) (b : Beam) (f : Links → Links) : (s.modLinks b f).turn = s.turn := rfl
@[simp] theorem modLinks_agenda (s : State) (b : Beam) (f : Links → Links) : (s.modLinks b f).agenda = s.agenda := rfl
@[simp] theorem modLinks_round (s : State) (b : Beam) (f : Links → Links) : (s.modLinks b f).round = s.round := rfl
@[simp] theorem modLinks_draws (s : State) (b : Beam) (f : Links → Links) : (s.modLinks b f).draws = s.draws := rfl
@[simp] theorem modLinks_serial (s : State) (b : Beam) (f : Links → Links) : (s.modLinks b f).serial = s.serial := rfl

@[simp] theorem modCtx_w (s : State) (b : Beam) (c : CtxN) (f : Context → Context) : (s.modCtx b c f).w = s.w := rfl
@[simp] theorem modCtx_rest (s : State) (b : Beam) (c : CtxN) (f : Context → Context) : (s.modCtx b c f).rest = s.rest := rfl
@[simp] theorem modCtx_issue (s : State) (b : Beam) (c : CtxN) (f : Context → Context) : (s.modCtx b c f).issue = s.issue := rfl
@[simp] theorem modCtx_groups (s : State) (b : Beam) (c : CtxN) (f : Context → Context) : (s.modCtx b c f).groups = s.groups := rfl
@[simp] theorem modCtx_bolts (s : State) (b : Beam) (c : CtxN) (f : Context → Context) : (s.modCtx b c f).bolts = s.bolts := rfl
@[simp] theorem modCtx_launches (s : State) (b : Beam) (c : CtxN) (f : Context → Context) : (s.modCtx b c f).launches = s.launches := rfl
@[simp] theorem modCtx_ops (s : State) (b : Beam) (c : CtxN) (f : Context → Context) : (s.modCtx b c f).ops = s.ops := rfl
@[simp] theorem modCtx_l1 (s : State) (b : Beam) (c : CtxN) (f : Context → Context) : (s.modCtx b c f).l1 = s.l1 := rfl
@[simp] theorem modCtx_slices (s : State) (b : Beam) (c : CtxN) (f : Context → Context) : (s.modCtx b c f).slices = s.slices := rfl
@[simp] theorem modCtx_held (s : State) (b : Beam) (c : CtxN) (f : Context → Context) : (s.modCtx b c f).held = s.held := rfl
@[simp] theorem modCtx_tlb (s : State) (b : Beam) (c : CtxN) (f : Context → Context) : (s.modCtx b c f).tlb = s.tlb := rfl
@[simp] theorem modCtx_sweeps (s : State) (b : Beam) (c : CtxN) (f : Context → Context) : (s.modCtx b c f).sweeps = s.sweeps := rfl
@[simp] theorem modCtx_tlbinvs (s : State) (b : Beam) (c : CtxN) (f : Context → Context) : (s.modCtx b c f).tlbinvs = s.tlbinvs := rfl
@[simp] theorem modCtx_looms (s : State) (b : Beam) (c : CtxN) (f : Context → Context) : (s.modCtx b c f).looms = s.looms := rfl
@[simp] theorem modCtx_copies (s : State) (b : Beam) (c : CtxN) (f : Context → Context) : (s.modCtx b c f).copies = s.copies := rfl
@[simp] theorem modCtx_mem (s : State) (b : Beam) (c : CtxN) (f : Context → Context) : (s.modCtx b c f).mem = s.mem := rfl
@[simp] theorem modCtx_vault (s : State) (b : Beam) (c : CtxN) (f : Context → Context) : (s.modCtx b c f).vault = s.vault := rfl
@[simp] theorem modCtx_flash (s : State) (b : Beam) (c : CtxN) (f : Context → Context) : (s.modCtx b c f).flash = s.flash := rfl
@[simp] theorem modCtx_poison (s : State) (b : Beam) (c : CtxN) (f : Context → Context) : (s.modCtx b c f).poison = s.poison := rfl
@[simp] theorem modCtx_regPoison (s : State) (b : Beam) (c : CtxN) (f : Context → Context) : (s.modCtx b c f).regPoison = s.regPoison := rfl
@[simp] theorem modCtx_parts (s : State) (b : Beam) (c : CtxN) (f : Context → Context) : (s.modCtx b c f).parts = s.parts := rfl
@[simp] theorem modCtx_plies (s : State) (b : Beam) (c : CtxN) (f : Context → Context) : (s.modCtx b c f).plies = s.plies := rfl
@[simp] theorem modCtx_ports (s : State) (b : Beam) (c : CtxN) (f : Context → Context) : (s.modCtx b c f).ports = s.ports := rfl
@[simp] theorem modCtx_dev (s : State) (b : Beam) (c : CtxN) (f : Context → Context) : (s.modCtx b c f).dev = s.dev := rfl
@[simp] theorem modCtx_clocks (s : State) (b : Beam) (c : CtxN) (f : Context → Context) : (s.modCtx b c f).clocks = s.clocks := rfl
@[simp] theorem modCtx_lastPos (s : State) (b : Beam) (c : CtxN) (f : Context → Context) : (s.modCtx b c f).lastPos = s.lastPos := rfl
@[simp] theorem modCtx_time (s : State) (b : Beam) (c : CtxN) (f : Context → Context) : (s.modCtx b c f).time = s.time := rfl
@[simp] theorem modCtx_out (s : State) (b : Beam) (c : CtxN) (f : Context → Context) : (s.modCtx b c f).out = s.out := rfl
@[simp] theorem modCtx_turn (s : State) (b : Beam) (c : CtxN) (f : Context → Context) : (s.modCtx b c f).turn = s.turn := rfl
@[simp] theorem modCtx_agenda (s : State) (b : Beam) (c : CtxN) (f : Context → Context) : (s.modCtx b c f).agenda = s.agenda := rfl
@[simp] theorem modCtx_round (s : State) (b : Beam) (c : CtxN) (f : Context → Context) : (s.modCtx b c f).round = s.round := rfl
@[simp] theorem modCtx_draws (s : State) (b : Beam) (c : CtxN) (f : Context → Context) : (s.modCtx b c f).draws = s.draws := rfl
@[simp] theorem modCtx_serial (s : State) (b : Beam) (c : CtxN) (f : Context → Context) : (s.modCtx b c f).serial = s.serial := rfl

@[simp] theorem modPort_w (s : State) (q : Port) (f : PortRegs → PortRegs) : (s.modPort q f).w = s.w := rfl
@[simp] theorem modPort_rest (s : State) (q : Port) (f : PortRegs → PortRegs) : (s.modPort q f).rest = s.rest := rfl
@[simp] theorem modPort_issue (s : State) (q : Port) (f : PortRegs → PortRegs) : (s.modPort q f).issue = s.issue := rfl
@[simp] theorem modPort_groups (s : State) (q : Port) (f : PortRegs → PortRegs) : (s.modPort q f).groups = s.groups := rfl
@[simp] theorem modPort_bolts (s : State) (q : Port) (f : PortRegs → PortRegs) : (s.modPort q f).bolts = s.bolts := rfl
@[simp] theorem modPort_launches (s : State) (q : Port) (f : PortRegs → PortRegs) : (s.modPort q f).launches = s.launches := rfl
@[simp] theorem modPort_ops (s : State) (q : Port) (f : PortRegs → PortRegs) : (s.modPort q f).ops = s.ops := rfl
@[simp] theorem modPort_l1 (s : State) (q : Port) (f : PortRegs → PortRegs) : (s.modPort q f).l1 = s.l1 := rfl
@[simp] theorem modPort_slices (s : State) (q : Port) (f : PortRegs → PortRegs) : (s.modPort q f).slices = s.slices := rfl
@[simp] theorem modPort_held (s : State) (q : Port) (f : PortRegs → PortRegs) : (s.modPort q f).held = s.held := rfl
@[simp] theorem modPort_tlb (s : State) (q : Port) (f : PortRegs → PortRegs) : (s.modPort q f).tlb = s.tlb := rfl
@[simp] theorem modPort_sweeps (s : State) (q : Port) (f : PortRegs → PortRegs) : (s.modPort q f).sweeps = s.sweeps := rfl
@[simp] theorem modPort_tlbinvs (s : State) (q : Port) (f : PortRegs → PortRegs) : (s.modPort q f).tlbinvs = s.tlbinvs := rfl
@[simp] theorem modPort_looms (s : State) (q : Port) (f : PortRegs → PortRegs) : (s.modPort q f).looms = s.looms := rfl
@[simp] theorem modPort_copies (s : State) (q : Port) (f : PortRegs → PortRegs) : (s.modPort q f).copies = s.copies := rfl
@[simp] theorem modPort_mem (s : State) (q : Port) (f : PortRegs → PortRegs) : (s.modPort q f).mem = s.mem := rfl
@[simp] theorem modPort_vault (s : State) (q : Port) (f : PortRegs → PortRegs) : (s.modPort q f).vault = s.vault := rfl
@[simp] theorem modPort_flash (s : State) (q : Port) (f : PortRegs → PortRegs) : (s.modPort q f).flash = s.flash := rfl
@[simp] theorem modPort_poison (s : State) (q : Port) (f : PortRegs → PortRegs) : (s.modPort q f).poison = s.poison := rfl
@[simp] theorem modPort_regPoison (s : State) (q : Port) (f : PortRegs → PortRegs) : (s.modPort q f).regPoison = s.regPoison := rfl
@[simp] theorem modPort_parts (s : State) (q : Port) (f : PortRegs → PortRegs) : (s.modPort q f).parts = s.parts := rfl
@[simp] theorem modPort_plies (s : State) (q : Port) (f : PortRegs → PortRegs) : (s.modPort q f).plies = s.plies := rfl
@[simp] theorem modPort_beams (s : State) (q : Port) (f : PortRegs → PortRegs) : (s.modPort q f).beams = s.beams := rfl
@[simp] theorem modPort_dev (s : State) (q : Port) (f : PortRegs → PortRegs) : (s.modPort q f).dev = s.dev := rfl
@[simp] theorem modPort_clocks (s : State) (q : Port) (f : PortRegs → PortRegs) : (s.modPort q f).clocks = s.clocks := rfl
@[simp] theorem modPort_lastPos (s : State) (q : Port) (f : PortRegs → PortRegs) : (s.modPort q f).lastPos = s.lastPos := rfl
@[simp] theorem modPort_time (s : State) (q : Port) (f : PortRegs → PortRegs) : (s.modPort q f).time = s.time := rfl
@[simp] theorem modPort_out (s : State) (q : Port) (f : PortRegs → PortRegs) : (s.modPort q f).out = s.out := rfl
@[simp] theorem modPort_turn (s : State) (q : Port) (f : PortRegs → PortRegs) : (s.modPort q f).turn = s.turn := rfl
@[simp] theorem modPort_agenda (s : State) (q : Port) (f : PortRegs → PortRegs) : (s.modPort q f).agenda = s.agenda := rfl
@[simp] theorem modPort_round (s : State) (q : Port) (f : PortRegs → PortRegs) : (s.modPort q f).round = s.round := rfl
@[simp] theorem modPort_draws (s : State) (q : Port) (f : PortRegs → PortRegs) : (s.modPort q f).draws = s.draws := rfl
@[simp] theorem modPort_serial (s : State) (q : Port) (f : PortRegs → PortRegs) : (s.modPort q f).serial = s.serial := rfl

@[simp] theorem emit_w (s : State) (o : Output) : (s.emit o).w = s.w := rfl
@[simp] theorem emit_rest (s : State) (o : Output) : (s.emit o).rest = s.rest := rfl
@[simp] theorem emit_issue (s : State) (o : Output) : (s.emit o).issue = s.issue := rfl
@[simp] theorem emit_groups (s : State) (o : Output) : (s.emit o).groups = s.groups := rfl
@[simp] theorem emit_bolts (s : State) (o : Output) : (s.emit o).bolts = s.bolts := rfl
@[simp] theorem emit_launches (s : State) (o : Output) : (s.emit o).launches = s.launches := rfl
@[simp] theorem emit_ops (s : State) (o : Output) : (s.emit o).ops = s.ops := rfl
@[simp] theorem emit_l1 (s : State) (o : Output) : (s.emit o).l1 = s.l1 := rfl
@[simp] theorem emit_slices (s : State) (o : Output) : (s.emit o).slices = s.slices := rfl
@[simp] theorem emit_held (s : State) (o : Output) : (s.emit o).held = s.held := rfl
@[simp] theorem emit_tlb (s : State) (o : Output) : (s.emit o).tlb = s.tlb := rfl
@[simp] theorem emit_sweeps (s : State) (o : Output) : (s.emit o).sweeps = s.sweeps := rfl
@[simp] theorem emit_tlbinvs (s : State) (o : Output) : (s.emit o).tlbinvs = s.tlbinvs := rfl
@[simp] theorem emit_looms (s : State) (o : Output) : (s.emit o).looms = s.looms := rfl
@[simp] theorem emit_copies (s : State) (o : Output) : (s.emit o).copies = s.copies := rfl
@[simp] theorem emit_mem (s : State) (o : Output) : (s.emit o).mem = s.mem := rfl
@[simp] theorem emit_vault (s : State) (o : Output) : (s.emit o).vault = s.vault := rfl
@[simp] theorem emit_flash (s : State) (o : Output) : (s.emit o).flash = s.flash := rfl
@[simp] theorem emit_poison (s : State) (o : Output) : (s.emit o).poison = s.poison := rfl
@[simp] theorem emit_regPoison (s : State) (o : Output) : (s.emit o).regPoison = s.regPoison := rfl
@[simp] theorem emit_parts (s : State) (o : Output) : (s.emit o).parts = s.parts := rfl
@[simp] theorem emit_plies (s : State) (o : Output) : (s.emit o).plies = s.plies := rfl
@[simp] theorem emit_beams (s : State) (o : Output) : (s.emit o).beams = s.beams := rfl
@[simp] theorem emit_ports (s : State) (o : Output) : (s.emit o).ports = s.ports := rfl
@[simp] theorem emit_dev (s : State) (o : Output) : (s.emit o).dev = s.dev := rfl
@[simp] theorem emit_clocks (s : State) (o : Output) : (s.emit o).clocks = s.clocks := rfl
@[simp] theorem emit_lastPos (s : State) (o : Output) : (s.emit o).lastPos = s.lastPos := rfl
@[simp] theorem emit_time (s : State) (o : Output) : (s.emit o).time = s.time := rfl
@[simp] theorem emit_turn (s : State) (o : Output) : (s.emit o).turn = s.turn := rfl
@[simp] theorem emit_agenda (s : State) (o : Output) : (s.emit o).agenda = s.agenda := rfl
@[simp] theorem emit_round (s : State) (o : Output) : (s.emit o).round = s.round := rfl
@[simp] theorem emit_draws (s : State) (o : Output) : (s.emit o).draws = s.draws := rfl
@[simp] theorem emit_serial (s : State) (o : Output) : (s.emit o).serial = s.serial := rfl

@[simp] theorem fresh_w (s : State) : s.fresh.2.w = s.w := rfl
@[simp] theorem fresh_rest (s : State) : s.fresh.2.rest = s.rest := rfl
@[simp] theorem fresh_issue (s : State) : s.fresh.2.issue = s.issue := rfl
@[simp] theorem fresh_groups (s : State) : s.fresh.2.groups = s.groups := rfl
@[simp] theorem fresh_bolts (s : State) : s.fresh.2.bolts = s.bolts := rfl
@[simp] theorem fresh_launches (s : State) : s.fresh.2.launches = s.launches := rfl
@[simp] theorem fresh_ops (s : State) : s.fresh.2.ops = s.ops := rfl
@[simp] theorem fresh_l1 (s : State) : s.fresh.2.l1 = s.l1 := rfl
@[simp] theorem fresh_slices (s : State) : s.fresh.2.slices = s.slices := rfl
@[simp] theorem fresh_held (s : State) : s.fresh.2.held = s.held := rfl
@[simp] theorem fresh_tlb (s : State) : s.fresh.2.tlb = s.tlb := rfl
@[simp] theorem fresh_sweeps (s : State) : s.fresh.2.sweeps = s.sweeps := rfl
@[simp] theorem fresh_tlbinvs (s : State) : s.fresh.2.tlbinvs = s.tlbinvs := rfl
@[simp] theorem fresh_looms (s : State) : s.fresh.2.looms = s.looms := rfl
@[simp] theorem fresh_copies (s : State) : s.fresh.2.copies = s.copies := rfl
@[simp] theorem fresh_mem (s : State) : s.fresh.2.mem = s.mem := rfl
@[simp] theorem fresh_vault (s : State) : s.fresh.2.vault = s.vault := rfl
@[simp] theorem fresh_flash (s : State) : s.fresh.2.flash = s.flash := rfl
@[simp] theorem fresh_poison (s : State) : s.fresh.2.poison = s.poison := rfl
@[simp] theorem fresh_regPoison (s : State) : s.fresh.2.regPoison = s.regPoison := rfl
@[simp] theorem fresh_parts (s : State) : s.fresh.2.parts = s.parts := rfl
@[simp] theorem fresh_plies (s : State) : s.fresh.2.plies = s.plies := rfl
@[simp] theorem fresh_beams (s : State) : s.fresh.2.beams = s.beams := rfl
@[simp] theorem fresh_ports (s : State) : s.fresh.2.ports = s.ports := rfl
@[simp] theorem fresh_dev (s : State) : s.fresh.2.dev = s.dev := rfl
@[simp] theorem fresh_clocks (s : State) : s.fresh.2.clocks = s.clocks := rfl
@[simp] theorem fresh_lastPos (s : State) : s.fresh.2.lastPos = s.lastPos := rfl
@[simp] theorem fresh_time (s : State) : s.fresh.2.time = s.time := rfl
@[simp] theorem fresh_out (s : State) : s.fresh.2.out = s.out := rfl
@[simp] theorem fresh_turn (s : State) : s.fresh.2.turn = s.turn := rfl
@[simp] theorem fresh_agenda (s : State) : s.fresh.2.agenda = s.agenda := rfl
@[simp] theorem fresh_round (s : State) : s.fresh.2.round = s.round := rfl
@[simp] theorem fresh_draws (s : State) : s.fresh.2.draws = s.draws := rfl
@[simp] theorem fresh_serial (s : State) : s.fresh.2.serial = s.serial + 1 := rfl

@[simp] theorem draw_w (s : State) : s.draw.2.w = s.w := rfl
@[simp] theorem draw_rest (s : State) : s.draw.2.rest = s.rest := rfl
@[simp] theorem draw_issue (s : State) : s.draw.2.issue = s.issue := rfl
@[simp] theorem draw_groups (s : State) : s.draw.2.groups = s.groups := rfl
@[simp] theorem draw_bolts (s : State) : s.draw.2.bolts = s.bolts := rfl
@[simp] theorem draw_launches (s : State) : s.draw.2.launches = s.launches := rfl
@[simp] theorem draw_ops (s : State) : s.draw.2.ops = s.ops := rfl
@[simp] theorem draw_l1 (s : State) : s.draw.2.l1 = s.l1 := rfl
@[simp] theorem draw_slices (s : State) : s.draw.2.slices = s.slices := rfl
@[simp] theorem draw_held (s : State) : s.draw.2.held = s.held := rfl
@[simp] theorem draw_tlb (s : State) : s.draw.2.tlb = s.tlb := rfl
@[simp] theorem draw_sweeps (s : State) : s.draw.2.sweeps = s.sweeps := rfl
@[simp] theorem draw_tlbinvs (s : State) : s.draw.2.tlbinvs = s.tlbinvs := rfl
@[simp] theorem draw_looms (s : State) : s.draw.2.looms = s.looms := rfl
@[simp] theorem draw_copies (s : State) : s.draw.2.copies = s.copies := rfl
@[simp] theorem draw_mem (s : State) : s.draw.2.mem = s.mem := rfl
@[simp] theorem draw_vault (s : State) : s.draw.2.vault = s.vault := rfl
@[simp] theorem draw_flash (s : State) : s.draw.2.flash = s.flash := rfl
@[simp] theorem draw_poison (s : State) : s.draw.2.poison = s.poison := rfl
@[simp] theorem draw_regPoison (s : State) : s.draw.2.regPoison = s.regPoison := rfl
@[simp] theorem draw_parts (s : State) : s.draw.2.parts = s.parts := rfl
@[simp] theorem draw_plies (s : State) : s.draw.2.plies = s.plies := rfl
@[simp] theorem draw_beams (s : State) : s.draw.2.beams = s.beams := rfl
@[simp] theorem draw_ports (s : State) : s.draw.2.ports = s.ports := rfl
@[simp] theorem draw_dev (s : State) : s.draw.2.dev = s.dev := rfl
@[simp] theorem draw_clocks (s : State) : s.draw.2.clocks = s.clocks := rfl
@[simp] theorem draw_lastPos (s : State) : s.draw.2.lastPos = s.lastPos := rfl
@[simp] theorem draw_time (s : State) : s.draw.2.time = s.time := rfl
@[simp] theorem draw_out (s : State) : s.draw.2.out = s.out := rfl
@[simp] theorem draw_turn (s : State) : s.draw.2.turn = s.turn := rfl
@[simp] theorem draw_agenda (s : State) : s.draw.2.agenda = s.agenda := rfl
@[simp] theorem draw_round (s : State) : s.draw.2.round = s.round := rfl
@[simp] theorem draw_draws (s : State) : s.draw.2.draws = s.draws + 1 := rfl
@[simp] theorem draw_serial (s : State) : s.draw.2.serial = s.serial := rfl

@[simp] theorem modPart_part_self (s : State) (i : PartN) (f : PartRegs → PartRegs) : (s.modPart i f).part i = f (s.part i) := by
  simp [part, modPart]
theorem modPart_part_ne (s : State) (i j : PartN) (f : PartRegs → PartRegs) (h : i ≠ j) : (s.modPart i f).part j = s.part j := by
  simp [part, modPart, Fin.val_inj, h]
@[simp] theorem modPly_ply_self (s : State) (i : Die) (f : Ply → Ply) : (s.modPly i f).ply i = f (s.ply i) := by
  simp [ply, modPly]
theorem modPly_ply_ne (s : State) (i j : Die) (f : Ply → Ply) (h : i ≠ j) : (s.modPly i f).ply j = s.ply j := by
  simp [ply, modPly, Fin.val_inj, h]
@[simp] theorem modBeam_beam_self (s : State) (i : Beam) (f : BeamRegs → BeamRegs) : (s.modBeam i f).beam i = f (s.beam i) := by
  simp [beam, modBeam]
theorem modBeam_beam_ne (s : State) (i j : Beam) (f : BeamRegs → BeamRegs) (h : i ≠ j) : (s.modBeam i f).beam j = s.beam j := by
  simp [beam, modBeam, Fin.val_inj, h]
@[simp] theorem modPort_port_self (s : State) (i : Port) (f : PortRegs → PortRegs) : (s.modPort i f).port i = f (s.port i) := by
  simp [port, modPort]
theorem modPort_port_ne (s : State) (i j : Port) (f : PortRegs → PortRegs) (h : i ≠ j) : (s.modPort i f).port j = s.port j := by
  simp [port, modPort, Fin.val_inj, h]
@[simp] theorem modCtx_ctx_self (s : State) (b : Beam) (c : CtxN) (f : Context → Context) :
    (s.modCtx b c f).ctx b c = f (s.ctx b c) := by
  simp [ctx, modCtx, beam, modBeam]
theorem modCtx_ctx_ne (s : State) (b : Beam) (c e : CtxN) (f : Context → Context) (h : c ≠ e) :
    (s.modCtx b c f).ctx b e = s.ctx b e := by
  simp [ctx, modCtx, beam, modBeam, Fin.val_inj, h]
theorem modCtx_ctx_beam (s : State) (a b : Beam) (c e : CtxN) (f : Context → Context) (h : a ≠ b) :
    (s.modCtx a c f).ctx b e = s.ctx b e := by
  simp [ctx, modCtx, beam, modBeam, Fin.val_inj, h]

end Sys2Proof.Machine.State
end

