-- ==== Sys2Proof/Tests/Slice0.lean ====
section
/-! SUPPORT. The author's own tests: ill-formed terms that the check refuses, a word of every
instruction written out from the tables of the spec, single steps with results worked out by hand, and,
for each statement that has hypotheses, states and operands that meet them. -/

namespace Sys2Proof.Tests

open Sys2Proof Sys2Proof.Machine Sys2Proof.Claim

set_option maxRecDepth 100000
set_option Elab.async false

/-- An unguarded word without a LIT. -/
def x : Ext := ⟨false, 0, 0⟩

/-- Fixed vector registers. -/
def v (n : BitVec 5) : VOp := ⟨false, n⟩

/-! ## Ill-formed terms, one for each exclusion -/

/-- R341, R319: a field that leaves its register. -/
theorem test_wf_fields :
    (Instr.sbfx x 1 2 40 24 false).wf = false ∧ (Instr.sbfx x 1 2 40 23 false).wf = true ∧
    (Instr.sbfi x 1 2 1 63).wf = false ∧ (Instr.vbfx x (v 1) (v 2) 31 1 false).wf = false ∧
    (Instr.vbfx x (v 1) (v 2) 31 0 true).wf = true := by decide +kernel

/-- R342, R374: type pairs that no conversion has. -/
theorem test_wf_conversions :
    (Instr.scvt x .f32 .f32 1 2 false).wf = false ∧ (Instr.scvt x .e4m3 .f32 1 2 false).wf = false ∧
    (Instr.vcvt x .i64 .f32 (v 1) (v 2) false).wf = false ∧ (Instr.vcvt x .i32 .i32 (v 1) (v 2) false).wf = false ∧
    (Instr.vpack x .i8 .i32 (v 1) (v 4) true).wf = false ∧ (Instr.vpack x .e4m3 .f16 (v 1) (v 4) false).wf = false ∧
    (Instr.vpack x .f16 .f32 (v 1) (v 4) true).wf = true ∧
    (Instr.vunpack x .f16 .f32 (v 1) (v 4)).wf = false := by decide +kernel

/-- R317, R318, R388: types that an operation does not take. -/
theorem test_wf_types :
    (Instr.vabs x .u32 (v 1) (v 2)).wf = false ∧ (Instr.vcmp x .eq .i16 1 (v 2) (v 3)).wf = false ∧
    (Instr.vred x .f32 (v 1) (v 2) .xorB).wf = false ∧ (Instr.vscan x .f32 (v 1) (v 2) true .andB).wf = false ∧
    (Instr.vvote x .all 16 1).wf = false ∧ (Instr.vvote x .ballot 16 1).wf = true ∧
    (Instr.mmqt x 1 (v 2) 3 .e2m1).wf = false := by decide +kernel

/-- R317, R318, R418: spaces, types and orders that a memory word does not take. -/
theorem test_wf_memory :
    (Instr.ld x .i32 .p false 1 2 0 0).wf = false ∧ (Instr.st x .i32 .p false 1 2 0).wf = false ∧
    (Instr.vld x .i64 .g false (v 1) 2 0 0).wf = false ∧ (Instr.vst x .i64 .g false (v 1) 2 0).wf = false ∧
    (Instr.vldg x .i64 .g false (v 1) (v 2) 0 0 0).wf = false ∧ (Instr.vsts x .i64 .g false (v 1) (v 2) 0 0).wf = false ∧
    (Instr.vldmx x .e4m3 .r false (v 1) 2 0 0).wf = false ∧ (Instr.vstmx x .e4m3 .p false (v 1) 2 0).wf = false ∧
    (Instr.atom x .andB .rlx .f32 .g false 1 2 0 0).wf = false ∧ (Instr.atom x .add .acq .u32 .g true 1 2 0 0).wf = false ∧
    (Instr.atom x .add .rlx .u32 .g false 1 2 0 3).wf = false ∧ (Instr.vatom x .xorB .rlx .f32 .g false (v 1) (v 2) 0 (v 0)).wf = false ∧
    (Instr.vatom x .add .ar .u32 .g true (v 1) (v 2) 0 (v 0)).wf = false ∧
    (Instr.vatom x .add .rlx .u32 .g false (v 1) (v 2) 0 (v 3)).wf = false ∧
    (Instr.mwatch x false .p 1 0).wf = false := by decide +kernel

/-- R350, R411, R441, R468: forms that an encoding rules out. -/
theorem test_wf_forms :
    (Instr.tdef x 1 2 3 true true).wf = false ∧ (Instr.barv x .bolt 8).wf = false ∧ (Instr.barw x .beam 9).wf = false ∧
    (Instr.barm x .beam 1 2).wf = false ∧ (Instr.barm x .bolt 8 2).wf = false ∧ (Instr.barm x .grp 15 2).wf = true ∧
    (Instr.melse ⟨true, 0, 0⟩ 1).wf = false ∧ (Instr.mend ⟨false, 2, 0⟩).wf = false ∧
    (Instr.swr x 1 .clock).wf = false ∧ (Instr.swr x 1 .hscr1).wf = true := by decide +kernel

/-! ## A word of every instruction

Each word is the match value of the instruction's row with its fields set, as the row lays them out
(R315, R332 to R468), and the codes of R317 and R318. -/

/-- Whether each word decodes to its instruction. -/
def decodesAll (l : List (Nat × Instr)) : Bool := l.all fun p => decodeTableWord 32 p.1 == some p.2

theorem test_decode_scalar_arithmetic :
    decodesAll [
    (0x02065589, .sadd x .i32 37 22 9),
    (0x02265589, .ssub x .i32 37 22 9),
    (0x02465589, .smul x .i32 37 22 9),
    (0x026A5589, .smulh x .u32 37 22 9),
    (0x02865589, .sdiv x .i32 37 22 9),
    (0x02A65589, .srem x .i32 37 22 9),
    (0x02C65589, .sand x .i32 37 22 9),
    (0x02E25589, .sor x .i64 37 22 9),
    (0x03065589, .sxor x .i32 37 22 9),
    (0x03265589, .sshl x .i32 37 22 9),
    (0x03465589, .sshr x .i32 37 22 9),
    (0x03665589, .ssra x .i32 37 22 9),
    (0x03865589, .smin x .i32 37 22 9),
    (0x03A65589, .smax x .i32 37 22 9),
    (0x03C65589, .smad x .i32 37 22 9 0),
    (0x03E65580, .smov x .i32 37 22),
    (0x03EC2940, .smovToIx x 2 37),
    (0x03F25080, .smovFromIx x 37 2)] = true := by decide +kernel

theorem test_decode_scalar_rest :
    decodesAll [
    (0x0488B956, .scmp x .gt .u32 11 37 22),
    (0x07625589, .ssel x 11 37 22 9),
    (0x08025580, .spopc x 37 22),
    (0x08225580, .sclz x 37 22),
    (0x0A0592AD, .scvt x .bf16 .i64 37 22 true),
    (0x0D2ADFFC, .saddi x 37 22 (-4)),
    (0x0F2FFFFA, .sli x 37 (-6)),
    (0x1128000F, .slih x 37 15),
    (0x132AD42F, .sbfx x 37 22 40 23 true),
    (0x152AC07E, .sbfi x 37 22 0 63),
    (0x1605B680, .pand x 11 6 13),
    (0x1625B680, .por x 11 6 13),
    (0x1645B680, .pxor x 11 6 13),
    (0x1664D800, .pnot x 9 11),
    (0x1685B000, .pmov x 11 6),
    (0x16B2D800, .ppopc x 37 11),
    (0x16C00004, .part x .t16)] = true := by decide +kernel

theorem test_decode_vector_integer :
    decodesAll [
    (0x20005B13, .vadd x .i32 ⟨false, 5⟩ ⟨true, 12⟩ ⟨false, 19⟩),
    (0x20205B13, .vsub x .i32 ⟨false, 5⟩ ⟨true, 12⟩ ⟨false, 19⟩),
    (0x20405B13, .vmul x .i32 ⟨false, 5⟩ ⟨true, 12⟩ ⟨false, 19⟩),
    (0x20645B13, .vmulh x .u32 ⟨false, 5⟩ ⟨true, 12⟩ ⟨false, 19⟩),
    (0x20805B13, .vmad x .i32 ⟨false, 5⟩ ⟨true, 12⟩ ⟨false, 19⟩ ⟨false, 0⟩),
    (0x20A05B13, .vand x .i32 ⟨false, 5⟩ ⟨true, 12⟩ ⟨false, 19⟩),
    (0x20CC5B13, .vor x .i8 ⟨false, 5⟩ ⟨true, 12⟩ ⟨false, 19⟩),
    (0x20E05B13, .vxor x .i32 ⟨false, 5⟩ ⟨true, 12⟩ ⟨false, 19⟩),
    (0x21005B13, .vshl x .i32 ⟨false, 5⟩ ⟨true, 12⟩ ⟨false, 19⟩),
    (0x21205B13, .vshr x .i32 ⟨false, 5⟩ ⟨true, 12⟩ ⟨false, 19⟩),
    (0x21405B13, .vsra x .i32 ⟨false, 5⟩ ⟨true, 12⟩ ⟨false, 19⟩),
    (0x21605B13, .vmin x .i32 ⟨false, 5⟩ ⟨true, 12⟩ ⟨false, 19⟩),
    (0x21805B13, .vmax x .i32 ⟨false, 5⟩ ⟨true, 12⟩ ⟨false, 19⟩),
    (0x21A05B13, .vsel x ⟨false, 5⟩ ⟨true, 12⟩ ⟨false, 19⟩ 0),
    (0x21C05B00, .vmov x ⟨false, 5⟩ ⟨true, 12⟩),
    (0x21EC5B00, .vabs x .i8 ⟨false, 5⟩ ⟨true, 12⟩)] = true := by decide +kernel

theorem test_decode_vector_rest :
    decodesAll [
    (0x22045B00, .vpopc x .u32 ⟨false, 5⟩ ⟨true, 12⟩),
    (0x22205B00, .vclz x .i32 ⟨false, 5⟩ ⟨true, 12⟩),
    (0x22405000, .viota x ⟨false, 5⟩),
    (0x22605940, .vbcast x ⟨false, 5⟩ 37),
    (0x22825156, .vextr x 37 ⟨false, 5⟩ 22),
    (0x2484B16C, .vcmp x .gt .u32 11 ⟨false, 5⟩ ⟨true, 12⟩),
    (0x26085B13, .vfadd x .bf16 ⟨false, 5⟩ ⟨true, 12⟩ ⟨false, 19⟩),
    (0x26285B13, .vfsub x .bf16 ⟨false, 5⟩ ⟨true, 12⟩ ⟨false, 19⟩),
    (0x26485B13, .vfmul x .bf16 ⟨false, 5⟩ ⟨true, 12⟩ ⟨false, 19⟩),
    (0x26645B13, .vfma x .f16 ⟨false, 5⟩ ⟨true, 12⟩ ⟨false, 19⟩ ⟨false, 0⟩),
    (0x26845B13, .vfms x .f16 ⟨false, 5⟩ ⟨true, 12⟩ ⟨false, 19⟩ ⟨false, 0⟩),
    (0x26A85B13, .vfmin x .bf16 ⟨false, 5⟩ ⟨true, 12⟩ ⟨false, 19⟩),
    (0x26C85B13, .vfmax x .bf16 ⟨false, 5⟩ ⟨true, 12⟩ ⟨false, 19⟩),
    (0x26E85B00, .vfabs x .bf16 ⟨false, 5⟩ ⟨true, 12⟩),
    (0x27085B00, .vfneg x .bf16 ⟨false, 5⟩ ⟨true, 12⟩),
    (0x27245B00, .vfclass x .f16 ⟨false, 5⟩ ⟨true, 12⟩),
    (0x28A0B16C, .vfcmp x .ge 11 ⟨false, 5⟩ ⟨true, 12⟩)] = true := by decide +kernel

theorem test_decode_convert :
    decodesAll [
    (0x2A1402D9, .vcvt x .i32 .f32 ⟨false, 5⟩ ⟨true, 12⟩ true),
    (0x2A3342D8, .vpack x .i16 .i32 ⟨false, 5⟩ ⟨true, 12⟩ false),
    (0x2A41A2D8, .vunpack x .f32 .ts8 ⟨false, 5⟩ ⟨true, 12⟩),
    (0x2C005B00, .kmov x ⟨false, 5⟩ ⟨true, 12⟩),
    (0x2C205940, .kset x ⟨false, 5⟩ 37),
    (0x2C425140, .kget x 37 ⟨false, 5⟩),
    (0x2C605B00, .kamax x .e4m3 ⟨false, 5⟩ ⟨true, 12⟩)] = true := by decide +kernel

theorem test_decode_cross_lane :
    decodesAll [
    (0x2E005B13, .vshfl x ⟨false, 5⟩ ⟨true, 12⟩ ⟨false, 19⟩),
    (0x2E205B16, .vshflup x ⟨false, 5⟩ ⟨true, 12⟩ 22),
    (0x2E405B16, .vshfldn x ⟨false, 5⟩ ⟨true, 12⟩ 22),
    (0x2E605B16, .vshflx x ⟨false, 5⟩ ⟨true, 12⟩ 22),
    (0x2E84D2C0, .vvote x .any 13 11),
    (0x2EA45B05, .vred x .i32 ⟨false, 5⟩ ⟨true, 12⟩ .xorB),
    (0x2EC05B0A, .vscan x .f32 ⟨false, 5⟩ ⟨true, 12⟩ true .max),
    (0x30005940, .vrand x ⟨false, 5⟩ 37),
    (0x322D8BA4, .vbfx x ⟨false, 5⟩ ⟨true, 12⟩ 11 20 true),
    (0x38005B00, .vrcp x ⟨false, 5⟩ ⟨true, 12⟩),
    (0x38205B00, .vrsq x ⟨false, 5⟩ ⟨true, 12⟩),
    (0x38405B00, .vsqrt x ⟨false, 5⟩ ⟨true, 12⟩),
    (0x38605B00, .vexp2 x ⟨false, 5⟩ ⟨true, 12⟩),
    (0x38805B00, .vlog2 x ⟨false, 5⟩ ⟨true, 12⟩),
    (0x38A05B00, .vsin x ⟨false, 5⟩ ⟨true, 12⟩),
    (0x38C05B00, .vcos x ⟨false, 5⟩ ⟨true, 12⟩),
    (0x38E05B00, .vtanh x ⟨false, 5⟩ ⟨true, 12⟩)] = true := by decide +kernel

theorem test_decode_memory :
    decodesAll [
    (0x411E55B7, .ld x .i64 .v true 37 22 (-9) 0),
    (0x432655B7, .st x .i64 .r true 37 22 (-9)),
    (0x45E45976, .vld x .bf16 .r true ⟨false, 5⟩ 37 (-10) 0),
    (0x47A45976, .vst x .f16 .r true ⟨false, 5⟩ 37 (-10)),
    (0x49445B30, .vldg x .f32 .g true ⟨false, 5⟩ ⟨true, 12⟩ 3 0 0),
    (0x4A445B30, .vsts x .i16 .g true ⟨false, 5⟩ ⟨true, 12⟩ 3 0),
    (0x4C1C5979, .vldmx x .e4m3 .v true ⟨false, 5⟩ 37 (-7) 0),
    (0x4E0C5979, .vstmx x .e4m3 .s true ⟨false, 5⟩ 37 (-7)),
    (0x5095E558, .atom x .xorB .rel .i64 .r true 37 22 0 0),
    (0x52BE05B0, .vatom x .min .ar .f32 .g false ⟨false, 5⟩ ⟨true, 12⟩ 0 ⟨false, 0⟩),
    (0x54080000, .fence x .acq),
    (0x54220F6D, .wait x 8 15 6 13),
    (0x54572FFA, .mwatch x true .v 37 (-6)),
    (0x54600000, .mwait x),
    (0x54812AC0, .pgreq x 37 22),
    (0x54A12FFC, .pgpref x 37 (-4)),
    (0x54C00000, .oflush x)] = true := by decide +kernel

theorem test_decode_tiles :
    decodesAll [
    (0x5814CA00, .itset x 41 37),
    (0x5834CAB1, .tdef x 41 37 22 false true),
    (0x58548000, .tfree x 41),
    (0x58748A00, .tstat x 41 ⟨false, 5⟩),
    (0x58948001, .cpy x 41 true),
    (0x58B48001, .cpyt x 41 true),
    (0x58D4CA00, .cpym x 41 37)] = true := by decide +kernel

theorem test_decode_loom :
    decodesAll [
    (0x5A00A404, .ldw x 41 .e2m1),
    (0x5A200250, .swpw x 37),
    (0x5A53165A, .mmq x 19 ⟨false, 5⟩ 37 .bf16),
    (0x5A53A653, .mmqTile x 19 41 37 .e5m2),
    (0x5A73165C, .mmqt x 19 ⟨false, 5⟩ 37 .f16),
    (0x5A73A659, .mmqtTile x 19 41 37 .e2m1),
    (0x5A930000, .mclr x 19),
    (0x5AB31650, .mdrn x 19 ⟨false, 5⟩ 37),
    (0x5AD3A650, .mdrnt x 19 41 37),
    (0x5AF39400, .msav x 19 37),
    (0x5B139400, .mrst x 19 37),
    (0x5B330250, .mstat x 19 37),
    (0x5B531404, .rq x 19 ⟨false, 5⟩ .e2m1),
    (0x5B4016C8, .rqVector x ⟨false, 5⟩ ⟨true, 12⟩ .e4m3),
    (0x5B731400, .rqs x 19 ⟨false, 5⟩ .e4m3 0),
    (0x5B6016C9, .rqsVector x ⟨false, 5⟩ ⟨true, 12⟩ .e5m2 0)] = true := by decide +kernel

theorem test_decode_sync :
    decodesAll [
    (0x5C058000, .barv x .grp 11),
    (0x5C328000, .barw x .beam 5),
    (0x5C4B4A00, .barm x .bolt 6 37),
    (0x5C605200, .fetchw x 41),
    (0x5C800000, .reedf x)] = true := by decide +kernel

theorem test_decode_control :
    decodesAll [
    (0x7007FFFC, .br x (-4)),
    (0x7207FFFB, .bra x (-5)),
    (0x752FFFF9, .call x 37 (-7)),
    (0x7607FFFB, .brv x (-5)),
    (0x781FFFFB, .mif x (-5)),
    (0x783FFFFE, .melse x (-2)),
    (0x78400000, .mend x),
    (0x787FFFFE, .mloop x (-2)),
    (0x789FFFFA, .mbrk x (-6)),
    (0x78BFFFFE, .mcont x (-2)),
    (0x7A000000, .nop x),
    (0x7A328000, .ret x 37),
    (0x7A528000, .jmpi x 37),
    (0x7A600000, .yield x),
    (0x7A800000, .exit x),
    (0x7AA00000, .region x),
    (0x7AC00008, .trap x 8)] = true := by decide +kernel

theorem test_decode_system :
    decodesAll [
    (0x7C128000, .tfence x 37),
    (0x7C200000, .ofence x),
    (0x7C400000, .efence x),
    (0x7C604A00, .tlbinv x 37),
    (0x7C928004, .srd x 37 .who),
    (0x7CA04B03, .swr x 37 .hscr1),
    (0x7CC00000, .tret x)] = true := by decide +kernel

/-- R321: words that no encoding assigns: an unassigned major opcode, an unassigned type, a reserved bit, a
field that leaves its register, and a lone LIT. -/
theorem test_decode_refused :
    [0x00000000, 0x1E000000, 0x02140000, 0x0A0FFFFE, 0x16000001, 0x12000FFE, 0x1200017E, 0x54E00000,
      0x7E000000].all (fun w => (decodeTableWord 32 w).isNone) = true := by decide +kernel

/-! ## Single steps

The expected results are worked out by hand from the rules, or stand in the spec's own examples. -/

/-- The default warp about to issue a word, its registers set up. -/
def at_ (word : Nat) (f : Warp → Warp) : State :=
  let s := State.reset.withFetchWord 32 word
  { s with w := f s.w }

/-- The state after one step. -/
def after (s : State) : Option State :=
  match step s with
  | .next t => some t
  | .fault _ => none
  | .refused _ => none

/-- The state after the meaning of an instruction. -/
def ran (i : Instr) (s : State) : Option State :=
  match exec i s with
  | .next t => some t
  | .fault _ => none
  | .refused _ => none

/-- A warp with scalar register `d` set. -/
def setReg (d : SReg) (a : Word64) (w : Warp) : Warp := { w with regs := { w.regs with s := w.regs.s.set d.toNat a } }

/-- A warp with vector register `i` set lane by lane. -/
def setVec (i : Nat) (f : Nat → Word32) (w : Warp) : Warp :=
  { w with regs := { w.regs with v := w.regs.v.setIfInBounds i (Vector.ofFn fun l => f l.val) } }

/-- R330, R332: sadd.i32 s4, s5, s6 wraps at 32 bits and extends the sign; the warp moves past the word. -/
theorem test_sadd_wraps :
    ((after (at_ 0x02044146 fun w => setReg 5 0x7FFFFFFF (setReg 6 1 w))).map fun t =>
      (t.w.regs.s[4], t.w.widx, t.w.pc)) = some (0xFFFFFFFF80000000, 1, 0x10000) := by decide +kernel

/-- R312: sadd.i64 s0, s5, s6 writes nothing. -/
theorem test_s0_discards :
    ((after (at_ 0x02000146 fun w => setReg 5 7 (setReg 6 1 w))).map fun t => t.w.regs.s[0]) = some 0 := by
  decide +kernel

/-- R333: sdiv.i32 of −7 by 2 is −3, and by 0 is −1. -/
theorem test_sdiv :
    ((after (at_ 0x02844146 fun w => setReg 5 0xFFFFFFFFFFFFFFF9 (setReg 6 2 w))).map fun t =>
      (t.w.regs.s[4]).toInt) = some (-3) ∧
    ((after (at_ 0x02844146 fun w => setReg 5 5 w)).map fun t => (t.w.regs.s[4]).toInt) = some (-1) := by
  decide +kernel

/-- R336, R331: scmp.lt.u32 p2, s1, s3 reads 2³² − 1 as unsigned. -/
theorem test_scmp_unsigned :
    ((after (at_ 0x04482043 fun w => setReg 1 0xFFFFFFFF (setReg 3 1 w))).map fun t => t.w.regs.p[2]) = some 0 := by
  decide +kernel

/-- R344: br −2 goes back two packets of 12 bytes from its own packet. -/
theorem test_br_back :
    ((after (at_ 0x7007FFFE id)).map fun t => (t.w.pc, t.w.widx)) = some (0x10000 - 24, 0) := by decide +kernel

/-- R350: mif with an empty guard takes the branch and saves the mask with no lanes left over. -/
theorem test_mif_empty :
    ((ran (.mif ⟨false, 1, 0⟩ 5) (at_ 0x7A000000 id)).map fun t => t.w.ctl.stack) =
      some [⟨BitVec.allOnes 32, 0⟩] := by decide +kernel

/-- R283, R369: 1.0 + 2⁻²⁴ is a tie and rounds to the even 1.0; +0 + −0 is +0. -/
theorem test_vfadd_rounds :
    fp32.add 0x3F800000 0x33800000 = 0x3F800000 ∧ fp32.add 0 0x80000000 = 0 ∧
    fp32.add 0x7F800000 0xFF800000 = fp32.nanGen 4 := by decide +kernel

/-- R386: the example of the spec, with T = 4, lane l of v3 holding l + 1, and lane 2 guarded off. -/
def treeExample : State :=
  at_ 0x7A000000 fun w =>
    let w := setVec 3 (fun l => BitVec.ofNat 32 (l + 1)) (setVec 5 (fun _ => 99) w)
    { w with ctl := { w.ctl with part := .t4 }
             regs := { w.regs with p := w.regs.p.set 1 (~~~(4 : Lanes)) } }

/-- R386: the columns v5 and v6 of the example, lanes 0 to 7. -/
theorem test_tree_example :
    ((ran (.vscan ⟨false, 1, 0⟩ .i32 (v 5) (v 3) true .add) treeExample).map fun t =>
      (List.range 8).map (t.w.lane 5)) = some [0, 1, 99, 3, 0, 5, 11, 18] ∧
    ((ran (.vred ⟨false, 1, 0⟩ .i32 (v 5) (v 3) .add) treeExample).map fun t =>
      (List.range 8).map (t.w.lane 5)) = some [7, 7, 99, 7, 26, 26, 26, 26] := by decide +kernel

/-- R384, R386: the column v7 of the example. -/
theorem test_shuffle_example :
    ((ran (.vshflup ⟨false, 1, 0⟩ (v 5) (v 3) 1) treeExample).map fun t =>
      (List.range 8).map (t.w.lane 5)) = some [1, 1, 99, 3, 5, 5, 6, 7] := by decide +kernel

/-- R316, R340: the constant of the spec's example, by sli and slih with their LIT words. -/
theorem test_sli_example :
    ((ran (.sli x 6 0x89ABCDEF) (at_ 0x7A000000 id)).bind (ran (.slih x 6 0x01234567))).map
      (fun t => t.w.regs.s[6]) = some 0x0123456789ABCDEF := by decide +kernel

/-- R69: the block of the spec's example: exponents from 126 to 128, but for value 5, which is +0.0. -/
theorem test_wire_example :
    let ws := [0x3F000000, 0x40000000, 0x3F800000, 0x3F800000, 0x3F800000, 0, 0x3F800000, 0x3F800000, 0x3F800000,
      0x3F800000, 0x3F800000, 0x3F800000, 0x3F800000, 0x3F800000, 0x3F800000, 0x3F800000]
    wireBase ws = 126 ∧ wireValue 126 0x3F800000 = [(1, 0), (3, 1), (23, 0)] ∧
    wireValue 126 0 = [(1, 0), (3, 7), (8, 0), (23, 0)] ∧
    (wireString ((1, 0) :: (8, wireBase ws) :: ws.flatMap (wireValue (wireBase ws)))).2 = 449 ∧
    (wireBlock ws).length = 57 ∧ unwireBlock (leVal (wireBlock ws)) = (ws, 57) := by decide +kernel

/-- R179, R182: the home slice and the place in HBM4E of the spec's example address. -/
theorem test_place_example :
    homeSlice 0x4000123000 = 49 ∧ sliceIndex 7 49 = 497 ∧ (hbmPlace 0x4000123000).stack = 4 ∧
    (hbmPlace 0x4000123000).channel = 1164 := by decide +kernel

/-- R247, R251: a trap with traps not enabled kills the group. -/
theorem test_trap_kills :
    ((after (at_ 0x7AC00005 id)).map fun t => (t.groups, t.warps)) = some ([], []) := by decide +kernel

/-- R321, R251: an illegal word with traps enabled enters the handler with cause 0x01. -/
theorem test_illegal_traps :
    ((after ((at_ 0x00000000 id).modPart 0 fun p => { p with trapEn := true, trapVa := 0x400 })).map fun t =>
      (t.w.pc, t.w.handler, t.w.regs.s[2])) = some (0x40000, true, 1) := by decide +kernel

/-- R356, R159: exit ends the warp. -/
theorem test_exit :
    ((after (at_ 0x7A800000 id)).map fun t => t.w.exited) = some true := by decide +kernel

/-! ## States and operands that meet the hypotheses of the statements

`witness_<Name>` shows for each clause of `Obligations.<Name>` that its hypotheses are met together, at
values on the border of their ranges. -/

/-- The default warp, its group, and the machine that holds them. -/
def base : State := State.reset.placeDefault
def w0 : Warp := base.w
def g0 : Group := Group.start 3 2 1 0 0 1 32 [0] [] 0

/-- A group of one warp takes effect. -/
def quiet (w : Warp) (g : Group) : State :=
  { base with w := w, groups := [g], issue := { base.issue with snap := some w } }

/-- The machine with one warp, between groups. -/
def alone (w : Warp) (g : Group) : State := { base with w := w, groups := [g] }

theorem quiet_of (w : Warp) (g : Group) (hp : w.place = w0.place) (hc : w.cnt = Counters.zero)
    (ha : w.aside = Counters.zero) (ho : w.env.ordered = false) (hs : w.sched.state ≠ .saved)
    (hf : w.fenceSeq ≤ w.issued) : Quiet (quiet w g) w :=
  ⟨rfl, rfl, rfl, by rw [hp]; decide +kernel, (fun _ h => nomatch h), rfl, rfl, rfl, rfl, hc, ha, ho, hs,
    (fun _ h => nomatch h), hf⟩

theorem groupIs_of (s : State) (w : Warp) (g : Group) (hs : s.groups = [g]) (hg : g.gid = w.place.gid) :
    GroupIs s w g :=
  ⟨by rw [hs]; exact List.mem_singleton_self g, hg, fun h hh _ => by rw [hs] at hh; exact List.mem_singleton.mp hh⟩

theorem alone_of (w : Warp) (g : Group) (hp : w.place = w0.place) (hs : w.sched.state ≠ .saved) :
    Alone (alone w g) w :=
  ⟨rfl, by show w.place.wid ≠ 0; rw [hp]; decide +kernel, rfl, hs, rfl, rfl⟩

theorem quiet_default : Quiet (quiet w0 g0) w0 := quiet_of w0 g0 rfl rfl rfl rfl (by decide +kernel) (Nat.le_refl _)
theorem group_default : GroupIs (quiet w0 g0) w0 g0 := groupIs_of _ _ _ rfl rfl

/-- A guard that no lane meets: p1, which is false. -/
def no : Ext := ⟨false, 1, 0⟩

theorem guards : w0.guard x ≠ 0 ∧ w0.guard no = 0 ∧ w0.guard x = BitVec.allOnes 32 := by decide +kernel

/-- The hypotheses of `ScalarArithmeticResult`, `ScalarMoveResult`, `PredicateResult`, `VectorIntegerResult`,
`VectorCompareResult`, `ConvertResult`, `ScaleRegisterResult`, `ShuffleVoteResult`, `TreeRandomResult` and
`BranchResult`, with a guard of every lane and one of none. -/
theorem witness_words : (quiet w0 g0).issue.snap = some w0 ∧ (quiet w0 g0).regPoison = [] ∧ w0.guard no = 0 ∧
    w0.guard x ≠ 0 ∧ VTy.i32 ≠ .u32 ∧ (VTy.u32 = .i32 ∨ VTy.u32 = .u32) ∧ (NTy.i8 = .f16 ∨ NTy.i8 = .bf16 ∨ NTy.i8 = .i16 ∨ NTy.i8 = .i8) :=
  ⟨rfl, rfl, guards.2.1, guards.1, by decide, by decide, by decide⟩

theorem witness_ScalarDivisionResult :
    let A := num .i64 ((setReg 1 7 (setReg 2 2 w0)).sget 1)
    let B := num .i64 ((setReg 1 7 (setReg 2 2 w0)).sget 2)
    let w := setReg 1 (0x8000000000000000) (setReg 2 (BitVec.allOnes 64) w0)
    let u := setReg 1 (0xFFFFFFFF80000000) (setReg 2 (BitVec.allOnes 64) w0)
    (B ≠ 0 ∧ A - B * A.tdiv B ≠ 0) ∧
    (STy.i64 ≠ .u32 ∧ num .i64 (w.sget 1) = -(2 ^ (width .i64 - 1) : Nat) ∧ num .i64 (w.sget 2) = -1) ∧
    (num .i32 (u.sget 1) = -(2 ^ (width .i32 - 1) : Nat) ∧ num .i32 (u.sget 2) = -1) := by
  decide +kernel

theorem witness_ScalarBitsResult :
    (63 : BitVec 6).toNat + (0 : BitVec 6).toNat + 1 ≤ 64 ∧ (0 : BitVec 6).toNat + (63 : BitVec 6).toNat + 1 ≤ 64 := by
  decide

theorem witness_VectorLaneResult :
    (31 : BitVec 5).toNat + (0 : BitVec 5).toNat + 1 ≤ 32 ∧ (0 : BitVec 5).toNat + (31 : BitVec 5).toNat + 1 ≤ 32 := by
  decide

theorem witness_VectorFloatResult :
    (0x7F800001 < 2 ^ fp32.bits ∧ fp32.isNan 0x7F800001 = true) ∧
    (fp16.isNan 0x7C00 = false ∧ fp16.isNan 0xFFFF = true ∧ 0xFFFF < 2 ^ fp16.bits) ∧
    (bf16.isNan 0x7F7F = false ∧ bf16.isInf 0x7F7F = false) ∧ fp32.isNan 0 = false := by decide +kernel

theorem witness_MxConvertResult :
    ((NTy.e2m1, e2m1) = (.e2m1, e2m1)) ∧ (quiet w0 g0).issue.snap = some w0 ∧ w0.guard no = 0 ∧ w0.guard x ≠ 0 :=
  ⟨rfl, rfl, guards.2.1, guards.1⟩

theorem witness_MaskStackResult :
    let w := { w0 with ctl := { w0.ctl with stack := [⟨BitVec.allOnes 32, 1⟩] } }
    (quiet w g0).issue.snap = some w ∧ w.ctl.stack = ⟨BitVec.allOnes 32, 1⟩ :: [] := ⟨rfl, rfl⟩

/-- The default warp in a slot. -/
def slotted (st : SlotState) (pos : BitVec 3) (age slot : Nat) (h : Option Hold) (w : Warp) : Warp :=
  { w with place := { w.place with wid := 4 + slot, slot := BitVec.ofNat 5 slot }, sched := ⟨st, age, pos, false, h⟩ }

/-- Eight active warps and a ready pending one. -/
def crowd : State :=
  { alone (slotted .active 7 7 7 none w0) g0 with
    rest := slotted .pending 0 1 8 none w0 ::
      (List.range 7).map fun i => slotted .active (BitVec.ofNat 3 i) (9 - i) i none w0 }

theorem head_of {α : Type} {l : List α} {p : α → Bool} (h : l.head?.any p = true) :
    ∃ a as, l = a :: as ∧ p a = true := by
  cases l with
  | nil => cases h
  | cons a as => exact ⟨a, as, rfl, h⟩

theorem witness_WarpControlResult :
    w0.guard no = 0 ∧ w0.guard x ≠ 0 ∧ (quiet w0 g0).readyPending w0.place.core = [] ∧
    (quiet w0 g0).fewWarps w0.place.core = true ∧
    (let s := { crowd with issue := { base.issue with snap := some crowd.w } }
     s.w.sched.state = .active ∧ s.w.place.wid ≠ 0 ∧ (∀ u ∈ s.rest, u.place.wid ≠ s.w.place.wid) ∧
       s.fewWarps s.w.place.core = false ∧ s.w.guard x ≠ 0 ∧
       ∃ v vs, s.readyPending s.w.place.core = v :: vs ∧ v ∈ s.rest) := by
  refine ⟨guards.2.1, guards.1, rfl, by decide +kernel, rfl, by decide +kernel, by decide +kernel, by decide +kernel,
    by decide +kernel, ?_⟩
  obtain ⟨v, vs, h, m⟩ := head_of
    (l := ({ crowd with issue := { base.issue with snap := some crowd.w } } : State).readyPending crowd.w.place.core)
    (p := fun v => decide (v ∈ crowd.rest)) (by decide +kernel)
  exact ⟨v, vs, h, of_decide_eq_true m⟩

/-- A load that an earlier sweep found in flight. -/
def inFlight : Op :=
  { id := 33, wid := w0.place.wid, gid := w0.place.gid, bid := w0.place.bid, lid := w0.place.lid, core := w0.place.core
    part := w0.env.part, seq := 0
    kind := .load, acq := false, rel := false, rp := 0, am := BitVec.allOnes 32, space := 0, excl := false
    elems := [⟨0, .phys 0x999, 4, 0x3FFFFFFC, 0x3FFFFFFC, .none, 0, 0, 0, none, .waiting⟩], sweep := 0, l1 := none
    chunks := [], seen := [], asked := [] }

theorem witness_WaitFenceResult :
    w0.guard no = 0 ∧ w0.guard x ≠ 0 ∧ (quiet w0 g0).releaseMet w0 = true ∧ (quiet w0 g0).acquireMet w0 = true ∧
    (quiet w0 g0).ofenceMet w0 = true ∧ (quiet w0 g0).w.env.ordered = false ∧
    (quiet w0 g0).group? w0.place.gid = some g0 ∧
    (w0.cnt.lc.length ≤ (0 : BitVec 6).toNat ∧ w0.cnt.lc = [] ∧
      ¬(⟨[⟨9, false⟩], [], [], []⟩ : Counters).lc.length ≤ (0 : BitVec 6).toNat ∧
      (⟨[⟨9, false⟩], [], [], []⟩ : Counters).lc ≠ []) ∧
    (let z := { quiet w0 g0 with w := { w0 with issued := 1 } }
     let s := { z with ops := [{ inFlight with kind := .store }] }
     let u := { z with ops := [inFlight] }
     s.issue.snap = some w0 ∧ s.releaseMet w0 = false ∧ w0.issued < s.w.issued ∧ s.held = [] ∧
       s.ofenceMet w0 = false ∧ u.acquireMet w0 = false) ∧
    (∀ f ∈ [true, false],
      let w := { w0 with env := { w0.env with ordered := true }, flushing := f, covering := true, epoch := 1 }
      (quiet w g0).w = w ∧ ((quiet w g0).bolt? w.place.bid).isSome = true ∧
        ¬w.epoch ≤ Bolt.placed.flushed ∧ w0.epoch ≤ Bolt.placed.flushed) := by
  refine ⟨guards.2.1, guards.1, by decide +kernel, by decide +kernel, by decide +kernel, rfl, rfl, by decide +kernel,
    ⟨rfl, by decide +kernel, by decide +kernel, rfl, by decide +kernel, by decide +kernel⟩, ?_⟩
  simp only [List.forall_mem_cons, List.not_mem_nil, false_implies, implies_true, and_true]
  exact ⟨⟨rfl, by decide +kernel, by decide +kernel, by decide +kernel⟩, rfl, by decide +kernel, by decide +kernel,
    by decide +kernel⟩

theorem witness_MonitorPageResult : Quiet (quiet w0 g0) w0 ∧ GroupIs (quiet w0 g0) w0 g0 ∧ w0.guard x ≠ 0 ∧
    (let at_ : Word64 := (setReg 1 (BitVec.ofNat 64 (w0.env.scratch - 8)) w0).sget 1 + (0 : BitVec 29).signExtend 64
     at_.toNat % 8 = 0 ∧ at_.toNat < w0.env.scratch ∧ at_.toNat < 2 ^ 60) ∧
    ((setReg 1 2 w0).sget 1 + (0 : BitVec 29).signExtend 64).toNat % 4 ≠ 0 ∧ w0.faults = [] ∧ w0.mwAddr = 0 ∧
    (let w := { w0 with mwAddr := BitVec.ofNat 64 (2 ^ 61 + w0.env.scratch - 4) }
     w.busy = .none ∧ w.mwAddr.toNat / 2 ^ 60 = 2 ∧ w.mwAddr.toNat % 2 ^ 60 % 4 = 0 ∧
       w.mwAddr.toNat % 2 ^ 60 < w.env.scratch) :=
  ⟨quiet_default, group_default, guards.1, by decide +kernel, by decide +kernel, rfl, rfl, by decide +kernel⟩

/-- A result by its first part. -/
theorem pair {α β : Type} {p : α × β} {a : α} (h : p.1 = a) : p = (a, p.2) := by cases p; cases h; rfl

theorem ok_pair {ε α β : Type} [DecidableEq α] {p : Except ε α × β} {a : α}
    (h : (match p.1 with | .ok x => decide (x = a) | .error _ => false) = true) : p = (.ok a, p.2) := by
  obtain ⟨x, y⟩ := p
  cases x with
  | error e => cases h
  | ok x => cases of_decide_eq_true h; rfl

/-- A translation that answers an address, with what holds of it and of the state after it, from the check of its
value. -/
theorem xlat_ok {s : State} {c : XCtx} {k : Access} {va : Word64} {hit : Bool}
    {p : Nat → Option Die → State → Prop} [∀ a h t, Decidable (p a h t)]
    (h : (match s.translate c k va hit with
      | (.ok a h, t) => decide (p a h t)
      | _ => false) = true) :
    ∃ a h t, s.translate c k va hit = (.ok a h, t) ∧ XlatOnly s t ∧ p a h t := by
  have hx := s.translate_only c k va hit
  revert h hx
  cases s.translate c k va hit with
  | mk o t =>
    cases o with
    | ok a d => exact fun h hx => ⟨a, d, t, rfl, hx, of_decide_eq_true h⟩
    | nonres => exact fun h => nomatch h
    | protect => exact fun h => nomatch h

theorem quiet_xlat {s t : State} {w : Warp} (h : XlatOnly s t) (q : Quiet s w) : Quiet t w := by
  unfold Quiet
  rw [h.1]
  exact q

/-- The highest address of `n` bytes in the scratch of the default warp. -/
def lastScratch (n : Nat) : Word64 := BitVec.ofNat 64 (w0.env.scratch - n)

/-- An access of 32 lanes of 4 bytes lies in scratch, up to its last byte. -/
theorem witness_ScratchLoadResult : Quiet (quiet w0 g0) w0 ∧ GroupIs (quiet w0 g0) w0 g0 ∧ w0.guard x ≠ 0 ∧
    w0.vidx x (v 31) < 256 ∧
    ((lastScratch 4).toNat % 4 = 0 ∧ (lastScratch 4).toNat < w0.env.scratch) ∧
    (∀ l : Nat, l < 32 → (w0.guard x).getLsbD l = true →
      (lastScratch 128 + BitVec.ofNat 64 (l * 4)).toNat % 4 = 0 ∧
        (lastScratch 128 + BitVec.ofNat 64 (l * 4)).toNat < w0.env.scratch) ∧
    (∀ l : Nat, l < 32 → (w0.guard x).getLsbD l = true →
      (lastScratch 4 + (w0.lane (w0.vidx x (v 2)) l).signExtend 64 * BitVec.ofNat 64 (2 ^ 3)).toNat % 4 = 0 ∧
        (lastScratch 4 + (w0.lane (w0.vidx x (v 2)) l).signExtend 64 * BitVec.ofNat 64 (2 ^ 3)).toNat <
          w0.env.scratch) :=
  ⟨quiet_default, group_default, guards.1, by decide +kernel, by decide +kernel, by decide +kernel,
    by decide +kernel⟩

theorem witness_ScratchStoreResult : Quiet (quiet w0 g0) w0 ∧ GroupIs (quiet w0 g0) w0 g0 ∧ w0.guard x ≠ 0 ∧
    Memory.wf g0.scratch = true ∧
    (∀ l : Nat, l < 32 → (w0.guard x).getLsbD l = true →
      (lastScratch 32 + BitVec.ofNat 64 (l * 1)).toNat % 1 = 0 ∧
        (lastScratch 32 + BitVec.ofNat 64 (l * 1)).toNat < w0.env.scratch) :=
  ⟨quiet_default, group_default, guards.1, rfl, by decide +kernel⟩

theorem witness_ScratchMxResult : Quiet (quiet w0 g0) w0 ∧ GroupIs (quiet w0 g0) w0 g0 ∧
    w0.guard x = BitVec.allOnes 32 ∧ w0.vidx x (v 31) < 256 ∧ Memory.wf g0.scratch = true ∧
    (lastScratch 498).toNat % 256 < (mxShape .e2m1).2.2 ∧ (lastScratch 512).toNat % 256 = 0 ∧
    (lastScratch 498).toNat / 256 * 256 + 512 ≤ w0.env.scratch :=
  ⟨quiet_default, group_default, guards.2.2, by decide +kernel, rfl, by decide +kernel, by decide +kernel,
    by decide +kernel⟩

theorem witness_ScratchAtomicResult : Quiet (quiet w0 g0) w0 ∧ GroupIs (quiet w0 g0) w0 g0 ∧ w0.guard x ≠ 0 ∧
    w0.vidx x (v 31) < 255 ∧
    (ATy.f32 = .f32 → AOp.cas = .xchg ∨ AOp.cas = .add ∨ AOp.cas = .min ∨ AOp.cas = .max ∨ AOp.cas = .cas) ∧
    ((lastScratch 8).toNat % 8 = 0 ∧ (lastScratch 8).toNat < w0.env.scratch) ∧
    (∀ l : Nat, l < 32 → (w0.guard x).getLsbD l = true →
      (lastScratch 8 + (w0.lane (w0.vidx x (v 2)) l).signExtend 64).toNat % 8 = 0 ∧
        (lastScratch 8 + (w0.lane (w0.vidx x (v 2)) l).signExtend 64).toNat < w0.env.scratch) :=
  ⟨quiet_default, group_default, guards.1, by decide +kernel, fun _ => .inr (.inr (.inr (.inr rfl))),
    by decide +kernel, by decide +kernel⟩

/-- An address in the last word of the page of the default warp; the tables answer it for a load and for a
store, and nothing else has changed. -/
theorem witness_GlobalAccessResult : w0.guard x ≠ 0 ∧ (0x3FFFFFFC : Word64).toNat % 4 = 0 ∧
    ∀ k : Access, k = .load ∨ k = .store →
    ∃ a h s', (quiet w0 g0).translate w0.xctx k 0x3FFFFFFC true = (.ok a (some h), s') ∧ a / 2 ^ 51 % 2 = 0 ∧
      Quiet s' w0 ∧ s'.l1 = [] ∧ s'.w = (quiet w0 g0).w ∧
      s'.serial = (quiet w0 g0).serial ∧ s'.issue = (quiet w0 g0).issue ∧
      Memory.wf (s'.atHome a (some h)).2.mem = true := by
  refine ⟨guards.1, by decide, fun k hk => ?_⟩
  have key : ∃ a h t, (quiet w0 g0).translate w0.xctx k 0x3FFFFFFC true = (.ok a h, t) ∧
      XlatOnly (quiet w0 g0) t ∧ (h.isSome = true ∧ a / 2 ^ 51 % 2 = 0 ∧ Memory.wf t.mem = true ∧ t.l1 = []) := by
    cases hk with
    | inl h =>
      subst h
      exact xlat_ok (p := fun a h t => h.isSome = true ∧ a / 2 ^ 51 % 2 = 0 ∧ Memory.wf t.mem = true ∧ t.l1 = [])
        (by decide +kernel)
    | inr h =>
      subst h
      exact xlat_ok (p := fun a h t => h.isSome = true ∧ a / 2 ^ 51 % 2 = 0 ∧ Memory.wf t.mem = true ∧ t.l1 = [])
        (by decide +kernel)
  obtain ⟨a, h, t, e, hx, hs, ha, hw, hl⟩ := key
  cases h with
  | none => cases hs
  | some h =>
    exact ⟨a, h, t, e, ha, quiet_xlat hx quiet_default, hl, by rw [hx.1], by rw [hx.1], by rw [hx.1],
      (t.atHome_only a (some h)).2 hw⟩

theorem witness_AccessFaults : Quiet (quiet w0 g0) w0 ∧ (quiet w0 g0).w.faults = [] ∧ w0.guard x ≠ 0 ∧
    (let region : ReedRegion := ((quiet w0 g0).beam (dieBeam (coreDie w0.place.core))).reed.regions[w0.env.part]
     (¬ (1 : Word64).toNat % 2 = 0) ∧
     (let at_ := BitVec.ofNat 64 (w0.env.priv * 4)
      at_.toNat % 4 = 0 ∧ w0.env.priv * 4 < at_.toNat + 4) ∧
     ((0x400000000 : Word64).toNat % 8 = 0 ∧ 2 ^ 34 ≤ (0x400000000 : Word64).toNat) ∧
     (region.size.toNat * 2 ^ 16 ≤ (0 : Word64).toNat) ∧
     ((lastScratch 0).toNat % 8 = 0 ∧ w0.env.scratch ≤ (lastScratch 0).toNat)) :=
  ⟨quiet_default, rfl, guards.1, by decide +kernel⟩

theorem witness_SpecialRegisterResult :
    w0.guard x ≠ 0 ∧ w0.place.core < 2 ^ 16 ∧ w0.env.ordered = false ∧
    ({ w0 with env := { w0.env with ordered := true } } : Warp).env.ordered = true ∧
    ((quiet w0 g0).clocks.find? fun c => c.1 == w0.place.core / 4) = none ∧
    (let s : State := { quiet w0 g0 with time := 5, clocks := [(0, 5, 77)] }
     s.issue.snap = some w0 ∧ (s.clocks.find? fun c => c.1 == w0.place.core / 4) = some (0, 5, 77) ∧ s.time = 5) := by
  decide +kernel

theorem witness_TranslationFenceResult : Quiet (quiet w0 g0) w0 ∧ (quiet w0 g0).sweeps = [] ∧
    w0.guard no = 0 ∧ w0.guard x ≠ 0 := ⟨quiet_default, rfl, guards.2.1, guards.1⟩

/-- A frame at address 0, by its words at 0x10 and 0x30. -/
def framed (f10 f30 : Nat) : State :=
  { quiet w0 g0 with mem := cellPutWord (cellPutWord base.mem 0x10 8 f10) 0x30 8 f30 }

/-- The granules of a frame, with what holds of them and of the state after their translations, from the check of their
value. -/
theorem pas_ok {s : State} {w : Warp} {k : Access} {p : List Nat → State → Prop} [∀ l t, Decidable (p l t)]
    (h : (match s.framePas w k with
      | (.ok l, t) => decide (p l t)
      | (.error _, _) => false) = true) :
    ∃ l t, s.framePas w k = (.ok l, t) ∧ XlatOnly s t ∧ p l t := by
  have hx := s.framePas_only w k
  revert h hx
  cases s.framePas w k with
  | mk o t =>
    cases o with
    | ok l => exact fun h hx => ⟨l, t, rfl, hx, of_decide_eq_true h⟩
    | error _ => exact fun h => nomatch h

/-- The frame of the default warp by number, in pages that map an entry without RES at 1 GiB + 2 × 64 KiB. -/
def frameAt (n : Nat) : State :=
  let m := cellPutWord base.mem 0x6010 8 (2 ^ 63 + 0x8000)
  let m := cellPutWord m 0x8000 8 (2 ^ 63 + 0xA000)
  let m := cellPutWord m 0xA020 8 (2 ^ 63 + 2 ^ 62 + 2 ^ 60 + 2 ^ 59 + 2 ^ 58 + 2 ^ 57 + 0x200000)
  { (quiet w0 g0).modPart 0 (fun p => { p with tfBase := BitVec.ofNat 41 n }) with mem := m }

/-- What TRET finds of a frame. -/
def tretPas (s : State) := s.framePas w0 .load
def tretRead (s : State) := (tretPas s).2.readFrame w0 (match (tretPas s).1 with | .ok l => l | .error _ => [])

/-- A word of a frame whose granules lie at some places. -/
def frameWord (pas : List Nat) (m : List Host.Cell) (k n : Nat) : Nat := wordAt m (pas.getD (k / 4096) 0 + k % 4096) n

/-- What TRET tests of a frame. -/
abbrev legalFrame (pas : List Nat) (m : List Host.Cell) : Prop :=
  (∀ c ∈ [frameWord pas m 0x30 8 / 2 ^ 48 % 8, frameWord pas m 0x30 8 / 2 ^ 51 % 8], 1 ≤ c ∧ c ≤ 5) ∧
    frameWord pas m 0x30 8 / 2 ^ 54 % 64 ≤ 32 ∧ frameWord pas m 0x38 8 / 2 ^ 20 % 64 ≤ 32

/-- The frame of a state is found and read, in granules of memory that no L1 runs ahead of, and satisfies a predicate. -/
def framedBy (s : State) (p : List Nat → List Host.Cell → State → Prop) : Prop :=
  ∃ pas s' m u, s.framePas w0 .load = (.ok pas, s') ∧ s'.readFrame w0 pas = (.ok m, u) ∧ u.w = s.w ∧ u.rest = s.rest ∧
    s'.ops = [] ∧ s'.held = [] ∧ ((∀ a ∈ pas, a % 4096 = 0 ∧ a / 2 ^ 51 % 2 = 0) ∧ s'.l1 = []) ∧ p pas m u

theorem framedBy_of {s : State} {p : List Nat → List Host.Cell → State → Prop} [∀ a m u, Decidable (p a m u)]
    (e : s.ops = [] ∧ s.held = [])
    (h : (match s.framePas w0 .load with
      | (.ok pas, t) =>
        match t.readFrame w0 pas with
        | (.ok m, u) => decide (((∀ a ∈ pas, a % 4096 = 0 ∧ a / 2 ^ 51 % 2 = 0) ∧ t.l1 = []) ∧ p pas m u)
        | (.error _, _) => false
      | (.error _, _) => false) = true) : framedBy s p := by
  have hx := s.framePas_only w0 .load
  revert h hx
  cases q : s.framePas w0 .load with
  | mk o t =>
    cases o with
    | error _ => exact fun h => nomatch h
    | ok pas =>
      have hy := t.readFrame_only w0 pas
      revert hy
      dsimp only
      cases r : t.readFrame w0 pas with
      | mk o u =>
        cases o with
        | error _ => exact fun _ h => nomatch h
        | ok m =>
          intro hy h hx
          have hu := hx.trans hy
          obtain ⟨c, hp⟩ := of_decide_eq_true h
          exact ⟨pas, t, m, u, q, r, hu.same State.w fun _ _ _ _ _ _ => rfl,
            hu.same State.rest fun _ _ _ _ _ _ => rfl, (hx.same State.ops fun _ _ _ _ _ _ => rfl).trans e.1,
            (hx.same State.held fun _ _ _ _ _ _ => rfl).trans e.2, c, hp⟩

/-- The clauses that kill are met by a group of one launch. -/
theorem tret_group {s t : State} (h : XlatOnly s t) (hs : s.groups = [g0]) (hl : s.launches = [Launch.placed]) :
    GroupIs t w0 g0 ∧ (t.launch? g0.lid).isSome = true := by
  have hg : t.groups = [g0] := (h.same State.groups fun _ _ _ _ _ _ => rfl).trans hs
  refine ⟨groupIs_of t w0 g0 hg rfl, ?_⟩
  rw [show t.launch? g0.lid = s.launch? g0.lid from h.same (fun u => u.launch? g0.lid) fun _ _ _ _ _ _ => rfl]
  unfold State.launch?
  rw [hl]
  decide +kernel

def soundControl : Nat := 5 * 2 ^ 48 + 5 * 2 ^ 51 + 32 * 2 ^ 54

/-- A frame in a word with an uncorrectable error. -/
def badFrame : State := { framed 0 0 with poison := [⟨.phys 0, 4, 0, 0⟩] }

theorem witness_TretResult_kills :
    (∀ s ∈ [frameAt 0x4001, frameAt 0x4002],
      GroupIs (tretPas s).2 w0 g0 ∧ ((tretPas s).2.launch? g0.lid).isSome = true) ∧
    (∀ s ∈ [badFrame, framed 0 0], GroupIs (tretRead s).2 w0 g0 ∧ ((tretRead s).2.launch? g0.lid).isSome = true) ∧
    (∃ t, (frameAt 0x4001).translate w0.xctx .load ((frameAt 0x4001).frameVa w0) true = (.protect, t)) ∧
    (∃ t, (frameAt 0x4002).translate w0.xctx .load ((frameAt 0x4002).frameVa w0) true = (.nonres, t)) ∧
    (∃ pas t u, badFrame.framePas w0 .load = (.ok pas, t) ∧ t.ops = [] ∧ t.readFrame w0 pas = (.error 0x19, u)) ∧
    framedBy (framed 0 0) (fun pas m _ => ¬legalFrame pas m) := by
  refine ⟨?_, ?_, ⟨_, pair (by decide +kernel)⟩, ⟨_, pair (by decide +kernel)⟩, ?_, framedBy_of ⟨rfl, rfl⟩ (by decide +kernel)⟩
  · simp only [List.forall_mem_cons, List.not_mem_nil, false_implies, implies_true, and_true]
    exact ⟨tret_group (State.framePas_only _ _ _) rfl rfl, tret_group (State.framePas_only _ _ _) rfl rfl⟩
  · simp only [List.forall_mem_cons, List.not_mem_nil, false_implies, implies_true, and_true]
    exact ⟨tret_group ((State.framePas_only _ _ _).trans (State.readFrame_only _ _ _)) rfl rfl,
      tret_group ((State.framePas_only _ _ _).trans (State.readFrame_only _ _ _)) rfl rfl⟩
  · obtain ⟨l, t, e, hx, hp⟩ := pas_ok (s := badFrame) (w := w0) (k := .load)
      (p := fun l t => (match (t.readFrame w0 l).1 with | .error c => decide (c = 0x19) | .ok _ => false) = true)
      (by decide +kernel)
    refine ⟨l, t, (t.readFrame w0 l).2, e, hx.same State.ops fun _ _ _ _ _ _ => rfl, ?_⟩
    revert hp
    cases t.readFrame w0 l with
    | mk o u =>
      cases o with
      | ok _ => exact fun h => nomatch h
      | error c => exact fun h => by rw [of_decide_eq_true h]

theorem witness_TretResult :
    ((quiet w0 g0).issue.snap = some w0 ∧ w0.place.wid ≠ 0 ∧ (quiet w0 g0).rest = [] ∧ w0.guard no = 0 ∧
      w0.guard x ≠ 0 ∧ w0.cnt = Counters.zero ∧ ({ w0 with cnt := ⟨[⟨9, false⟩], [], [], []⟩ } : Warp).cnt.isZero = false) ∧
    framedBy (framed 0 soundControl) (fun pas m _ => legalFrame pas m ∧ frameWord pas m 0x10 8 / 2 ^ 46 % 2 = 0) ∧
    framedBy (framed (2 ^ 46 + 2 * 2 ^ 40) soundControl) (fun pas m _ => legalFrame pas m ∧
      frameWord pas m 0x10 8 / 2 ^ 46 % 2 = 1 ∧ frameWord pas m 0x10 8 / 2 ^ 42 % 2 = 0) ∧
    framedBy (framed (2 ^ 46 + 2 ^ 42 + 2 * 2 ^ 40) soundControl) (fun pas m u => legalFrame pas m ∧
      frameWord pas m 0x10 8 / 2 ^ 46 % 2 = 1 ∧ frameWord pas m 0x10 8 / 2 ^ 42 % 2 = 1 ∧
      frameWord pas m 0x10 8 / 2 ^ 40 % 4 + 1 ≤ 3 ∧
      (match (u.fetchPacket { w0 with handler := false } (BitVec.ofNat 64 (frameWord pas m 0 8))).1 with
        | .ok ws => decide (ws = [0, 0, 0])
        | .error _ => false) = true) :=
  ⟨⟨rfl, by decide +kernel, rfl, guards.2.1, guards.1, rfl, rfl⟩, framedBy_of ⟨rfl, rfl⟩ (by decide +kernel),
    framedBy_of ⟨rfl, rfl⟩ (by decide +kernel), framedBy_of ⟨rfl, rfl⟩ (by decide +kernel)⟩

/-- The default warp stopped at a trap. -/
def trapping : Warp :=
  { w0 with trap := some ⟨5, 7, 0, 0, 0, 7, false, false, true, false, true, 0x7AC00007, 0x10000, 0⟩ }

/-- Traps are enabled in the partition of the trapping warp. -/
def handled : State :=
  { alone trapping g0 with parts := base.parts.set 0 { base.parts[0] with trapEn := true, trapVa := 1 } }

theorem witness_TrapEntryResult :
    (handled.w = trapping ∧ trapping.place.wid ≠ 0 ∧ handled.rest = [] ∧ trapping.faults = [] ∧
     trapping.cnt = Counters.zero ∧ handled.regPoison = [] ∧ trapping.trap.isSome = true ∧
     trapping.handler = false ∧ (handled.parts[trapping.env.part]).trapEn = true ∧
     trapping.env.sregs ≤ 64 ∧ trapping.env.vregs ≤ 256 ∧ trapping.env.pregs ≤ 16 ∧
     ∃ pas s', handled.framePas trapping .store = (.ok pas, s') ∧ s'.w = handled.w ∧ s'.rest = handled.rest ∧
       s'.regPoison = [] ∧ Memory.wf s'.mem = true ∧ s'.slices.twins = [] ∧ (∀ a ∈ pas, a / 2 ^ 51 % 2 = 0) ∧
       pas.length = (0x2000 + 128 * trapping.env.vregs + 4095) / 4096 ∧
       pas.Pairwise (fun a b => a + 4096 ≤ b ∨ b + 4096 ≤ a)) ∧
    (let s := alone { trapping with handler := true } g0
     s.w.handler = true ∧ ((alone trapping g0).parts[s.w.env.part]).trapEn = false ∧ GroupIs s s.w g0 ∧
       (s.launch? g0.lid).isSome = true) := by
  refine ⟨⟨rfl, by decide +kernel, rfl, rfl, rfl, rfl, rfl, rfl, by decide +kernel, by decide +kernel, by decide +kernel,
      by decide +kernel, ?_⟩, rfl, by decide +kernel, groupIs_of _ _ _ rfl rfl, by decide +kernel⟩
  obtain ⟨l, t, e, hx, hp⟩ := pas_ok (s := handled) (w := trapping) (k := .store)
    (p := fun l t => Memory.wf t.mem = true ∧ t.slices.twins = [] ∧ (∀ a ∈ l, a / 2 ^ 51 % 2 = 0) ∧
      l.length = (0x2000 + 128 * trapping.env.vregs + 4095) / 4096 ∧
      l.Pairwise (fun a b => a + 4096 ≤ b ∨ b + 4096 ≤ a)) (by decide +kernel)
  exact ⟨l, t, e, hx.same State.w fun _ _ _ _ _ _ => rfl, hx.same State.rest fun _ _ _ _ _ _ => rfl,
    hx.same State.regPoison fun _ _ _ _ _ _ => rfl, hp⟩

/-- The default group with one barrier changed. -/
def barred (b : NamedBar) : Group := { g0 with named := g0.named.set 15 b }

/-- The default group of two warps with its level masks of barrier 7 changed, its second warp, and the two together. -/
def levelled (v : LevelBar) : Group := { g0 with warps := 2, boltLvl := g0.boltLvl.set 7 v, beamLvl := g0.beamLvl.set 7 v }
def second : Warp := { w0 with place := { w0.place with wid := 5, widx := 1, slot := 1, num := 1 } }
def mates (w : Warp) (g : Group) : State := { quiet w g with rest := [second] }

/-- Ply 0 owns the last slot of its beam for the launch. -/
def owning (s : State) : State := s.modReed 0 fun r => { r with slots := r.slots.set 63 ⟨true, 0, true, 0, 3, 1⟩ }

theorem owning_of {s : State} {w : Warp} (h : Quiet s w) : Quiet (owning s) w := h

/-- The arrival of warp 0 of group 3 completes what a level asks of a group. -/
abbrev completes (s : State) (v : Group → LevelBar) (h : Group) : Prop :=
  (v h).mask &&& ~~~((v h).arrived ||| (if h.gid = 3 then BitVec.twoPow 32 w0.place.widx.toNat else 0) ||| s.exitedMask h) = 0

abbrev boltDone (s : State) : Prop := ∀ h ∈ s.groups, h.bid = w0.place.bid → h.killed = false ∧ completes s (fun h => h.boltLvl[7]) h
abbrev beamDone (s : State) : Prop :=
  ∀ h ∈ s.groups, h.lid = w0.place.lid → coreDie h.core = 0 → s.residentGroup h = true → completes s (fun h => h.beamLvl[7]) h

/-- The default warp after an arrival at barrier 15 of each level. -/
def arrived : Warp := { w0 with arrivals := [⟨.grp, 15, 3⟩, ⟨.bolt, 15, 0⟩, ⟨.beam, 15, 0⟩] }

theorem witness_BarrierResult :
    (∀ g ∈ [barred ⟨0, 2, none, 0, false⟩, barred ⟨3, 3, none, 2, true⟩, levelled ⟨1, none, 0, false⟩,
        levelled ⟨2, none, 0, false⟩], ∀ w ∈ [w0, arrived], Quiet (quiet w g) w ∧ GroupIs (quiet w g) w g ∧
        Quiet (owning (quiet w g)) w ∧ GroupIs (owning (quiet w g)) w g) ∧
    Quiet (mates w0 (levelled ⟨3, none, 0, false⟩)) w0 ∧ Quiet (owning (mates w0 (levelled ⟨3, none, 0, false⟩))) w0 ∧
    w0.guard x ≠ 0 ∧ w0.exited = false ∧ w0.faults = [] ∧ (15 : BitVec 4).toNat % 8 = (7 : Fin 8).val ∧
    (7 : BitVec 4).toNat % 8 = (7 : Fin 8).val ∧
    (let me := BitVec.twoPow 32 w0.place.widx.toNat
     (0 ||| 2 : Lanes) &&& me = 0 ∧ (3 : Lanes) &&& me ≠ 0 ∧ (1 : Lanes) &&& me ≠ 0 ∧
       ((barred ⟨3, 3, none, 2, true⟩).named[15]).gen = 3 ∧
       ((arrived.arrivals.find? fun r => r.lvl == .grp && r.n == 15).map ArriveRec.gen) = some 3 ∧
       ((arrived.arrivals.find? fun r => r.lvl == .bolt && r.n == 15).map ArriveRec.gen) = some 0 ∧
       ((arrived.arrivals.find? fun r => r.lvl == .beam && r.n == 15).map ArriveRec.gen) = some 0 ∧ w0.arrivals = []) ∧
    ((base.bolt? w0.place.bid).map fun c => ((c.bars[7]).gen, (c.bars[7]).mask)) = some (0, 1) ∧
    (boltDone (quiet w0 (levelled ⟨1, none, 0, false⟩)) ∧ ¬boltDone (mates w0 (levelled ⟨3, none, 0, false⟩)) ∧
      beamDone (owning (quiet w0 (levelled ⟨1, none, 0, false⟩))) ∧
      ¬beamDone (owning (mates w0 (levelled ⟨3, none, 0, false⟩)))) ∧
    (let s := owning (quiet w0 (levelled ⟨1, none, 0, false⟩))
     s.ownsSlot w0.place.lid 0 = true ∧ (quiet w0 g0).ownsSlot w0.place.lid 0 = false ∧ (s.ply 0).queue = [] ∧
       (s.beam 0).reed.bars = [] ∧ g0.lid = w0.place.lid ∧ coreDie g0.core = 0 ∧
       s.residentGroup (levelled ⟨1, none, 0, false⟩) = true) := by
  refine ⟨?_, ?_, ?_, guards.1, rfl, rfl, by decide, by decide, by decide +kernel, by decide +kernel, by decide +kernel,
    by decide +kernel⟩
  · simp only [List.forall_mem_cons, List.not_mem_nil, false_implies, implies_true, and_true]
    refine ⟨⟨?_, ?_⟩, ⟨?_, ?_⟩, ⟨?_, ?_⟩, ?_, ?_⟩ <;>
      exact ⟨quiet_of _ _ rfl rfl rfl rfl (by decide +kernel) (Nat.le_refl _), groupIs_of _ _ _ rfl rfl,
        owning_of (quiet_of _ _ rfl rfl rfl rfl (by decide +kernel) (Nat.le_refl _)), groupIs_of _ _ _ rfl rfl⟩
  · exact ⟨rfl, rfl, rfl, by decide +kernel, by decide +kernel, rfl, rfl, rfl, rfl, rfl, rfl, rfl, by decide +kernel,
      (fun _ h => nomatch h), Nat.le_refl _⟩
  · exact ⟨rfl, rfl, rfl, by decide +kernel, by decide +kernel, rfl, rfl, rfl, rfl, rfl, rfl, rfl, by decide +kernel,
      (fun _ h => nomatch h), Nat.le_refl _⟩

/-- A counted entry of three slots with one free, and a plain one, at the highest name. -/
def counted : Tile :=
  { Tile.free with mapped := true, counted := true, rows := 2, cols := 15, pitch := 0, count := 1, rsv := [⟨7, false⟩] }
def plain (st : TileState) : Tile := { Tile.free with mapped := true, state := st, cols := 15 }
def tiled (t : Tile) : Group := { g0 with tiles := g0.tiles.set 63 t }

/-- An arrival of the default warp, and a reed write of another, wait in the queue of its ply. -/
def arriving : State := (quiet w0 g0).modPly 0 fun q =>
  { q with queue := [⟨40, 1, 9, .write 0 0 0, false⟩, ⟨41, 1, 4, .arrive 1 7 0 0 [4], false⟩] }

theorem witness_MembershipFetchResult :
    (∀ g ∈ [g0, tiled counted, { tiled counted with fetches := List.replicate 4 ⟨1, 63, 0⟩ },
        tiled { counted with count := 2 }, { g0 with named := g0.named.set 15 ⟨0, 3, none, 2, true⟩ }],
      (quiet w0 g).issue.snap = some w0 ∧ (quiet w0 g).group? w0.place.gid = some g) ∧ w0.guard x ≠ 0 ∧ w0.guard no = 0 ∧
    ((tiled counted).tiles[63] = counted ∧ counted.mapped = true ∧ counted.counted = true ∧
      (tiled counted).fetches.length < 4 ∧ counted.count.toNat + counted.rsv.length < counted.rows.toNat + 1 ∧
      4 ≤ (List.replicate 4 (⟨1, 63, 0⟩ : Fetch)).length ∧ (tiled { counted with count := 2 }).fetches.length < 4 ∧
      counted.rows.toNat + 1 ≤ ({ counted with count := 2 } : Tile).count.toNat + counted.rsv.length) ∧
    (7 : BitVec 4).toNat = (7 : Fin 8).val ∧
    ((quiet w0 g0).ops = [] ∧ ((quiet w0 g0).plies[coreDie w0.place.core]).queue = [] ∧ w0.sched.hold = none ∧
      ((arriving.plies[coreDie w0.place.core]).queue.map fun q =>
        match q.kind with
        | .arrive _ _ _ _ wids => wids.contains w0.place.wid
        | _ => false) = [false, true] ∧
      (∃ q ∈ (arriving.plies[coreDie w0.place.core]).queue, q.id ∈ [41]) ∧
      ¬∃ q ∈ (arriving.plies[coreDie w0.place.core]).queue, q.id ∈ [39]) ∧
    (let s : State := { quiet w0 g0 with
       ops := [{ inFlight with kind := .store, elems := inFlight.elems.map fun e => { e with loc := .reed 0 8 } }]
       issue := { (quiet w0 g0).issue with mark := 34 } }
     ∃ o ∈ s.ops, o.wid = w0.place.wid ∧ o.isReed = true ∧ o.writes = true ∧ o.id < s.issue.mark) := by
  refine ⟨?_, guards.1, guards.2.1, by decide +kernel, rfl,
    ⟨rfl, by decide +kernel, rfl, by decide +kernel, by decide +kernel, by decide +kernel⟩, by decide +kernel⟩
  intro g hg
  refine ⟨rfl, ?_⟩
  have hid : g.gid = w0.place.gid := by
    simp only [List.mem_cons, List.not_mem_nil, or_false] at hg
    rcases hg with h | h | h | h | h <;> (rw [h]; rfl)
  simp [State.group?, quiet, hid]

/-- The entries that the clauses about tiles are met by, each at the highest name. -/
def armed : Tile := { plain .filling with arm := true }

/-- What the clauses of ITSET, TDEF, TFREE and TSTAT ask of an entry. -/
def tileIdle (t : Tile) : Prop := if t.counted then t.rsv = [] else t.state = .empty ∨ t.state = .ready
def tileMappable (t : Tile) : Prop := if t.counted then t.count = 0 ∧ t.rsv = [] else t.state = .empty
def tileFree (t : Tile) : Prop :=
  if t.counted then t.count ≠ 0 ∧ t.outRead = 0 ∧ t.loomRead = 0
  else ((t.state = .ready ∨ t.state = .empty) ∧ t.loomRead = 0) ∨ (t.arm = true ∧ t.rsv = [])

/-- A layout word: one row of 16 bytes whose row ends with scratch, and one that ends behind it. -/
def layoutWord (n : Nat) : Word64 := BitVec.ofNat 64 (15 * 2 ^ 40 + (w0.env.scratch - n) / 16)

/-- What TDEF makes of the operands, and whether it obeys R184. -/
def newTile (a b : Word64) (k m : Bool) : Tile :=
  { Tile.free with
    mapped := true, counted := k, arm := m, state := if m then .filling else .empty
    fmt := BitVec.ofNat 4 b.toNat, rows := BitVec.ofNat 8 (a.toNat / 2 ^ 56)
    cols := BitVec.ofNat 16 (a.toNat / 2 ^ 40), pitch := BitVec.ofNat 12 (a.toNat / 2 ^ 28)
    base := BitVec.ofNat 15 a.toNat }
def sound (a b : Word64) (k m : Bool) : Prop :=
  b.toNat < 16 ∧ a.toNat / 2 ^ 15 % 2 ^ 13 = 0 ∧ (newTile a b k m).layoutOk w0.env.scratch = true

theorem witness_TileMapResult :
    (∀ t ∈ [Tile.free, plain .empty, plain .ready, plain .filling, counted, armed],
      Quiet (quiet w0 (tiled t)) w0 ∧ GroupIs (quiet w0 (tiled t)) w0 (tiled t) ∧ (tiled t).tiles[63] = t) ∧
    (w0.guard x ≠ 0 ∧ w0.faults = [] ∧ (lastScratch 64).toNat % 64 = 0 ∧ (lastScratch 64).toNat + 64 ≤ w0.env.scratch ∧
      (lastScratch 63).toNat % 64 ≠ 0 ∧ w0.env.scratch < (lastScratch 0).toNat + 64 ∧
      Iter.okBytes (List.replicate 64 0) = true ∧ Iter.okBytes (List.replicate 64 1) = false) ∧
    (tileIdle (plain .ready) ∧ ¬tileIdle (plain .filling) ∧ ¬tileIdle counted ∧
      tileMappable (plain .empty) ∧ ¬tileMappable (plain .ready) ∧ ¬tileMappable counted ∧
      tileFree (plain .ready) ∧ tileFree armed ∧ tileFree counted ∧ ¬tileFree (plain .filling)) ∧
    (sound (layoutWord 16) 0 false true ∧ ¬sound (layoutWord 0) 0 false true ∧ ¬sound (layoutWord 16) 16 true false) ∧
    (counted.count ≠ 0 ∧ counted.rsv.length < 2 ^ 9 ∧
      counted.base.toNat + counted.head.toNat * (counted.pitch.toNat + 1) < 2 ^ 28 ∧
      ({ counted with count := 0 } : Tile).count = 0) := by
  refine ⟨fun t _ => ⟨quiet_of _ _ rfl rfl rfl rfl (by decide +kernel) (Nat.le_refl _), groupIs_of _ _ _ rfl rfl, ?_⟩, ?_, ?_, ?_, ?_⟩
  · simp [tiled]
  · decide +kernel
  · unfold tileIdle tileMappable tileFree; decide +kernel
  · unfold sound; decide +kernel
  · decide +kernel

/-- A second group on the core with every entry mapped: the core's table is full. -/
def full : State :=
  { quiet w0 g0 with
    groups := [g0, { Group.start 9 2 1 1 0 1 0 [0] [] 0 with tiles := Vector.replicate 64 (plain .empty) }] }

theorem witness_TileMapResult_full : Quiet full w0 ∧ GroupIs full w0 g0 ∧ (g0.tiles[63]).mapped = false ∧
    64 ≤ (full.groups.map fun h =>
      if h.core = w0.place.core ∧ full.residentGroup h = true then h.tiles.toList.countP Tile.mapped else 0).sum :=
  ⟨⟨rfl, rfl, rfl, by decide +kernel, (fun _ h => nomatch h), rfl, rfl, rfl, rfl, rfl, rfl, rfl, by decide +kernel,
      (fun _ h => nomatch h), Nat.le_refl _⟩,
    ⟨List.mem_cons_self, rfl, fun h hh hg => by
      rcases List.mem_cons.mp hh with e | e
      · exact e
      · rw [List.mem_singleton.mp e] at hg; exact absurd hg (by decide +kernel)⟩,
    by decide +kernel, by decide +kernel⟩

/-- A plain entry with a hole, one whose iterator has another format, and an own cluster in a mask. -/
def holed : Tile := { plain .ready with holes := 1 }
def other : Tile := { plain .ready with iter := { Iter.zero with fmt := 7 } }

theorem witness_CopyIssueResult :
    (∀ t ∈ [Tile.free, other, holed, plain .empty, plain .ready, plain .filling, plain .draining, counted],
      Quiet (quiet w0 (tiled t)) w0 ∧ GroupIs (quiet w0 (tiled t)) w0 (tiled t) ∧ (tiled t).tiles[63] = t) ∧
    (w0.guard x ≠ 0 ∧ w0.faults = [] ∧ Tile.free.mapped = false ∧ other.mapped = true ∧ other.iter.fmt ≠ other.fmt ∧
      holed.iter.fmt = holed.fmt ∧ holed.counted = false ∧ holed.holes ≠ 0 ∧ holed.fmt.toNat < 8 ∧
      counted.iter.fmt = counted.fmt ∧ counted.count.toNat + counted.rsv.length < counted.rows.toNat + 1 ∧
      counted.count ≠ 0 ∧
      ¬(({ counted with count := 2 } : Tile).count.toNat + counted.rsv.length < counted.rows.toNat + 1)) ∧
    (((setReg 1 1 w0).sget 1).toNat % 2 ^ 48 / 2 ^ (w0.place.core / 4 % 48) % 2 = 1 ∧
      ¬((w0.sget 1).toNat % 2 ^ 48 / 2 ^ (w0.place.core / 4 % 48) % 2 = 1)) := by
  refine ⟨fun t _ => ⟨quiet_of _ _ rfl rfl rfl rfl (by decide +kernel) (Nat.le_refl _), groupIs_of _ _ _ rfl rfl, ?_⟩, ?_, ?_⟩
  · simp [tiled]
  · decide +kernel
  · decide +kernel

/-- Entries that the loom words read and write: E4M3 for an A and a B operand, and FP32 rows for a drain. -/
def operandTile (st : TileState) : Tile := { plain st with fmt := 8, rows := 127, cols := 127, pitch := 7 }
def drainTile (st : TileState) : Tile := { plain st with fmt := 2, rows := 7, cols := 127, pitch := 31 }
def drainSlots : Tile := { drainTile .empty with counted := true, rows := 1, pitch := 255 }

/-- A request of the default warp at the loom of its cluster. -/
def request (i : Instr) : LoomReq := { State.reset.loomReq i with id := 50, op := 51, wid := 4, gid := 3 }

/-- 28 requests wait in the table of the cluster. -/
def crowded (t : Tile) : State :=
  { quiet w0 (tiled t) with looms := [(0, { Loom.start with reqs := List.replicate 28 (request (.nop x)) })] }

theorem witness_LoomWordResult :
    (∀ t ∈ [Tile.free, operandTile .ready, operandTile .empty, drainTile .empty, drainSlots],
      Quiet (crowded t) w0 ∧ GroupIs (crowded t) w0 (tiled t) ∧ (tiled t).tiles[63] = t ∧
      ((loomAt (crowded t) (w0.place.core / 4)).reqs.countP fun r => !r.granted) ≤ 28) ∧
    (w0.guard x ≠ 0 ∧ w0.faults = [] ∧ (operandTile .ready).serves (aEntry .e4m3) 32 = true ∧
      (operandTile .ready).serves (bEntry .e4m3) 128 = true ∧ (operandTile .ready).counted = false ∧
      (operandTile .empty).state ≠ .ready ∧ Tile.free.mapped = false) ∧
    ((drainTile .empty).serves 2 8 = true ∧ (drainTile .empty).cols = 127 ∧ (drainTile .empty).rows = 7 ∧
      drainSlots.serves 2 8 = true ∧ drainSlots.cols = 127 ∧
      drainSlots.count.toNat + drainSlots.rsv.length < drainSlots.rows.toNat + 1) := by
  refine ⟨fun t _ => ⟨⟨rfl, rfl, rfl, by decide +kernel, (fun _ h => nomatch h), rfl, rfl, rfl, rfl, rfl, rfl, rfl,
    by show w0.sched.state ≠ .saved; decide +kernel, (fun _ h => nomatch h), Nat.le_refl _⟩,
    groupIs_of _ _ _ rfl rfl, ?_, ?_⟩, ?_, ?_⟩
  · simp [tiled]
  · show ((loomAt (crowded Tile.free) (w0.place.core / 4)).reqs.countP fun r => !r.granted) ≤ 28
    decide +kernel
  · decide +kernel
  · decide +kernel

theorem witness_BadRegisterWord :
    let s := { quiet w0 g0 with regPoison := [.lane w0.place.wid (BitVec.ofNat 8 31) 31] }
    s.issue.snap = some w0 ∧ s.w.place = w0.place ∧ s.w.faults = [] ∧ (w0.guard x).getLsbD (31 : BitVec 5).toNat = true ∧
    w0.vidx x (v 31) < 256 ∧ w0.vidx x (v 0) ≠ w0.vidx x (v 31) ∧ w0.vidx x (v 30) ≠ w0.vidx x (v 31) ∧
    s.regPoison = [.lane w0.place.wid (BitVec.ofNat 8 (w0.vidx x (v 31))) 31] :=
  ⟨rfl, rfl, rfl, by decide +kernel, by decide +kernel, by decide +kernel, by decide +kernel, rfl⟩

/-- The default warp alone, with one request at its loom, whose active plane fits E4M3 operands, and an entry. -/
def loomGroup (t : Tile) : Group := { tiled t with accs := List.replicate 4 AccTile.zero }
def looming (w : Warp) (t : Tile) (r : LoomReq) : State :=
  { alone w (loomGroup t) with looms := [(0, { Loom.start with gen := 5, reqs := [r] })] }

/-- A request that has been granted, and its warp. -/
def grantedReq (i : Instr) : LoomReq := { request i with granted := true, pass := 50 }
def drainWarp : Warp := { w0 with cnt := { Counters.zero with tc := [⟨51, false⟩] } }

/-- A state whose TLBs hold the entries of the page of the default warp, the leaf with its last hit, and whose mappings
have named the homes of two granules. -/
def tabled (s : State) : State :=
  { s with
    tlb := [⟨0, 1, 2, 0, 0xFE00000000000000, 0, 0, 255⟩, ⟨0, 1, 3, 0, 0x8000000000006000, 0, 0, 0⟩,
      ⟨0, 1, 4, 0, 0x8000000000004000, 0, 0, 0⟩]
    slices := { s.slices with homes := [⟨0x3FFF0, 0, [], []⟩, ⟨0x3FFF1, 0, [], []⟩] } }

/-- The request of MSAV or MRST before and after its grant, and the state in which the grant checks its image. -/
def imageReq (i : Instr) : LoomReq := { request i with scalar := 0x3FFF0000 }
def imageDone (i : Instr) : LoomReq := { imageReq i with granted := true, pass := (imageReq i).id }
def imaging (i : Instr) : State :=
  let s := tabled (looming w0 Tile.free (imageReq i))
  setLoom s 0 { loomAt s 0 with reqs := [imageDone i] }

/-- The words that store and load an image. -/
def imagers : List (Access × Instr) := [(.store, .msav x 0 1), (.load, .mrst x 0 1)]

theorem xlat_eq {s t : State} (h : XlatOnly s t)
    (e : t.mem = s.mem ∧ t.tlb = s.tlb ∧ t.draws = s.draws ∧ t.slices = s.slices ∧ t.l1 = s.l1 ∧ t.out = s.out) : t = s := by
  obtain ⟨e1, e2, e3, e4, e5, e6⟩ := e
  rw [h.1, e1, e2, e3, e4, e5, e6]

/-- The first address of a granule of the image is translated without a change. -/
theorem imaging_first (n : Nat) (hn : n = 0x3FFF0000 ∨ n = 0x3FFF1000) : ∀ p ∈ imagers,
    (imaging p.2).translate w0.xctx p.1 (BitVec.ofNat 64 n) true = (.ok n (some 0), imaging p.2) ∧
      (imaging p.2).atHome n (some 0) = (n, imaging p.2) := by
  have key : ∀ (i : Instr) (k : Access) (n : Nat),
      (match (imaging i).translate w0.xctx k (BitVec.ofNat 64 n) true with
        | (o, t) => decide (o = .ok n (some 0) ∧ t.mem = (imaging i).mem ∧ t.tlb = (imaging i).tlb ∧
            t.draws = (imaging i).draws ∧ t.slices = (imaging i).slices ∧ t.l1 = (imaging i).l1 ∧
            t.out = (imaging i).out)) = true →
      (imaging i).translate w0.xctx k (BitVec.ofNat 64 n) true = (.ok n (some 0), imaging i) := by
    intro i k n h
    have hx := (imaging i).translate_only w0.xctx k (BitVec.ofNat 64 n) true
    revert h hx
    cases (imaging i).translate w0.xctx k (BitVec.ofNat 64 n) true with
    | mk o t =>
      intro h hx
      obtain ⟨e, r⟩ := of_decide_eq_true h
      have q := xlat_eq hx r
      dsimp only at q
      rw [e, q]
  simp only [imagers, List.forall_mem_cons, List.not_mem_nil, false_implies, implies_true, and_true]
  rcases hn with rfl | rfl <;>
    exact ⟨⟨key _ _ _ (by decide +kernel), rfl⟩, key _ _ _ (by decide +kernel), rfl⟩

/-- The fates of an image whose elements are all translated without a change. -/
theorem imageChecks_fixed {s : State} {w : Warp} {k : Access} {a : Word64} {f : Nat → Chk}
    (h : ∀ i, i < 1056 → s.resolveVa w k (a + BitVec.ofNat 64 (4 * i)) true = (f i, s)) :
    s.imageChecks w k a = ((List.range 1056).map fun i => (i, f i), s.oneHit s.tlb) := by
  have go : ∀ (l : List Nat), (∀ i ∈ l, i < 1056) → ∀ cs : List (Nat × Chk),
      l.foldl (fun (r : List (Nat × Chk) × State) i =>
        let c := r.2.resolveVa w k (a + BitVec.ofNat 64 (4 * i)) true
        (r.1 ++ [(i, c.1)], c.2)) (cs, s) = (cs ++ l.map fun i => (i, f i), s) := by
    intro l
    induction l with
    | nil => intro _ cs; rw [List.map_nil, List.append_nil]; rfl
    | cons i l ih =>
      intro hl cs
      rw [List.foldl_cons]
      dsimp only
      rw [h i (hl i List.mem_cons_self), ih (fun j hj => hl j (List.mem_cons_of_mem _ hj)), List.append_assoc]
      rfl
  unfold State.imageChecks
  rw [go _ (fun i hi => List.mem_range.mp hi) []]
  rfl

theorem image_at (k : Access) (i : Instr) (hp : (k, i) ∈ imagers) :
    ImageAt (imaging i) w0 k 0x3FFF0000 (fun j => 0x3FFF0000 + 4 * j) ((imaging i).oneHit (imaging i).tlb) := by
  have hf : ∀ j, j < 1056 → (imaging i).resolveVa w0 k (0x3FFF0000 + BitVec.ofNat 64 (4 * j)) true =
      (.ok (.phys (0x3FFF0000 + 4 * j)) (some 0) (0x3FFF0000 + BitVec.ofNat 64 (4 * j)), imaging i) := by
    intro j hj
    have hv : (0x3FFF0000 + BitVec.ofNat 64 (4 * j) : Word64).toNat = 0x3FFF0000 + 4 * j := by
      have e : (0x3FFF0000 : Word64).toNat = 0x3FFF0000 := rfl
      rw [BitVec.toNat_add, e, BitVec.toNat_ofNat]
      omega
    by_cases hg : j < 1024
    · obtain ⟨ht, hh⟩ := imaging_first 0x3FFF0000 (.inl rfl) (k, i) hp
      have r := State.resolveVa_granule (va := 0x3FFF0000 + BitVec.ofNat 64 (4 * j))
        (by rw [hv, BitVec.toNat_ofNat]; omega) _ w0 k true 0 (by decide) ht hh
      rw [r, hv, BitVec.toNat_ofNat]
      congr 3
      omega
    · obtain ⟨ht, hh⟩ := imaging_first 0x3FFF1000 (.inr rfl) (k, i) hp
      have r := State.resolveVa_granule (va := 0x3FFF0000 + BitVec.ofNat 64 (4 * j))
        (by rw [hv, BitVec.toNat_ofNat]; omega) _ w0 k true 0 (by decide) ht hh
      rw [r, hv, BitVec.toNat_ofNat]
      congr 3
      omega
  have e := imageChecks_fixed hf
  unfold ImageAt
  rw [e]
  refine ⟨rfl, by rw [List.length_map, List.length_range], fun j hj => ?_, fun j n _ _ _ => ?_⟩
  · refine ⟨?_, some 0, 0x3FFF0000 + BitVec.ofNat 64 (4 * j), ?_⟩
    · dsimp only
      omega
    · rw [List.getElem?_map, List.getElem?_range hj]
      rfl
  · dsimp only
    omega

theorem witness_LoomEventResult :
    (∀ (t : Tile) (i : Instr), Alone (looming w0 t (request i)) w0 ∧ LoneReq (looming w0 t (request i)) 0 (request i) ∧
      GroupIs (looming w0 t (request i)) w0 (loomGroup t) ∧ (request i).wid = w0.place.wid ∧
      (request i).gid = w0.place.gid ∧ (request i).granted = false ∧ (request i).quarter = none ∧
      (request i).remote = [] ∧ accAt (looming w0 t (request i)) (request i).gid 0 = some AccTile.zero) ∧
    ((loomGroup (drainTile .filling)).tiles[63] = drainTile .filling ∧ w0.faults = [] ∧ (1 : Word64).toNat % 256 ≠ 0 ∧
      (0x3FFF0000 : Word64).toNat % 256 = 0 ∧ w0.env.ordered = false) ∧
    (∀ p ∈ imagers, let i := p.2
      (imageReq i).granted = false ∧ LoneReq (tabled (looming w0 Tile.free (imageReq i))) 0 (imageReq i) ∧
      Alone (tabled (looming w0 Tile.free (imageReq i))) w0 ∧ (imaging i).held = [] ∧
      let z := (imaging i).oneHit (imaging i).tlb
      ImageAt (imaging i) w0 p.1 0x3FFF0000 (fun j => 0x3FFF0000 + 4 * j) z ∧
        z.l1 = [] ∧ z.slices.twins = [] ∧ Memory.wf z.mem = true) ∧
    (∀ (f : AFmt) (t : Tile),
      StreamOf w0 (loomGroup t) (request (.mmq x 0 (v 0) 1 f)) 0 f false (regK f)
        (fun i => w0.loomRow f ((request (.mmq x 0 (v 0) 1 f)).vreg + rowRegs f * i)) none ∧
      StreamOf w0 (loomGroup t) (request (.mmqt x 0 (v 0) 1 f)) 0 f true (regK f)
        (fun i => w0.loomRow f ((request (.mmqt x 0 (v 0) 1 f)).vreg + rowRegs f * i)) none ∧
      StreamOf w0 (loomGroup t) (request (.mmqTile x 0 63 1 f)) 0 f false (loomGroup t).tiles[63].ncols
        (entryRow (loomGroup t) (loomGroup t).tiles[63] none) (some 63) ∧
      StreamOf w0 (loomGroup t) (request (.mmqtTile x 0 63 1 f)) 0 f true (loomGroup t).tiles[63].ncols
        (entryRow (loomGroup t) (loomGroup t).tiles[63] none) (some 63)) ∧
    (2 ^ 31 < ((5 : BitVec 32) - 6).toNat ∧ 1 ≤ ((5 : BitVec 32) - 4).toNat ∧ ((5 : BitVec 32) - 4).toNat ≤ 2 ^ 31 ∧
      ((5 : BitVec 32) - (5 - 2 ^ 31)).toNat ≤ 2 ^ 31 ∧ ((5 : BitVec 32) - 5).toNat = 0) ∧
    (sameFamily .e4m3 Loom.start.active.fmt = true ∧ Loom.start.active.k = regK .e4m3 ∧ regK .e4m3 = 128 ∧
      (operandTile .ready).ncols = Loom.start.active.k ∧
      ¬(sameFamily .bf16 Loom.start.active.fmt = true ∧ Loom.start.active.k = regK .bf16)) ∧
    (∀ (t : Tile) (i : Instr) (r : LoomReq), r = grantedReq i → Alone (looming drainWarp t r) drainWarp ∧
      LoneReq (looming drainWarp t r) 0 r ∧ GroupIs (looming drainWarp t r) drainWarp (loomGroup t) ∧
      r.granted = true ∧ r.remote = [] ∧ r.pass = r.id ∧ r.streamed = false ∧
      drainWarp.cnt = { Counters.zero with tc := [⟨r.op, false⟩] } ∧ drainWarp.aside = Counters.zero ∧
      r.scratch = (loomGroup t).scratch ∧ r.fencedMem = (loomGroup t).scratch ∧ r.slot = none) ∧
    ((grantedReq (.nop x)).issued = fileOf drainWarp ∧ (grantedReq (.nop x)).fenced = fileOf drainWarp) ∧
    (224 + (List.replicate 32 (Vector.replicate 32 (1 : Word32))).length ≤ 256 ∧
      ([] : List Word64).length ≤ (List.replicate 32 (Vector.replicate 32 (1 : Word32))).length ∧
      (List.replicate 8 (1 : Word64)).length ≤ (List.replicate 8 (Vector.replicate 32 (1 : Word32))).length ∧
      255 + [Vector.replicate 32 (1 : Word32)].length ≤ 256) ∧
    (∀ t ∈ [drainTile .filling, { drainSlots with rsv := [⟨51, false⟩] }],
      Memory.wf (loomGroup t).scratch = true ∧ (t.counted = true → t.rsv = [⟨(grantedReq (.nop x)).op, false⟩]) ∧
      ∀ i : Nat, i < 7 → t.operandRow (some 0) i + 512 ≤ t.operandRow (some 0) (i + 1)) ∧
    (operandTile .ready).serves (bEntry .e4m3) 128 = true := by
  refine ⟨fun t i => ⟨⟨rfl, by decide +kernel, rfl, by show w0.sched.state ≠ .saved; decide +kernel, rfl, rfl⟩, ⟨rfl, Nat.le_refl 1⟩,
      groupIs_of _ _ _ rfl rfl, rfl, rfl, rfl, rfl, rfl, rfl⟩, by decide +kernel, ?_,
    fun f t => ⟨.inl ⟨x, v 0, 1, .inl ⟨rfl, rfl⟩, rfl, rfl, rfl⟩, .inl ⟨x, v 0, 1, .inr ⟨rfl, rfl⟩, rfl, rfl, rfl⟩,
      .inr ⟨x, 63, 1, .inl ⟨rfl, rfl⟩, rfl, rfl, rfl⟩, .inr ⟨x, 63, 1, .inr ⟨rfl, rfl⟩, rfl, rfl, rfl⟩⟩,
    by decide +kernel, by decide +kernel,
    fun t i r e => by
      subst e
      exact ⟨⟨rfl, by decide +kernel, rfl, by show w0.sched.state ≠ .saved; decide +kernel, rfl, rfl⟩,
        ⟨rfl, Nat.le_refl 1⟩, groupIs_of _ _ _ rfl rfl, rfl, rfl, rfl, rfl, rfl, rfl, rfl, rfl, rfl⟩,
    by decide +kernel, by decide +kernel, by decide +kernel, by decide +kernel⟩
  exact fun p hp => ⟨rfl, ⟨rfl, Nat.le_refl 1⟩, ⟨rfl, by decide +kernel, rfl, by show w0.sched.state ≠ .saved; decide +kernel, rfl, rfl⟩,
    rfl, image_at p.1 p.2 hp, rfl, rfl, by show Memory.wf base.mem = true; decide +kernel⟩

/-- A copy of two bytes from the last vault of a die into a row, and the entry that it fills. -/
def filling : Tile :=
  { plain .filling with
    rows := 0, cols := 1
    iter := { Iter.zero with vault := true, base := BitVec.ofNat 64 (47 * 2 ^ 25)
                             dims := Iter.zero.dims.set 0 { Iter.zero.dims[0] with ext := 1, stride := 1 } } }
def copying (running : Bool) (next : Nat) : Copy :=
  { id := 500, wid := 4, gid := 3, bid := 2, cluster := 0, seq := 4, name := 63, kind := .inn, src := filling, tr := false
    filling := false, slot := none, running := running, paused := false, next := next, total := 2, resume := none
    oldHoles := 0, holes := 0, stopped := false, xlat := .none, used := [], sent := none, lines := [], origin := 0
    kept := false, before := [] }
def shuttling (w : Warp) (c : Copy) : State := { alone w (tiled filling) with copies := [c] }
def grantedWarp : Warp := { w0 with env := { w0.env with vply := 0xFF, vlo := 47, vhi := 47 } }

theorem witness_CopyEventResult :
    (∀ (b : Bool) (n : Nat), Alone (shuttling grantedWarp (copying b n)) grantedWarp ∧
      (copying b n).sent = none ∧ (copying b n).before = [] ∧ (shuttling grantedWarp (copying b n)).held = [] ∧
      GroupIs (shuttling grantedWarp (copying b n)) grantedWarp (tiled filling)) ∧
    (tiled filling).tiles[63] = filling ∧
    (filling.iter.vault = true ∧ filling.fmt = filling.iter.fmt ∧ filling.iter.fmt = 0 ∧ filling.fmt = 0 ∧
      filling.rowBytes ≤ filling.pitchBytes ∧ (copying true 1).next < (copying true 1).total ∧
      (copying true 1).total ≤ filling.nrows * filling.ncols ∧ (copying true 2).next = (copying true 2).total) ∧
    (let at_ := (filling.iter.base + BitVec.ofInt 64 (filling.iter.position 1)).toNat
     at_ / 2 ^ 34 = 0 ∧ at_ / 2 ^ 25 % 64 ≤ 47 ∧ grantedWarp.env.vply.getLsbD (at_ / 2 ^ 31) = true ∧
       grantedWarp.env.vlo.toNat ≤ at_ / 2 ^ 25 % 64 ∧ at_ / 2 ^ 25 % 64 ≤ grantedWarp.env.vhi.toNat ∧
       at_ / 2 ^ 31 = 0) ∧
    (let s := shuttling grantedWarp (copying true 1)
     (s.plies[(0 : Die)]).state ≠ .sleep ∧ (s.plies[(0 : Die)]).wake = .none ∧
       ((s.modPly 0 fun q => { q with state := .sleep }).plies[(0 : Die)]).state = .sleep) ∧
    ({ grantedWarp with cnt := { Counters.zero with cc := [⟨500, false⟩] } } : Warp).cnt =
      { Counters.zero with cc := [⟨500, false⟩] } := by
  refine ⟨fun b n => ⟨⟨rfl, by decide +kernel, rfl, by decide +kernel, rfl, rfl⟩, rfl, rfl, rfl, groupIs_of _ _ _ rfl rfl⟩,
    ?_, by decide +kernel, by decide +kernel, by decide +kernel, rfl⟩
  simp [tiled]

/-- A sweep of the partition of the default warp that its TFENCE waits for, its counts at their ends. -/
def sweep : Sweep := ⟨70, w0.env.part, .tfence w0.place.wid, true, 0xFFFFFFFF, 0xFFFFFFFE, [], []⟩
def sweeping : Warp := { w0 with busy := .sweep 70 63 }

def swept : State := { alone sweeping g0 with sweeps := [sweep], ops := [inFlight] }.modPart w0.env.part fun p => { p with sweeps := 1 }

/-- A page request of the default warp, whose queue is full but for one entry. -/
def asking : Warp := { w0 with busy := .pgreq 0x1230000 0x77 }
def queue : State :=
  let s := (alone asking g0).modCtx w0.env.beam w0.env.ctx fun k => { k with pgqBase := 0x40, pgqSize := 0 }
  { s with mem := cellPutWord (cellPutWord s.mem 0x40000 4 0xFFFFFFFE) 0x40008 4 (0xFFFFFFFE - 125) }
def queueCtx : XCtx := { asking.xctx with shadow := none }
/-- A translation, where its granule lies. -/
def homed (r : XOut × State) : Nat × State :=
  match r.1 with
  | .ok pa h => r.2.atHome pa h
  | _ => (0, r.2)

def queueHead := queue.translate queueCtx .store 0x40000 true
def queueRow := (homed queueHead).2.translate queueCtx .store (0x40000 + BitVec.ofNat 64 (0x40 + 32 * (0xFFFFFFFE % 126))) true

theorem homed_ok {r : XOut × State} {a : Nat}
    (h : (match r.1 with
      | .ok pa d => decide (pa = a ∧ (r.2.atHome pa d).1 = a)
      | _ => false) = true) :
    ∃ d, r = (.ok a d, r.2) ∧ r.2.atHome a d = (a, (homed r).2) := by
  obtain ⟨o, t⟩ := r
  cases o with
  | ok pa d =>
    obtain ⟨rfl, e⟩ := of_decide_eq_true h
    exact ⟨d, rfl, pair e⟩
  | nonres => cases h
  | protect => cases h

theorem homed_only {s : State} {r : XOut × State} (h : XlatOnly s r.2) : XlatOnly s (homed r).2 := by
  unfold homed
  split
  · exact h.trans (State.atHome_only _ _ _)
  · exact h

/-- The access of the sweep, counted and ready to be translated again. -/
def visitedSweep : Sweep :=
  { sweep with
    cutAcc := sweep.cutAcc + 1
    visited := (swept.sliceAt (.phys 0x999)).elim sweep.visited fun v =>
      if v ∈ sweep.visited then sweep.visited else v :: sweep.visited }
def askedAgain : State :=
  { ({ swept with sweeps := [visitedSweep] } : State).askHomes inFlight inFlight.elems with
    ops := [{ inFlight with asked := [] }] }

/-- A warp that waits at the last word of scratch. -/
def waiting : Warp :=
  { w0 with sched := { w0.sched with hold := some .mwait }, mwAddr := BitVec.ofNat 64 (2 ^ 61 + w0.env.scratch - 4) }

theorem witness_FlightEventResult :
    (let s := { alone sweeping g0 with sweeps := [sweep] }
     Alone s sweeping ∧ s.copies = [] ∧ s.ops = [] ∧ sweep.running = true ∧ sweep.who = .tfence sweeping.place.wid ∧
       sweeping.busy = .sweep sweep.id 63) ∧
    (Alone swept sweeping ∧ swept.copies = [] ∧ swept.sweeps = [sweep] ∧ swept.ops = [inFlight] ∧
      inFlight.wid = sweeping.place.wid ∧ inFlight.part = sweep.part ∧
      inFlight.sweep < (swept.part inFlight.part).sweeps ∧ sweep.cutAcc.toNat + 1 < 2 ^ 32 ∧
      inFlight.l1 = none ∧ inFlight.chunks = [] ∧
      ∃ a h s', askedAgain.resolveVa sweeping .load 0x3FFFFFFC true = (.ok a h 0x3FFFFFFC, s') ∧
        s'.ops = [{ inFlight with asked := [] }] ∧ s'.sweeps = [visitedSweep] ∧
        (s'.part inFlight.part).sweeps = (swept.part inFlight.part).sweeps) ∧
    ({ alone w0 g0 with tlbinvs := [⟨1, 0, 0, BitVec.allOnes 64⟩] } : State).tlbinvs = [⟨1, 0, 0, BitVec.allOnes 64⟩] ∧
    (Alone queue asking ∧ asking.busy = .pgreq 0x1230000 0x77 ∧
      (queue.ctx asking.env.beam asking.env.ctx).pgqBase.toNat * 2 ^ 12 = 0x40000 ∧
      (2 ^ (12 + (queue.ctx asking.env.beam asking.env.ctx).pgqSize.toNat) - 64) / 32 = 126 ∧
      wordAt (homed queueHead).2.mem 0x40000 4 = 0xFFFFFFFE ∧
      (∃ d, queueHead = (.ok 0x40000 d, queueHead.2) ∧ queueHead.2.atHome 0x40000 d = (0x40000, (homed queueHead).2)) ∧
      (let r := 0x40040 + 32 * (0xFFFFFFFE % 126)
       (∃ d, queueRow = (.ok r d, queueRow.2) ∧ queueRow.2.atHome r d = (r, (homed queueRow).2)) ∧
       isRemote 0x40000 = false ∧ isRemote r = false ∧ 0x40000 + 12 ≤ r) ∧
      (homed queueRow).2.w = queue.w ∧ (homed queueRow).2.slices.twins = [] ∧ (homed queueRow).2.l1 = [] ∧
      (0xFFFFFFFE + 2 ^ 32 - wordAt (homed queueHead).2.mem 0x40008 4) % 2 ^ 32 ≠ 126 ∧ 0xFFFFFFFE + 1 < 2 ^ 32 ∧
      Memory.wf (homed queueRow).2.mem = true) ∧
    (Alone (alone waiting g0) waiting ∧ GroupIs (alone waiting g0) waiting g0 ∧ (alone waiting g0).copies = [] ∧
      waiting.mwAddr.toNat / 2 ^ 60 = 2 ∧ waiting.mwAddr.toNat % 2 ^ 60 % 4 = 0 ∧
      waiting.mwAddr.toNat % 2 ^ 60 + 4 ≤ waiting.env.scratch) ∧
    (let b := { Bolt.placed with index := 3 }
     let l := { Launch.placed with desc := { Launch.placed.desc with attr := 1 }, retired := 3 }
     let s := { alone w0 g0 with bolts := [b], launches := [l] }
     Alone s w0 ∧ s.ops = [] ∧ b.bid = w0.place.bid ∧ s.launch? b.lid = some l ∧ l.desc.attr.getLsbD 0 = true ∧
       b.index.toNat ≤ l.retired ∧ b.save = .resident ∧ s.held = [] ∧ w0.exited = false ∧
       b.flushed + 1 ≤ ({ w0 with epoch := 1 } : Warp).epoch ∧ ¬b.flushed + 1 ≤ w0.epoch) := by
  have h1 := askedAgain.resolveVa_only sweeping .load 0x3FFFFFFC true
  have h2 := homed_only (queue.translate_only queueCtx .store 0x40000 true)
  have h3 := homed_only ((homed queueHead).2.translate_only queueCtx .store
    (0x40000 + BitVec.ofNat 64 (0x40 + 32 * (0xFFFFFFFE % 126))) true)
  refine ⟨⟨⟨rfl, by decide +kernel, rfl, by decide +kernel, rfl, rfl⟩, rfl, rfl, rfl, rfl, rfl⟩,
    ⟨⟨rfl, by decide +kernel, rfl, by decide +kernel, rfl, rfl⟩, rfl, rfl, rfl, rfl, rfl, by decide +kernel,
      by decide, rfl, rfl, .phys 0x3FFFFFFC, some 0, _, pair (by decide +kernel), h1.same _ fun _ _ _ _ _ _ => rfl,
      (h1.same _ fun _ _ _ _ _ _ => rfl).trans (by decide +kernel),
      (h1.same (fun t => (t.part inFlight.part).sweeps) fun _ _ _ _ _ _ => rfl).trans (by decide +kernel)⟩, rfl,
    ⟨⟨rfl, by decide +kernel, rfl, by decide +kernel, rfl, rfl⟩, rfl, by decide +kernel, by decide +kernel,
      by decide +kernel, homed_ok (by decide +kernel), ⟨homed_ok (by decide +kernel), by decide +kernel⟩,
      (h2.trans h3).same State.w fun _ _ _ _ _ _ => rfl, by decide +kernel⟩,
    ⟨⟨rfl, by decide +kernel, rfl, by decide +kernel, rfl, rfl⟩, groupIs_of _ _ _ rfl rfl, rfl, by decide +kernel,
      by decide +kernel, by decide +kernel⟩,
    ⟨rfl, by decide +kernel, rfl, by decide +kernel, rfl, rfl⟩, rfl, rfl, rfl, by decide +kernel, by decide +kernel, rfl,
      rfl, by decide +kernel, by decide +kernel, by decide +kernel⟩

/-- A warp that stands at the packet at an address, and fetches it. -/
def fetching : State := alone { w0 with pc := 0x10000, packet := none } g0

/-- The last of the eight active warps is blocked at a WAIT. -/
def jammed : State :=
  { crowd with w :=
      { crowd.w with cnt := { Counters.zero with lc := [⟨1, false⟩] }, sched := ⟨.active, 7, 7, true, some (.wait 0 0 0 0)⟩ } }

theorem head?_of {α : Type} {o : Option α} {p : α → Bool} (h : o.any p = true) : ∃ a, o = some a ∧ p a = true :=
  (Option.any_eq_true _ _).mp h

theorem witness_IssueSetResult :
    (let w := slotted .pending 0 5 0 (some .mwait) w0
     let s := alone w g0
     s.w = w ∧ w.place.wid ≠ 0 ∧ s.regPoison = [] ∧ s.rest = [] ∧ w.sched.state = .pending) ∧
    (let w := slotted .active 7 5 0 (some (.wait 0 0 0 0)) w0
     (alone w g0).w = w ∧ w.sched.state = .active ∧ w.sched.hold.elim false Hold.afterThreshold = true ∧
       (alone w g0).fewWarps 0 = true) ∧
    (jammed.w.place.wid ≠ 0 ∧ jammed.w.place.core = 0 ∧ jammed.regPoison = [] ∧ jammed.fewWarps 0 = false ∧
      (∃ a, jammed.blockedActive 0 = some a ∧ (!a.env.trace) = true) ∧
      ∃ v, (jammed.readyPending 0).head? = some v ∧ (v.place.slot == 8) = true) ∧
    (crowd.w.place.wid ≠ 0 ∧ crowd.regPoison = [] ∧ crowd.emptyPositions 0 = [] ∧ crowd.w.place.core = 0 ∧
      crowd.fewWarps 0 = false ∧ (∃ a as, sortBy Warp.older (crowd.coreWarps 0 .active) = a :: as ∧ (!a.env.trace) = true) ∧
      ∃ v, (crowd.readyPending 0)[Config.starved crowd.draws % (crowd.readyPending 0).length]? = some v) ∧
    (fetching.w.packet = none ∧ fetching.w.exited = false ∧ fetching.w.trap = none ∧
      fetching.w.sched.state ≠ .saved ∧
      (let r := fetching.fetchPacket fetching.w fetching.w.pc
       r = (.ok [0, 0, 0], r.2) ∧ r.2.w = fetching.w ∧ r.2.rest = [])) ∧
    (w0.sched.state ≠ .exiting ∧ ({ w0 with cnt := { Counters.zero with tc := [⟨1, true⟩] } } : Warp).cnt.isZero = false ∧
      (slotted .exiting 0 0 0 none w0).sched.state = .exiting ∧ (slotted .exiting 0 0 0 none w0).cnt = Counters.zero) := by
  have h := fetching.fetchPacket_only fetching.w fetching.w.pc
  have one : (crowd.readyPending 0).length = 1 := by decide +kernel
  refine ⟨⟨rfl, by decide +kernel, rfl, rfl, rfl⟩, ⟨rfl, rfl, rfl, by decide +kernel⟩,
    ⟨by decide +kernel, rfl, rfl, by decide +kernel, head?_of (by decide +kernel), head?_of (by decide +kernel)⟩,
    ⟨by decide +kernel, rfl, by decide +kernel, rfl, by decide +kernel, head_of (by decide +kernel), ?_⟩,
    ⟨rfl, rfl, rfl, by decide +kernel, ok_pair (by decide +kernel), h.same _ fun _ _ _ _ _ _ => rfl, h.same _ fun _ _ _ _ _ _ => rfl⟩,
    by decide +kernel, rfl, rfl, rfl⟩
  rw [one, Nat.mod_one]
  exact ⟨_, List.getElem?_eq_getElem (by omega)⟩

/-! A write of the host and what it starts, found by evaluating it. -/

theorem writes_of {s : State} {h : HostWrite} {r : Reg} {v : Nat} {k : WriteKind}
    (c : (s.regWrite h).any (fun w => decide (w.reg = r ∧ w.value = v ∧ w.port = h.port ∧ s.writeKind w = k)) = true) :
    Writes s h r v k := by
  obtain ⟨w, e, d⟩ := (Option.any_eq_true _ _).mp c
  exact ⟨w, e, of_decide_eq_true d⟩

/-- A write of the first port through BAR0. -/
def put (off size v : Nat) : HostWrite := ⟨0, .bar0, off, size, BitVec.ofNat 64 v⟩

/-- The default machine with no work. -/
def device : State := { base with w := Warp.free, launches := [], bolts := [], groups := [] }

/-- Context 0 runs a stream. -/
def streaming : State := device.modCtx 0 0 fun k => { k with tail := 8 }

theorem witness_HostRegisterResult :
    Writes device (put 0 4 31) .mchk 31 .plain ∧
    Writes device (put 0x21C 4 0xFFFFFFFF) .nonce (2 ^ 256 - 2 ^ 224) .plain ∧
    (∀ s ∈ [device, base], Writes s (put 0x10238 8 (2 ^ 64 - 1)) (.pmem 7) (2 ^ 64 - 1) .plain ∧
      Writes s (put 0x10500 8 (2 ^ 64 - 1)) (.trapv 0) (2 ^ 64 - 1) .plain ∧
      Writes s (put 0x10508 8 (2 ^ 64 - 1)) (.tfbase 0) (2 ^ 64 - 1) .plain ∧
      Writes s (put 0x10600 8 (2 ^ 64 - 1)) (.psave 0) (2 ^ 64 - 1) .plain) ∧
    device.partBusy 0 = false ∧ base.partBusy 0 = true ∧
    Writes device (put 0x100010 4 0xFFFF) (.schedCtl 0) 0xFFFF .plain ∧
    Writes device (put 0x300300 4 0x3FF) (.linkId 0) 0x3FF .plain ∧
    Writes device (put 0x401018 8 (2 ^ 64 - 1)) (.ctx 0 0 .pgq) (2 ^ 64 - 1) .plain ∧
    (Writes device (put 0x401008 8 (2 ^ 64 - 1)) (.ctx 0 0 .ring) (2 ^ 64 - 1) .plain ∧
      device.streamState 0 0 = .idle) ∧
    (Writes streaming (put 0x401008 8 0) (.ctx 0 0 .ring) 0 .plain ∧ streaming.streamState 0 0 = .running) ∧
    Writes device (put 0x10680 8 1) (.gkill 0) 1 .plain ∧ Writes device (put 0x100000 4 1) (.plyStatus 0) 1 .plain ∧
    device.regWrite (put 0 8 0) = none := by
  refine ⟨writes_of (by decide +kernel), writes_of (by decide +kernel), ?_, by decide +kernel, by decide +kernel,
    writes_of (by decide +kernel), writes_of (by decide +kernel), writes_of (by decide +kernel),
    ⟨writes_of (by decide +kernel), by decide +kernel⟩, ⟨writes_of (by decide +kernel), by decide +kernel⟩,
    writes_of (by decide +kernel), writes_of (by decide +kernel), by decide +kernel⟩
  simp only [List.forall_mem_cons, List.not_mem_nil, false_implies, implies_true, and_true]
  exact ⟨⟨writes_of (by decide +kernel), writes_of (by decide +kernel), writes_of (by decide +kernel),
    writes_of (by decide +kernel)⟩, writes_of (by decide +kernel), writes_of (by decide +kernel),
    writes_of (by decide +kernel), writes_of (by decide +kernel)⟩

/-- No partition is enabled, as after reset. -/
def bare : State := { device with parts := Vector.replicate 8 PartRegs.reset }

/-- The stream of context 0 has halted. -/
def stopped : State := device.modCtx 0 0 fun k => { k with halted := true }

theorem witness_ContextControlResult :
    (Writes device (put 0x401020 4 0xFF8) (.ctx 0 0 .tail) 0xFF8 .tail ∧
      Writes device (put 0x401020 4 0x1000) (.ctx 0 0 .tail) 0x1000 .tail ∧
      (device.ctx 0 0).ringSize = 0 ∧ bits 0xFF8 0 20 % 8 = 0 ∧ bits 0xFF8 0 20 < 2 ^ 12 ∧ ¬bits 0x1000 0 20 < 2 ^ 12) ∧
    (Writes stopped (put 0x401024 4 8) (.ctx 0 0 .head) 8 .head ∧ (stopped.ctx 0 0).halted = true ∧
      Writes device (put 0x401024 4 8) (.ctx 0 0 .head) 8 .head ∧ (device.ctx 0 0).halted = false) ∧
    (Writes device (put 0x401F00 4 (2 ^ 31)) (.ctx 0 15 .bind) (2 ^ 31) .bindOn ∧ (device.part 0).en = true ∧
      Writes device (put 0x411F00 4 (2 ^ 31)) (.ctx 1 15 .bind) (2 ^ 31) .bindOn) ∧
    (Writes device (put 0x401000 4 7) (.ctx 0 0 .bind) 7 .bindOff ∧ (device.ctx 0 0).cmds = [] ∧
      (device.ctx 0 0).vec = 0 ∧ (device.ctx 0 0).en = true) ∧
    (Writes bare (put 0x10100 4 (2 ^ 31 + 0x301)) (.part 0) (2 ^ 31 + 0x301) .part ∧
      (List.finRange 8).all (fun q => !(bare.part q).en) = true ∧ bare.launches = [] ∧ bare.groups = [] ∧
      (∀ e : Beam, ∀ i : Fin 64, ((bare.beam e).reed.slots[i]).owned = false) ∧ bare.dev.plyFail = 0 ∧
      (∀ e ∈ bare.tlb, e.part ≠ 0) ∧
      (0 : PartN).val % 2 ^ bits (2 ^ 31 + 0x301) 8 2 = 0 ∧ (2 ^ 31 + 0x301).testBit 31 = true) := by
  refine ⟨⟨writes_of (by decide +kernel), writes_of (by decide +kernel), by decide +kernel, by decide, by decide, by decide⟩,
    ⟨writes_of (by decide +kernel), by decide +kernel, writes_of (by decide +kernel), by decide +kernel⟩,
    ⟨writes_of (by decide +kernel), by decide +kernel, writes_of (by decide +kernel)⟩,
    ⟨writes_of (by decide +kernel), by decide +kernel, by decide +kernel, by decide +kernel⟩,
    ⟨writes_of (by decide +kernel), by decide +kernel, rfl, rfl, by decide +kernel, by decide +kernel, by decide⟩⟩

/-! Streams of context 0, whose ring of 4 KiB stands at 0x30000; each begins in the last word of the ring, so
that its second word is the first of the ring. -/

def stream (n : List Nest) (ws : List Nat) (s : State) : State :=
  let k := s.modCtx 0 0 fun k =>
    { k with ringBase := 0x30, head := 0xFF8, tail := BitVec.ofNat 20 (8 * (ws.length - 1)), nest := n }
  { k with mem := ws.zipIdx.foldl (fun m x => cellPutWord m (0x30000 + (0xFF8 + 8 * x.2) % 4096) 8 x.1) s.mem }

/-- The first word of a command. -/
def opc (c len arg : Nat) : Nat := c * 2 ^ 56 + len * 2 ^ 52 + arg

/-- The command at the head of a stream of `len` words. -/
def cmd (c len : Nat) (arg d1 d2 : Word64) : CmdWord := ⟨0xFF8, c, arg, d1, d2, BitVec.ofNat 20 (8 * (len - 1)), false⟩

/-- A command stands at the head of the stream of context 0, by evaluation. -/
theorem atCmd_of {s : State} {w : CmdWord} {o : Nat}
    (h : decide ((s.peek 0 0).1 = .cmd w ∧ w.opc = o ∧ w.skipped = false ∧ (s.ctx 0 0).cmds = [] ∧
      (s.ctx 0 0).faulted = false ∧ (s.ctx 0 0).vec = 0 ∧ (s.ctx 0 0).halted = false) = true) :
    AtCmd s 0 0 w o (s.peek 0 0).2 := by
  have k := s.peek_only 0 0
  obtain ⟨hp, ho, hs, hc, hf, hv, hh⟩ := of_decide_eq_true h
  exact ⟨pair hp, ho, hs, k.same _ fun _ _ _ _ _ _ => rfl, k.same _ fun _ _ _ _ _ _ => rfl, k.same _ fun _ _ _ _ _ _ => rfl,
    k.same _ fun _ _ _ _ _ _ => rfl, k.same _ fun _ _ _ _ _ _ => rfl, k.same _ fun _ _ _ _ _ _ => rfl, hc, hf, hv, hh⟩

/-- The nestings that the clauses distinguish, up to the deepest. -/
def nests : List (List Nest) :=
  [[], List.replicate 7 (.cond false), List.replicate 8 (.cond true), [.loop 0 1], [.loop 0 0xFFFFFFFF]]

/-- What an IF of W64 form reads: the word at its own D1, through the tables. -/
def ifOf (n : List Nest) : State := stream n [opc 3 3 0x10, 0x50008, 7] device

/-- The word at 0x50008 as the command processor reads it. -/
def flagWord (s : State) := s.cmdWord (s.cpCtx 0 0) 0x50008 true

theorem witness_StreamControlResult :
    AtCmd (stream [] [opc 0 4 0, 1, 2, 3] device) 0 0 (cmd 0 4 0 0 0) 0 ((stream [] [opc 0 4 0, 1, 2, 3] device).peek 0 0).2 ∧
    (∀ n ∈ nests,
      AtCmd (ifOf n) 0 0 (cmd 3 3 0x10 0x50008 7) 3 ((ifOf n).peek 0 0).2 ∧
      AtCmd (stream n [opc 4 1 0] device) 0 0 (cmd 4 1 0 0 0) 4 ((stream n [opc 4 1 0] device).peek 0 0).2 ∧
      AtCmd (stream n [opc 5 1 0] device) 0 0 (cmd 5 1 0 0 0) 5 ((stream n [opc 5 1 0] device).peek 0 0).2 ∧
      AtCmd (stream n [opc 6 1 0xFFFFFFFF] device) 0 0 (cmd 6 1 0xFFFFFFFF 0 0) 6
        ((stream n [opc 6 1 0xFFFFFFFF] device).peek 0 0).2 ∧
      AtCmd (stream n [opc 7 1 0] device) 0 0 (cmd 7 1 0 0 0) 7 ((stream n [opc 7 1 0] device).peek 0 0).2) ∧
    (flagWord (past ((ifOf []).peek 0 0).2 0 0 (cmd 3 3 0x10 0x50008 7) id)).1 = some 0 := by
  refine ⟨atCmd_of (by decide +kernel), ?_, by decide +kernel⟩
  simp only [nests, List.forall_mem_cons, List.not_mem_nil, false_implies, implies_true, and_true]
  refine ⟨?_, ?_, ?_, ?_, ?_⟩ <;>
    exact ⟨atCmd_of (by decide +kernel), atCmd_of (by decide +kernel),
      atCmd_of (by decide +kernel), atCmd_of (by decide +kernel), atCmd_of (by decide +kernel)⟩

theorem past_poison (t : State) (b : Beam) (c : CtxN) (w : CmdWord) (f : Context → Context) :
    (past t b c w f).poison = t.poison := rfl

def waitOf : State := stream [] [opc 8 3 0x10, 0x50008, 0] device
def waitCmd : CmdWord := cmd 8 3 0x10 0x50008 0
def waitv : CmdWait := .waitv 0x50008 0 true 0
/-- WAITV has begun, and is read. -/
def waitBegun : State :=
  { past (waitOf.peek 0 0).2 0 0 waitCmd (fun k => { k with cmds := [begun waitOf 0 0 0xFF8 waitv] }) with
    serial := waitOf.serial + 1 }
/-- WAITV waits, and is read again. -/
def waitAgain : State := device.modCtx 0 0 fun k => { k with cmds := [⟨77, 8, 0, waitv⟩] }
def signalOf : State := stream [] [opc 9 3 5, 0x50008, 2 ^ 64 - 1] device
def signalCmd : CmdWord := cmd 9 3 5 0x50008 (BitVec.allOnes 64)
def signalPast : State := past (signalOf.peek 0 0).2 0 0 signalCmd id
def fenceOf (a : Nat) : State := stream [] [opc 10 1 a] device

theorem witness_StreamWaitResult :
    (AtCmd waitOf 0 0 waitCmd 8 (waitOf.peek 0 0).2 ∧
      (flagWord waitBegun).1 = some 0 ∧ ((flagWord waitBegun).2.ctx 0 0).cmds = [begun waitOf 0 0 0xFF8 waitv]) ∧
    ((waitAgain.ctx 0 0).cmds = [⟨77, 8, 0, waitv⟩] ∧ (waitAgain.beam 0).halted = false ∧
      (flagWord waitAgain).1 = some 0 ∧ ((flagWord waitAgain).2.ctx 0 0).cmds = [⟨77, 8, 0, waitv⟩]) ∧
    (AtCmd signalOf 0 0 signalCmd 9 (signalOf.peek 0 0).2 ∧ bits 5 0 4 = 5 ∧
      (let r := signalPast.engineAt (signalPast.cpCtx 0 0) .store 0x50008 8
       r = (.ok 0x50008, r.2) ∧ 0x50008 / 2 ^ 51 % 2 = 0 ∧ r.2.poison = [] ∧ (∀ x ∈ r.2.l1, x.ahead = false) ∧
         Memory.wf r.2.mem = true)) ∧
    AtCmd (fenceOf 0) 0 0 (cmd 10 1 0 0 0) 10 ((fenceOf 0).peek 0 0).2 ∧
    AtCmd (fenceOf 1) 0 0 (cmd 10 1 1 0 0) 10 ((fenceOf 1).peek 0 0).2 ∧ (fenceOf 1).sweeps = [] := by
  have h1 : XlatOnly waitBegun (flagWord waitBegun).2 := State.cmdWord_only _ _ _ _
  have h2 : XlatOnly waitAgain (flagWord waitAgain).2 := State.cmdWord_only _ _ _ _
  have h3 := signalPast.engineAt_only (signalPast.cpCtx 0 0) .store 0x50008 8
  have h4 := signalOf.peek_only 0 0
  refine ⟨⟨atCmd_of (by decide +kernel), by decide +kernel, ?_⟩,
    ⟨by decide +kernel, by decide +kernel, by decide +kernel, ?_⟩,
    ⟨atCmd_of (by decide +kernel), by decide, ok_pair (by decide +kernel), by decide, ?_, by decide +kernel⟩,
    atCmd_of (by decide +kernel), atCmd_of (by decide +kernel), rfl⟩
  · rw [h1.ctx]; decide +kernel
  · rw [h2.ctx]; decide +kernel
  · rw [h3.poison, signalPast, past_poison, h4.poison]; decide +kernel

/-- A descriptor of one warp of one group in a grid of one bolt, and one whose entry is not a packet of the
code (R103). -/
def descBytes (entry : Nat) : List Byte :=
  [0x10000, 0, entry, 0, 0, 0, 0, 0, 4 * 2 ^ 21 + 8 * 2 ^ 14 + 9, 20, 0, 0, 0, 0, 0, 0, 255 * 2 ^ 24, 0, 0x60000, 0, 0, 0,
    0, 0, 0, 0, 0, 0, 0, 0, 0, 0].flatMap (leBytes 4)

/-- A stream that launches the descriptor; a launch with a tag stands before it. -/
def launching (entry : Nat) (ws : List Nat) (n : Nat) : State :=
  stream [] ws { device with
    mem := cellPut (cellPut device.mem 0x70000 (descBytes entry)) 0x80010 (leBytes 4 n ++ leBytes 4 2 ++ leBytes 4 3)
    launches := [{ Launch.placed with tag := some 0, lid := 5 }] }
def launchOf (entry arg : Nat) : State := launching entry [opc 1 2 arg, 0x70000] 1
def launchCmd (arg : Nat) : CmdWord := cmd 1 2 arg 0x70000 0
def launchiOf (n arg : Nat) : State := launching 0 [opc 2 3 arg, 0x70000, 0x80010] n
def launchiCmd (arg : Nat) : CmdWord := cmd 2 3 arg 0x70000 0x80010
def readDesc (s : State) (w : CmdWord) := let p := past (s.peek 0 0).2 0 0 w id; p.engineRead (p.cpCtx 0 0) w.d1 128 128
def readGrid (n arg : Nat) := let z := (readDesc (launchiOf n arg) (launchiCmd arg)).2; z.engineRead (z.cpCtx 0 0) 0x80010 12 16

theorem readDesc_only (s : State) (w : CmdWord) :
    SameButXlat (past (s.peek 0 0).2 0 0 w id) (readDesc s w).2 := (State.engineRead_only _ _ _ _ _).1

/-- A launch of one dent with its slot tag, its partition given the first slots of the first beam's reed. -/
def slotting (dents : BitVec 7) (slots : Bool) (next : Nat) : Launch :=
  { Launch.placed with
    lid := 5, tag := some 3, desc := { Launch.placed.desc with dents := dents, affinity := 1 }, slots := slots, next := next }
def pooled (n : Nat) (l : Launch) : State :=
  { device.modBeam 0 fun k =>
      { k with reed := { k.reed with slots := Vector.ofFn fun i =>
          if i.val < n then { k.reed.slots[i] with assigned := true, part := 0 } else k.reed.slots[i] } } with
    launches := [l] }

theorem witness_StreamLaunchResult :
    (∀ g ∈ [0, 1], ∀ e ∈ [0, 4], AtCmd (launchOf e g) 0 0 (launchCmd g) 1 ((launchOf e g).peek 0 0).2 ∧
      (launchCmd g).arg = BitVec.ofNat 64 g ∧
      (∀ l ∈ (launchOf e g).launches, l.tag.isSome = true ∧ l.lid ≠ (launchOf e g).serial) ∧
      readDesc (launchOf e g) (launchCmd g) = (.ok (descBytes e), (readDesc (launchOf e g) (launchCmd g)).2) ∧
      SameButXlat (past ((launchOf e g).peek 0 0).2 0 0 (launchCmd g) id) (readDesc (launchOf e g) (launchCmd g)).2 ∧
      let err := (readDesc (launchOf e g) (launchCmd g)).2.descError 0 (descBytes e) (Desc.ofBytes (descBytes e))
      if e = 0 then err = none else err.isSome = true) ∧
    (∀ g ∈ [0, 1], ∀ n ∈ [0, 1], AtCmd (launchiOf n g) 0 0 (launchiCmd g) 2 ((launchiOf n g).peek 0 0).2 ∧
      (launchiCmd g).arg = BitVec.ofNat 64 g ∧
      readDesc (launchiOf n g) (launchiCmd g) = (.ok (descBytes 0), (readDesc (launchiOf n g) (launchiCmd g)).2) ∧
      readGrid n g = (.ok (leBytes 4 n ++ leBytes 4 2 ++ leBytes 4 3), (readGrid n g).2) ∧
      SameButXlat (readDesc (launchiOf n g) (launchiCmd g)).2 (readGrid n g).2 ∧
      (readGrid n g).2.descError 0 (descBytes 0) (Desc.ofBytes (descBytes 0)) = none) ∧
    (∀ n ∈ [(0 : BitVec 7), 2], let l := slotting n false 0
      l.slots = false ∧ l.tag.isSome = true ∧ (pooled 3 l).regionsClear l.part = true ∧ (pooled 3 l).workDone l = false ∧
      ((pooled 3 l).affinityDies l.part l.desc) = [0] ∧
      ∀ e : Beam, n.toNat * (((pooled 3 l).affinityDies l.part l.desc).filter fun x => dieBeam x = e).length ≤
        ((pooled 3 l).freeSlots e l.part).length) ∧
    (let l := slotting 4 false 0
     l.slots = false ∧ l.tag.isSome = true ∧ (pooled 3 l).regionsClear l.part = true ∧
      ∃ e : Beam, ((pooled 3 l).freeSlots e l.part).length <
        4 * (((pooled 3 l).affinityDies l.part l.desc).filter fun x => dieBeam x = e).length) ∧
    (slotting 0 true 0).slots = true ∧
    (let l := slotting 0 false 1
     let t := pooled 0 l
     t.workDone l = true ∧ ({ t with ops := [{ inFlight with kind := .store, lid := 5 }] } : State).workDone l = false ∧
       ∀ (e : Beam) (i : Fin 64), ((t.beam e).reed.slots[i]).owned = false) := by
  refine ⟨?_, ?_, by decide +kernel⟩ <;>
    simp only [List.forall_mem_cons, List.not_mem_nil, false_implies, implies_true, and_true]
  · refine ⟨⟨?_, ?_⟩, ?_, ?_⟩ <;>
      exact ⟨atCmd_of (by decide +kernel), rfl, by decide +kernel, ok_pair (by decide +kernel), readDesc_only _ _,
        by decide +kernel⟩
  · refine ⟨⟨?_, ?_⟩, ?_, ?_⟩ <;>
      exact ⟨atCmd_of (by decide +kernel), rfl, ok_pair (by decide +kernel), ok_pair (by decide +kernel),
        (State.engineRead_only _ _ _ _ _).1, by decide +kernel⟩

/-- Domain 15 of partition 0 in a state. -/
def domain (d : DomState) (ws : List Nat) : State :=
  stream [] ws (device.modPart 0 fun r => { r with doms := r.doms.set 15 d })

/-- COMMIT waits for nothing more, and its flag word is zero. -/
def commitCmd : Cmd := ⟨77, 8, 0, .domain 15 none true (some 0x50008) .launches⟩
def committing : State :=
  (device.modPart 0 fun r => { r with doms := r.doms.set 15 (.closing 0x50008) }).modCtx 0 0 fun k =>
    { k with cmds := [commitCmd] }
def commitWord := committing.cmdWord { committing.cpCtx 0 0 with part := commitCmd.part } 0x50008 true

/-- A list of one page at 1 GiB + 2 × 64 KiB, whose entry at 0xA020 is resident or not. -/
def pages (res : Bool) : State :=
  let m := cellPutWord device.mem 0x6010 8 (2 ^ 63 + 0x8000)
  let m := cellPutWord m 0x8000 8 (2 ^ 63 + 0xA000)
  let m := cellPutWord m 0xA020 8 (2 ^ 63 + 2 ^ 62 + (if res then 2 ^ 61 else 0) + 2 ^ 60 + 2 ^ 59 + 2 ^ 58 + 2 ^ 57 + 0x200000)
  let m := cellPutWord (cellPutWord m 0x90000 8 (2 ^ 30 + 2 ^ 17)) 0x200010 8 3
  let hs := (List.range 16).map fun i =>
    (⟨0x200 + i, device.homeDie 0 (0x200000 + 4096 * i) false 0, [], []⟩ : Homes)
  stream [] [opc 15 2 1, 0x90000] { device with mem := m, slices := { device.slices with homes := hs } }
def pageCmd : CmdWord := cmd 15 2 1 0x90000 0
def pagePast (res : Bool) : State := past ((pages res).peek 0 0).2 0 0 pageCmd id
def pageRead (res : Bool) := (pagePast res).engineRead ((pagePast res).cpCtx 0 0) 0x90000 32 32
def pageLine : List Byte := leBytes 8 (2 ^ 30 + 2 ^ 17) ++ List.replicate 24 0
def pageEntry (res : Bool) : Pte := (pageRead res).2.pteAt 0xA020
/-- The page that is not resident, filled. -/
def pageNew : State := pageFilled (pageRead false).2 0x200000 65536 0xA020
def pageWrite (res : Bool) :=
  let s := if res then (pageRead true).2 else pageNew
  s.engineWrite ((pagePast res).cpCtx 0 0) (0x90000 + 24) 1 [if res then 1 else 0]

theorem sameButXlat_filled {y z : State} {f n a : Nat} (h : SameButXlat (pageFilled y f n a) z) : SameButXlat y z := h
theorem poison_filled (y : State) (f n a : Nat) : (pageFilled y f n a).poison = y.poison := rfl

theorem leafAt_of {s : State} {p : PartN} {e : Pte} {pa : Nat}
    (h : (match s.slices.homes.find? fun x => x.page == pa / 4096 with
      | some x => decide (x.first = s.homeDie p pa e.plc e.pld) && !isRemote pa
      | none => false) = true) : s.leafAt p e pa = (pa, s) := by
  unfold State.leafAt State.atHome
  cases f : s.slices.homes.find? fun x => x.page == pa / 4096 with
  | none => rw [f] at h; cases h
  | some x =>
    rw [f] at h
    simp only [Bool.and_eq_true, decide_eq_true_eq, Bool.not_eq_true'] at h
    simp [h.2, f, h.1]

theorem leafAt_all {s : State} {p : PartN} {e : Pte} {f n : Nat}
    (h : ((List.range n).all fun i => match s.slices.homes.find? fun x => x.page == (f + 4096 * i) / 4096 with
      | some x => decide (x.first = s.homeDie p (f + 4096 * i) e.plc e.pld) && !isRemote (f + 4096 * i)
      | none => false) = true) (i : Nat) (hi : i < n) : s.leafAt p e (f + 4096 * i) = (f + 4096 * i, s) :=
  leafAt_of (List.all_eq_true.mp h i (List.mem_range.mpr hi))

theorem pageWrite_same (r : Bool) : SameButXlat (pageRead r).2 (pageWrite r).2 := by
  have hp : (pageRead r).2.poison = [] := by
    rw [pageRead, (State.engineRead_only ..).poison, pagePast, past_poison, (State.peek_only ..).poison]
    cases r <;> rfl
  have key : ∀ s : State, s.poison = [] →
      (match (s.engineAt ((pagePast r).cpCtx 0 0) .store (0x90000 + 24) 1).1 with
        | .ok a => !isRemote a
        | .error _ => true) = true →
      ∀ b, SameButXlat s (s.engineWrite ((pagePast r).cpCtx 0 0) (0x90000 + 24) 1 b).2 := by
    intro s hs hk b
    exact (s.engineWrite_only _ _ _ _ hs).1
  cases r with
  | true => exact key (pageRead true).2 hp (by decide +kernel) _
  | false =>
    have h := key pageNew (by rw [pageNew, poison_filled]; exact hp) (by decide +kernel) [0]
    rw [pageNew] at h
    exact sameButXlat_filled h

theorem witness_DomainPageResult :
    (AtCmd (domain .closed [opc 12 2 15, 0x50008]) 0 0 (cmd 12 2 15 0x50008 0) 12
        ((domain .closed [opc 12 2 15, 0x50008]).peek 0 0).2 ∧
      (let p := past ((domain .closed [opc 12 2 15, 0x50008]).peek 0 0).2 0 0 (cmd 12 2 15 0x50008 0) id
       (flagWord p).1 = some 0 ∧ SameButXlat p (flagWord p).2)) ∧
    (∀ d ∈ [DomState.closed, .open 0x50008],
      AtCmd (domain d [opc 13 2 15, 0]) 0 0 (cmd 13 2 15 0 0) 13 ((domain d [opc 13 2 15, 0]).peek 0 0).2 ∧
      AtCmd (domain d [opc 14 1 15]) 0 0 (cmd 14 1 15 0 0) 14 ((domain d [opc 14 1 15]).peek 0 0).2 ∧
      ((domain d [opc 14 1 15]).part 0).doms[15] = d ∧ ((domain d [opc 13 2 15, 0]).part 0).doms[15] = d) ∧
    ((committing.ctx 0 0).cmds = [commitCmd] ∧ (committing.beam 0).halted = false ∧
      committing.launches = [] ∧ committing.sweeps = [] ∧
      commitCmd.wait = .domain 15 none true (some 0x50008) .launches ∧
      commitWord.1 = some 0 ∧ SameButXlat committing commitWord.2) ∧
    (AtCmd (stream [] [opc 15 2 0, 0x90000] device) 0 0 (cmd 15 2 0 0x90000 0) 15
      ((stream [] [opc 15 2 0, 0x90000] device).peek 0 0).2 ∧ (stream [] [opc 15 2 0, 0x90000] device).sweeps = []) ∧
    (∀ r : Bool, AtCmd (pages r) 0 0 pageCmd 15 ((pages r).peek 0 0).2 ∧ (pages r).sweeps = [] ∧
      pageRead r = (.ok pageLine, (pageRead r).2) ∧ SameButXlat (pagePast r) (pageRead r).2 ∧ (pageRead r).2.poison = [] ∧
      Settled (pageRead r).2 ∧
      (∀ i : Nat, i < 65536 / 4096 → (pageRead r).2.leafAt 0 (pageEntry r) (0x200000 + 4096 * i) =
        (0x200000 + 4096 * i, (pageRead r).2)) ∧
      leVal (pageLine.take 8) < 2 ^ 57 ∧
      ((pageRead r).2.walkFrom ((pagePast r).cpCtx 0 0) (leVal (pageLine.take 8)) false).1 = .leaf 0 0xA020 (pageEntry r) ∧
      (pageEntry r).res = r ∧ (pageEntry r).ver = false ∧ (pageLine.getD 16 0).toNat % 2 = 0 ∧
      isRemote (pageEntry r).frame0 = false ∧ (pageEntry r).frame0 = 0x200000 ∧
      SameButXlat (pageRead r).2 (pageWrite r).2 ∧ (pageWrite r).1 = none ∧ (∀ h ∈ (pageWrite r).2.tlb, h.hits = 0) ∧
      ∀ x ∈ (pageWrite r).2.l1, x.ahead = false) := by
  refine ⟨⟨atCmd_of (by decide +kernel), by decide +kernel, (State.cmdWord_only _ _ _ _).1⟩, ?_,
    ⟨by decide +kernel, by decide +kernel, rfl, rfl, rfl, by decide +kernel,
      (State.cmdWord_only _ _ _ _).1⟩, ⟨atCmd_of (by decide +kernel), rfl⟩, ?_⟩
  · simp only [List.forall_mem_cons, List.not_mem_nil, false_implies, implies_true, and_true]
    exact ⟨⟨atCmd_of (by decide +kernel), atCmd_of (by decide +kernel), by decide +kernel, by decide +kernel⟩,
      atCmd_of (by decide +kernel), atCmd_of (by decide +kernel), by decide +kernel, by decide +kernel⟩
  · intro r
    have h : (pageRead r).2.poison = [] := by
      rw [pageRead, (State.engineRead_only ..).poison, pagePast, past_poison, (State.peek_only ..).poison]
      cases r <;> rfl
    refine ⟨?_, ?_, ?_, (State.engineRead_only _ _ _ _ _).1, h, ?_, ?_, by decide +kernel, ?_, ?_, ?_, ?_, ?_, ?_,
      pageWrite_same r, ?_⟩ <;> cases r
    · exact atCmd_of (by decide +kernel)
    · exact atCmd_of (by decide +kernel)
    · rfl
    · rfl
    · exact ok_pair (by decide +kernel)
    · exact ok_pair (by decide +kernel)
    · exact ⟨by decide +kernel, by decide +kernel⟩
    · exact ⟨by decide +kernel, by decide +kernel⟩
    · exact leafAt_all (by decide +kernel)
    · exact leafAt_all (by decide +kernel)
    all_goals decide +kernel

/-- A collective of rank 3 of four, over ten .i32 elements, by its operation and the addresses of DST, PEERS and the
record. -/
def collDesc (op dst peers record : Nat) : List Byte :=
  [op * 2 ^ 28 + 0x03000000, 0x03030000, 10, 0, 0x50000, 0, dst, 0, peers, 0, record, 0, 9, 0, 0, 0].flatMap (leBytes 4)
def allReduce : List Byte := collDesc 0 0x58000 0x60000 0x61000
def allGather : List Byte := collDesc 2 0x58000 0x60000 0x61000
def started : Coll := ⟨50, 0, 0, 0, allReduce, true, [5, 6, 7, 8], [], [], 0, none⟩
def engaged (ks : List Coll) : State := device.modLinks 0 fun l => { l with colls := ks }
def collCmd : CmdWord := cmd 11 2 1 0x70000 0

/-- A stream at COLL, in whose memory the descriptor and the IDs of the peers stand. -/
def collAt (d : List Byte) (me : Nat) (ks : List Coll) : State :=
  stream [] [opc 11 2 1, 0x70000]
    { engaged ks with mem := cellPut (cellPut device.mem 0x70000 d) 0x60000 ([5, 6, 7, me].flatMap (leBytes 8)) }
def collPast (s : State) : State := past (s.peek 0 0).2 0 0 collCmd id
def collRead (s : State) := (collPast s).engineRead ((collPast s).cpCtx 0 0) 0x70000 64 64

/-- The collective that the stream begins, and the machine once its engine has started it. -/
def newColl (d : List Byte) : Coll := ⟨8, 0, 0, 0xFF8, d, false, [], [], [], 0, none⟩
def collBegun (d : List Byte) (s : State) : State :=
  (({ (collRead s).2 with serial := (collRead s).2.serial + 2 } : State).modLinks 0 fun l =>
    { l with colls := l.colls ++ [{ newColl d with started := true }] }).modCtx 0 0
      (fun m => { m with cmds := [⟨s.serial + 1, 0xFF8, 0, .coll s.serial⟩] })
def peerRead (d : List Byte) (s : State) :=
  (collBegun d s).readElems ((collPast s).cpCtx 0 0) (newColl d).peerVa 8 (newColl d).ranks
def peerBytes (me : Nat) : List Byte := [5, 6, 7, me].flatMap (leBytes 8)
def recordClear (d : List Byte) (s : State) :=
  (peerRead d s).2.engineWrite ((collPast s).cpCtx 0 0) (BitVec.ofNat 64 (newColl d).record) 4 [0, 0, 0, 0]
def sourceRead (s : State) :=
  ((recordClear allGather s).2.modLinks 0 fun l =>
    { l with colls := [{ newColl allGather with started := true, peers := [5, 6, 7, 0] }] }).readElems
      ((collPast s).cpCtx 0 0) 0x50000 4 1

theorem readElems_only (x : XCtx) (va size n : Nat) : ∀ s : State, XlatOnly s (s.readElems x va size n).2 := by
  induction n with
  | zero => exact fun s => .refl s
  | succ n ih =>
    intro s
    have h := ih s
    unfold State.readElems
    split
    · rename_i e; rw [e] at h; exact h
    · rename_i bs t e
      rw [e] at h
      have k := t.engineRead_only x (BitVec.ofNat 64 (va + n * size)) size size
      split <;> (rename_i q; rw [q] at k; exact h.trans k)

theorem readElems_beams (x : XCtx) (va size n : Nat) (s : State) : (s.readElems x va size n).2.beams = s.beams :=
  (readElems_only x va size n s).same State.beams fun _ _ _ _ _ _ => rfl

theorem writeElems_beams (x : XCtx) (size : Nat) (es : List (List Byte)) :
    ∀ (s : State) (va : Nat), (s.writeElems x va size es).2.beams = s.beams := by
  induction es with
  | nil => exact fun s va => rfl
  | cons e es ih =>
    intro s va
    have h := s.engineWrite_beams x (BitVec.ofNat 64 va) size e
    unfold State.writeElems
    split
    · rename_i q; rw [q] at h; exact h
    · rename_i q; rw [q] at h; exact (ih _ _).trans h

/-- An unmapped address (bits 31..0 of it). -/
def nowhere : Nat := 0x40010000

theorem witness_CollectiveResult :
    (∀ ks ∈ [[started], []], AtCmd (collAt allReduce 0 ks) 0 0 collCmd 11 ((collAt allReduce 0 ks).peek 0 0).2 ∧
      collRead (collAt allReduce 0 ks) = (.ok allReduce, (collRead (collAt allReduce 0 ks)).2) ∧
      SameButXlat (collPast (collAt allReduce 0 ks)) (collRead (collAt allReduce 0 ks)).2 ∧
      ((collAt allReduce 0 ks).beam 0).links.colls = ks ∧ ∀ m ∈ ks, m.id ≠ (collAt allReduce 0 ks).serial) ∧
    (started.ctx = 0 ∧ started.started = true ∧ (newColl (collDesc 7 0x58000 0x60000 0x61000)).malformed = true ∧
      (newColl allReduce).malformed = false ∧ (newColl allGather).malformed = false ∧
      (newColl (collDesc 0 0x58000 nowhere 0x61000)).malformed = false) ∧
    (let d := collDesc 0 0x58000 nowhere 0x61000
     let r := peerRead d (collAt d 0 [])
     (match r.1 with | .error e => e == 0x10 | .ok _ => false) = true ∧ r.2.beams = (collBegun d (collAt d 0 [])).beams) ∧
    (∀ me ∈ [0, 8], peerRead allReduce (collAt allReduce me []) =
        (.ok (peerBytes me), (peerRead allReduce (collAt allReduce me [])).2) ∧
      (peerRead allReduce (collAt allReduce me [])).2.beams = (collBegun allReduce (collAt allReduce me [])).beams) ∧
    ((device.beam 0).links.linkId = 0 ∧
      recordClear allGather (collAt allGather 0 []) = (none, (recordClear allGather (collAt allGather 0 [])).2) ∧
      (recordClear allGather (collAt allGather 0 [])).2.beams = (collBegun allGather (collAt allGather 0 [])).beams ∧
      (newColl allGather).gives = [(3, [0, 1, 2, 3])] ∧ (newColl allGather).src + (newColl allGather).from_ 3 * 4 = 0x50000 ∧
      ((newColl allGather).span 3).2 = 1 ∧ (newColl allGather).size = 4 ∧ (newColl allGather).rank = 3 ∧
      sourceRead (collAt allGather 0 []) = (.ok [0, 0, 0, 0], (sourceRead (collAt allGather 0 [])).2)) := by
  refine ⟨?_, by decide +kernel, ⟨by decide +kernel, readElems_beams _ _ _ _ _⟩, ?_, by decide +kernel,
    pair (by decide +kernel), (State.engineWrite_beams _ _ _ _ _).trans (readElems_beams _ _ _ _ _), by decide +kernel,
    by decide +kernel, by decide +kernel, by decide +kernel, by decide +kernel, ok_pair (by decide +kernel)⟩
  · simp only [List.forall_mem_cons, List.not_mem_nil, false_implies, implies_true, and_true]
    exact ⟨⟨atCmd_of (by decide +kernel), ok_pair (by decide +kernel), (State.engineRead_only _ _ _ _ _).1,
        by decide +kernel, by decide +kernel⟩,
      atCmd_of (by decide +kernel), ok_pair (by decide +kernel), (State.engineRead_only _ _ _ _ _).1, by decide +kernel⟩
  · simp only [List.forall_mem_cons, List.not_mem_nil, false_implies, implies_true, and_true]
    exact ⟨⟨ok_pair (by decide +kernel), readElems_beams _ _ _ _ _⟩, ok_pair (by decide +kernel),
      readElems_beams _ _ _ _ _⟩

/-- A contribution of a rank to the first chunk, of three elements. -/
def given (r : Nat) : Contribution := ⟨50, 0, BitVec.ofNat 10 (5 + r), r, List.replicate 12 3⟩
/-- Only the contribution of rank 0 is missing. -/
def nearly (d : List Byte) : Coll := { started with desc := d, got := [given 1, given 2, given 3] }
/-- A chunk of a collective completes. -/
def completing (k : Coll) : State :=
  (engaged [k]).modLinks 0 fun l => { l with colls := l.colls.map fun y =>
    if y.id = k.id then { k with done := k.done ++ [(0, k.mask 0)], partials := if k.full 0 then k.partials else k.partials + 1 }
    else y }
def completed (k : Coll) :=
  (completing k).writeElems { device.cpCtx 0 0 with part := 0 } (k.dst + k.place 0 * k.size) k.size ((k.result 0).getD [])
def filled (d : List Byte) : Coll := { nearly d with got := (nearly d).got ++ [given 0] }

/-- A collective that has ended, and the writes of its record. -/
def failed (record : Nat) : Coll :=
  { started with desc := collDesc 7 0x58000 0x60000 record, fate := some (2, 7), partials := 2 ^ 16 }
def finished : Coll := { started with done := (List.range 4).map fun j => (j, 15), partials := 2 ^ 16 }
def recordTail (k : Coll) :=
  (engaged [k]).writeElems { device.cpCtx 0 0 with part := 0 } (k.record + 4) 4
    (leBytes 4 (k.fate.elim 0 fun f => f.2.toNat) :: List.replicate 14 (List.replicate 4 0) ++
      if k.fate.isSome then [] else (List.replicate 4 ([15, 0, 0, 0] :: List.replicate 7 [0, 0, 0, 0])).flatten)
def recordHead (k : Coll) :=
  (recordTail k).2.writeElems { device.cpCtx 0 0 with part := 0 } k.record 4
    [leBytes 4 (2 ^ 31 + k.fate.elim 1 (fun f => f.1.toNat) * 2 ^ 29 + k.partials % 2 ^ 16)]

/-- A record whose first word alone is not mapped: it wraps round the address space. -/
def wrapping : Coll :=
  { failed 0 with desc := [0x73000000, 0x03030000, 10, 0, 0x50000, 0, 0x58000, 0, 0x60000, 0, 0xFFFFFFFC, 0xFFFFFFFF, 9, 0, 0, 0].flatMap (leBytes 4) }

theorem witness_CollectiveEventResult :
    (IsBase (fun _ => 0) 0 ∧ IsBase (fun i => if i = 0 then 0x3F800000 else if i = 1 then 0x40000000 else 0x7F800000) 127) ∧
    ([0, 0, 0x80, 0x3F].length = 4 * 1 ∧
      (∀ m ∈ (device.beam 0).links.colls, m.id ≠ (given 0).coll) ∧ (∀ m ∈ (device.beam 1).links.colls, m.id ≠ (given 0).coll) ∧
      (let s := device.modLinks 1 fun l => { l with ended := [{ started with done := [(0, 1)] }] }
       (∃ m ∈ (s.beam 1).links.ended, m.id = (given 0).coll ∧ m.expects (given 0) = true ∧ m.isDone 0 = true) ∧
       (s.beam 0).links.colls = [] ∧ (s.beam 1).links.colls = [])) ∧
    ((∀ k ∈ [started, nearly allReduce, nearly allGather, finished, failed 0x61000, { started with started := false }],
        ((engaged [k]).beam 0).links.colls = [k]) ∧
      (let s := (engaged [started]).modPart 0 fun p => { p with size := 3 }
       (s.beam 0).links.colls = [started] ∧ (s.beam 1).links.colls = [] ∧ (s.part started.part).size = 3)) ∧
    (started.expects { given 0 with rank := 3 } = false ∧ started.unwire (started.span 0).2 [0] = none ∧
      (∀ k ∈ [started, nearly allReduce, { started with started := false }, { started with done := [(0, 1)] },
          { started with got := [given 0] }],
        k.unwire (k.span 0).2 (given 0).data = some (given 0).data ∧ k.chunks.contains 0 = true ∧
        (k.sources 0).contains 0 = true ∧ 0 ≠ k.rank ∧ k.peers.getD 0 0 = (given 0).peer) ∧
      ({ started with done := [(0, 1)] } : Coll).isDone 0 = true ∧ started.isDone 0 = false ∧
      ({ started with got := [given 0] } : Coll).full 0 = false ∧ (filled allReduce).full 0 = true ∧
      (nearly allReduce).fate = none) ∧
    (started.timeout ≠ 0 ∧ started.result 0 = none ∧ ((filled allReduce).result 0).isSome = true ∧
      completed (filled allReduce) = (none, (completed (filled allReduce)).2) ∧
      (let k := filled (collDesc 0 nowhere 0x60000 0x61000)
       completed k = (some 0x10, (completed k).2))) ∧
    (started.chunks.all started.isDone = false ∧ finished.chunks.all finished.isDone = true ∧
      (∀ k ∈ [finished, failed 0x61000], recordTail k = (none, (recordTail k).2) ∧ recordHead k = (none, (recordHead k).2) ∧
        (recordHead k).2.beams = (engaged [k]).beams) ∧
      recordTail wrapping = (none, (recordTail wrapping).2) ∧
      recordHead wrapping = (some 0x10, (recordHead wrapping).2) ∧
      (recordHead wrapping).2.beams = (engaged [wrapping]).beams ∧ ((engaged [wrapping]).ctx 0 0).halted = false ∧
      ((engaged [wrapping]).ctx 0 0).vec = 0) ∧
    (let m := { newColl (collDesc 7 0x58000 0x60000 0x61000) with id := 51 }
     ((engaged [failed 0x61000, m]).beam 0).links.colls = [failed 0x61000, m] ∧ m.id ≠ (failed 0x61000).id ∧
       m.ctx = (failed 0x61000).ctx ∧ m.started = false ∧ m.malformed = true) := by
  refine ⟨by unfold IsBase; decide +kernel, by decide +kernel, ⟨by decide +kernel, by decide +kernel⟩, by decide +kernel,
    ⟨by decide +kernel, by decide +kernel, by decide +kernel, pair (by decide +kernel), pair (by decide +kernel)⟩,
    ⟨by decide +kernel, by decide +kernel, ?_, pair (by decide +kernel), pair (by decide +kernel),
      (writeElems_beams _ _ _ _ _).trans (writeElems_beams _ _ _ _ _), by decide +kernel, by decide +kernel⟩,
    by decide +kernel⟩
  simp only [List.forall_mem_cons, List.not_mem_nil, false_implies, implies_true, and_true]
  exact ⟨⟨pair (by decide +kernel), pair (by decide +kernel), (writeElems_beams _ _ _ _ _).trans (writeElems_beams _ _ _ _ _)⟩,
    pair (by decide +kernel), pair (by decide +kernel), (writeElems_beams _ _ _ _ _).trans (writeElems_beams _ _ _ _ _)⟩

/-- Ply 7 in a state. -/
def plyAs (st : PlyState) (pend : BitVec 2) (k : Wake) (auto : BitVec 8) : State :=
  device.modPly 7 fun q => { q with state := st, pend := pend, wake := k, autoDoze := auto, applied := 3 }

/-- The log of the second beam holds a bad dent that ply 7 has not applied. -/
def badLog : State := (plyAs .sleep 3 .none 0).modReed 1 fun r => { r with head := 4, log := [⟨4, 3, 0, .join 3 0, 0, true⟩] }

/-- What each clause asks of ply 7. -/
def plyIs (s : State) (st : PlyState) (pend : BitVec 2) (k : Wake) : Prop :=
  (s.ply 7).state = st ∧ (s.ply 7).pend = pend ∧ (s.ply 7).wake = k

/-- An owned word and a warp's private word of the L1 of the last core of ply 7. -/
def owned1535 : L1Word := ⟨1535, 0x2000, 6, true, true, none, 0⟩
def private1535 : L1Word := ⟨1535, 0x1000, 5, true, false, some 9, 0⟩

/-- Ply 7 wakes to run or doze by replay, some dents behind: one of each kind that changes a mirror among them. -/
def dentAs (i : Nat) (k : DentKind) (bad : Bool) : Dent := ⟨3 + i, 3, 4, k, 0, bad⟩
def gapDents : List Dent :=
  [dentAs 1 (.write 2 1 0x55) false, dentAs 2 (.atomic 2 4 .add .u32 7 0 1 0) false, dentAs 3 (.clear 4 0x100 64) false]
def replaying (n : BitVec 2) (ds : List Dent) : State :=
  ((plyAs (.trans n) (if n = 0 then 3 else 1) .replay 0).modPly 7 fun q => { q with mirror := [(0x205, 9)] }).modReed 1
    fun r => { r with head := 3 + ds.length, log := ds }

theorem witness_PlyResult :
    (∀ n ∈ [(0, WriteKind.plyRun), (1, .plyDoze), (2, .plySleep)],
      Writes device (put 0x170004 4 (0xFF00 + n.1)) (.plyCtl 7) (0xFF00 + n.1) n.2) ∧
    (plyIs (plyAs .run 1 .none 0) .run 1 .none ∧ (plyAs .run 1 .none 0).plyBusy 7 = false ∧
      ((plyAs .run 2 .none 0).modPly 7 fun q => { q with queue := [⟨41, 5, 3, .join 5 7, false⟩] }).plyBusy 7 = true ∧
      plyIs (plyAs (.trans 2) 2 .none 0) (.trans 2) 2 .none ∧ plyIs (plyAs (.trans 1) 1 .none 0) (.trans 1) 1 .none ∧
      plyIs (plyAs .doze 3 .none 0) .doze 3 .none ∧ plyIs (plyAs (.trans 0) 3 .none 0) (.trans 0) 3 .none ∧
      plyIs (plyAs .doze 2 .none 0) .doze 2 .none ∧ (plyAs .doze 2 .none 0).plyBusy 7 = false ∧
      plyIs (plyAs .sleep 3 .none 0) .sleep 3 .none ∧ plyIs (plyAs .sleep 1 .none 0) .sleep 1 .none ∧
      plyIs (plyAs (.trans 1) 1 .copying 0) (.trans 1) 1 .copying ∧
      plyIs (plyAs (.trans 0) 3 .copying 0) (.trans 0) 3 .copying) ∧
    (∀ n ∈ [(1 : BitVec 2), 2],
      let rests := fun ws : List L1Word => { plyAs (.trans n) n .none 0 with l1 := ws }
      (∃ o ∈ ({ rests [] with ops := [{ inFlight with core := 1535 }] } : State).ops, coreDie o.core = 7) ∧
      (rests [owned1535]).ops = [] ∧ owned1535.dirty = true ∧ owned1535.ahead = false ∧
      (rests [private1535, owned1535]).slices.twins = [] ∧ Memory.wf (rests []).mem = true ∧ coreDie private1535.core = 7 ∧
      private1535.dirty = true ∧ private1535.ahead = true ∧ private1535.pa + 4 ≤ owned1535.pa) ∧
    (∀ n ∈ [(0 : BitVec 2), 1],
      (∀ ds ∈ [[], [dentAs 1 (.join 3 7) false], gapDents],
        plyIs (replaying n ds) (.trans n) (if n = 0 then 3 else 1) .replay ∧
          (∀ e ∈ ((replaying n ds).beam 1).reed.log.filter (fun e => decide (3 < e.dsn)), e.bad = false) ∧
          Memory.wf ((replaying n ds).ply 7).mirror = true) ∧
      ∃ e ∈ ((replaying n [dentAs 1 (.join 3 7) true]).beam 1).reed.log.filter (fun e => decide (3 < e.dsn)), e.bad = true) ∧
    (((plyAs .run 0 .none 1).ply 7).autoDoze ≠ 0 ∧ plyIs (plyAs .run 0 .none 1) .run 0 .none ∧
      (plyAs .run 0 .none 1).groups = [] ∧
      ((plyAs .run 0 .none 0).ply 7).autoDoze = 0) ∧
    ((badLog.beam (dieBeam 7)).reed.head - (badLog.ply 7).applied ≤ 4096 ∧
      ∃ e ∈ (badLog.beam (dieBeam 7)).reed.log, (badLog.ply 7).applied < e.dsn ∧ e.bad = true) ∧
    ((4 : Die) ≠ 7 ∧ dieBeam 4 = dieBeam 7 ∧ ((plyAs (.trans 0) 3 .copying 0).ply 4).state = .run ∧
      ∀ f : Die, f.val < (4 : Die).val → dieBeam f = dieBeam 7 → False) ∧
    device.dev.ready = true ∧ ({ device.dev with ready := false } : Device).ready = false := by
  refine ⟨?_, by unfold plyIs; decide +kernel, by decide +kernel, by unfold plyIs; decide +kernel,
    ⟨by decide +kernel, ⟨rfl, rfl, rfl⟩, rfl, by decide +kernel⟩, by decide +kernel, by decide +kernel, rfl, rfl⟩
  simp only [List.forall_mem_cons, List.not_mem_nil, false_implies, implies_true, and_true]
  exact ⟨writes_of (by decide +kernel), writes_of (by decide +kernel), writes_of (by decide +kernel)⟩

/-- The last slot of a beam, owned by ply 3 for launch 5, and an entry of launch `l` in the ply's queue. -/
def sending (ok owned : Bool) (l : Nat) : State :=
  (device.modReed 0 fun r =>
    { r with calOk := ok, slotCtr := 63, slots := r.slots.set 63 ⟨true, 0, owned, 3, 3, 5⟩ }).modPly 3 fun q =>
    { q with queue := [⟨40, l, 3, .join 5 3, false⟩, ⟨41, 5, 3, .join 5 3, false⟩]
             perf := { q.perf with freeze := true } }

/-- A dent of ply 3 has passed; ply 0 does not listen. -/
def passing (k : DentKind) : State :=
  (device.modReed 0 fun r => { r with passed := [⟨31, 3, 3, k, 40, false⟩] }).modPly 0 fun q => { q with listen := false }

/-- The atomic of a lane of ply 3 whose dent has passed. -/
def denting : Op :=
  { inFlight with
    core := 600, kind := .atomic .add .u32 true, l1 := some 7
    elems := [⟨31, .reed 0 (256 * 255 + 252), 4, 0, 0, .none, 0, 0, 0, none, .waiting⟩] }

/-- A launch waits for a slot of a beam whose region has not been cleared. -/
def clearing : State :=
  { (device.modReed 0 fun r =>
      { r with regions := r.regions.set 0 ⟨2, 3, false⟩, slots := r.slots.set 9 ⟨true, 0, false, 0, 0, 0⟩, slotCtr := 9 }) with
    launches := [Launch.placed] }

theorem witness_ReedResult :
    (((sending false true 5).beam 0).reed.calOk = false ∧ ((sending true false 5).beam 0).reed.calOk = true ∧
      ((sending true false 5).beam 0).reed.slots[63].owned = false ∧ ∀ p : PartN, (sending true false 5).mayClear 0 p = false) ∧
    (∀ l ∈ [5, 6],
      ((sending true true l).beam 0).reed.calOk = true ∧
      ((sending true true l).beam 0).reed.slots[((sending true true l).beam 0).reed.slotCtr.toNat] =
        ⟨true, 0, true, 3, 3, 5⟩ ∧
      ((sending true true l).ply 3).perf.freeze = true ∧
      ((sending true true l).ply 3).queue = [⟨40, l, 3, .join 5 3, false⟩, ⟨41, 5, 3, .join 5 3, false⟩]) ∧
    ((device.beam 0).reed.passed = [] ∧
      ∀ k ∈ [.write 4 (BitVec.twoPow 256 255) 7, .atomic 255 252 .add .u32 5 0 33 31, .clear 0 0x30000 0x20000, .join 5 3,
          .leave 5 3, .arrive 5 7 3 0 []],
        ((passing k).beam 0).reed.passed = [⟨31, 3, 3, k, 40, false⟩] ∧ dieBeam 3 = 0 ∧ (passing k).groups = [] ∧
          (passing k).ops = [] ∧ (∀ d : Die, Memory.wf ((passing k).ply d).mirror = true) ∧ ((passing k).ply 3).listen = true ∧
          ((passing k).ply 0).listen = false) ∧
    (let bars : List BeamBar := (List.range 8).map fun n => ⟨5, BitVec.ofNat 3 n, 8, 0, 0⟩
     (bars.map fun x => (x.lid, x.n)).Nodup ∧
       (((passing (.arrive 5 7 3 0 [])).modReed 0 fun r => { r with bars := bars }).beam 0).reed.bars = bars) ∧
    (let s : State := { passing (.atomic 255 252 .add .u32 5 0 33 31) with ops := [denting] }
     s.ops = [denting] ∧ denting.l1.isSome = true ∧ coreDie denting.core = 3 ∧ (s.ply 3).mirrorBad = [] ∧
       ∀ x ∈ denting.elems, x.state = .waiting ∧ x.loc = .reed 0 (256 * 255 + 252) ∧ x.lane.toNat = 31) ∧
    device.launches = [] ∧ clearing.mayClear 0 0 = true := by
  refine ⟨by decide +kernel, by decide +kernel, by decide +kernel, by decide +kernel, by decide +kernel, rfl,
    by decide +kernel⟩

/-- The machine before a start ends, as it stands and with a byte of the flash programmed. -/
def starting (k : BitVec 2) : State := { device with dev := { device.dev with starting := true, ready := false, kind := k } }
def quoting (busy : Bool) : State := device.modPort 0 fun a => { a with attBusy := busy, capture := List.replicate 256 7 }

theorem witness_StartResult :
    (Writes device (put 0x10004 4 1) .bootCtl 1 .cold ∧ Writes device (put 0x10004 4 6) .bootCtl 6 .warm) ∧
    (device.dev.power = true ∧ ({ device.dev with power := false } : Device).power = false ∧ (1 : Port) ≠ 0 ∧
      ((device.modPort 0 fun a => { a with linkUp := false }).port 0).linkUp = false ∧
      ((device.modPort 0 fun a => { a with linkUp := true }).port 0).linkUp = true) ∧
    (device.dev.starting = false ∧ (starting 1).dev.starting = true ∧ (starting 1).dev.img.ok = true ∧
      (starting 2).dev.kind = 2 ∧
      ({ (starting 2).dev with img := ⟨false, 0, 0⟩ } : Device).starting = true) ∧
    ((device.regWrite (put 0xFFFF 1 255)).any (fun w => decide (w.reg = .flashWin)) = true ∧ Memory.wf device.flash = true) ∧
    (Writes device (put 0x100 4 255) .attestCtl 255 .attest ∧ ((quoting false).port 0).attBusy = false ∧
      Writes (quoting true) (put 0x100 4 255) .attestCtl 255 .attest ∧ ((quoting true).port 0).attBusy = true ∧
      (quoting true).dev.ready = true ∧ ((quoting true).port 0).capture.length = 256 ∧
      (device.port 0).attBusy = false ∧ device.dev.ready = true ∧
      Writes (starting 1) (put 0x100 4 255) .attestCtl 255 .attest ∧ ((starting 1).port 0).attBusy = false ∧
      (starting 1).dev.ready = false) := by
  refine ⟨⟨writes_of (by decide +kernel), writes_of (by decide +kernel)⟩, by decide +kernel,
    by decide +kernel, by decide +kernel, writes_of (by decide +kernel), by decide +kernel,
    writes_of (by decide +kernel), by decide +kernel, by decide +kernel, by decide +kernel, by decide +kernel,
    by decide +kernel, writes_of (by decide +kernel), by decide +kernel, rfl⟩

/-- A store in flight to a peer. -/
def toPeer (l1 : Option Nat) : Op :=
  { inFlight with
    kind := .store, l1 := l1
    elems := [⟨31, .phys (2 ^ 51 + 8), 8, 0x140, 0x148, .none, 0, 0, 0, none, .waiting⟩] }
def storing : Warp := { w0 with cnt := { Counters.zero with sc := [⟨33, false⟩] } }
def exporting (o : Option Nat) : State := { alone storing g0 with ops := [toPeer o] }

/-- The first beam gives peer 1 the first GiB. -/
def peering : State := device.modLinks 0 fun l =>
  { l with reexp := l.reexp.set 31 { en := true, peer := 1, ports := 0, size := 1, base := 0 } }

theorem witness_OutsideResult :
    (((1024 : BitVec 11)).toNat = 2 ^ 10 ∧ ∀ k : Nat, k ≤ 10 → (1025 : BitVec 11).toNat ≠ 2 ^ k) ∧
    (device.dev.linkDown = false ∧ device.dev.ready = true ∧ device.dev.power = true ∧ device.poison = [] ∧
      Settled device ∧ ({ device.dev with linkDown := true } : Device).linkDown = true) ∧
    (device.dev.ready = true ∧ 2 ^ 30 - 4 + (List.replicate 4 (0 : Byte)).length ≤ (device.port 0).bar4 * 2 ^ 30 ∧
      (device.part 0).en = true ∧ (device.part 0).port.toNat = (0 : Port).val ∧
      device.inPmem 0 (2 ^ 30 - 4) 4 = true ∧ ¬2 ^ 30 - 3 + 4 ≤ (device.port 0).bar4 * 2 ^ 30 ∧
      (device.port 0).hostErr.toNat < 2 ^ 32 - 1) ∧
    (device.bar4Ok 0 (2 ^ 30 - 4) 4 = true ∧ device.bar4Ok 0 (2 ^ 30 - 3) 4 = false) ∧
    (peering.dev.ready = true ∧ peering.poison = [] ∧ Settled peering ∧
      ((peering.beam 0).links.reexp[31]).en = true ∧ ((peering.beam 0).links.reexp[31]).peer = 1 ∧
      ((peering.beam 0).links.reexp[31]).base.toNat * 2 ^ 30 ≤ 2 ^ 30 - 8 ∧
      2 ^ 30 - 8 + 8 ≤ (((peering.beam 0).links.reexp[31]).base.toNat + ((peering.beam 0).links.reexp[31]).size.toNat) * 2 ^ 30) ∧
    (∀ o ∈ [some 3, none], Alone (exporting o) storing ∧ (exporting o).ops = [toPeer o] ∧
      (toPeer o).wid = storing.place.wid ∧ (toPeer o).gid = storing.place.gid ∧ (2 ^ 51 + 8) / 2 ^ 51 % 2 = 1 ∧
      (toPeer o).kind = .store ∧ (toPeer o).acq = false ∧ (exporting o).held = [] ∧ storing.exited = false ∧
      storing.faults = [] ∧
      storing.cnt = { Counters.zero with sc := [⟨(toPeer o).id, false⟩] } ∧ storing.aside = Counters.zero ∧
      (toPeer o).l1 = o) ∧
    (∀ p : PartN, (bare.part p).en = false) ∧
    ((device.ply 0).state = .run ∧ (⟨.vault (2 ^ 31 - 8), 4, 0, 0⟩ : Poison).loc = .vault (2 ^ 31 - 8) ∧
      (2 ^ 31 - 8) / 2 ^ 31 = (0 : Die).val ∧ (2 ^ 31) / 2 ^ 31 ≠ (0 : Die).val ∧ ((plyAs .sleep 0 .none 0).ply 7).state = .sleep) := by
  refine ⟨⟨by decide, by decide⟩, by unfold Settled; decide +kernel, by decide +kernel, by decide +kernel,
    by unfold Settled; decide +kernel, fun o _ => ⟨⟨rfl, by show w0.place.wid ≠ 0; decide +kernel, rfl, by show w0.sched.state ≠ .saved; decide +kernel, rfl, rfl⟩,
      rfl, rfl, rfl, by decide, rfl, rfl, rfl, rfl, rfl, rfl, rfl, rfl⟩, by decide +kernel, by decide +kernel⟩

/-- The last core of die 0 has a record for its segment. -/
def tracing (c : List TraceCore) : State := device.modPly 0 fun q =>
  { q with trace := { q.trace with base := 1, seg := 0, en := true, stop := false, cores := c }
           perf := { q.perf with freeze := true, latch := q.perf.latch.set 8 (some 0xFFFFFFFF) } }
def traced : TraceCore := ⟨191, [List.replicate 32 7], 2 ^ 64 - 64, 0, 0⟩

/-- Die 3 holds a second copy of a granule in the range that L2WB writes back. -/
def diverged : Homes := ⟨95, 0, [3], []⟩
def twoHomes : State := { device.modPart 0 (fun r => { r with l2Busy := true, l2Size := 1, l2Base := 5 }) with
  slices := { device.slices with homes := [diverged] } }

/-- A segment area above the memory of the partition. -/
def beyond : State := device.modPly 0 fun q => { q with trace := { q.trace with base := BitVec.allOnes 36 } }

theorem witness_TraceCounterResult :
    (Writes device (put 0x1000000 4 (2 ^ 31)) (.traceCtl 0) (2 ^ 31) .traceOn ∧
      device.traceRoom 0 { (device.ply 0).trace with base := 1 } = true ∧ Memory.wf device.mem = true ∧
      Writes (tracing []) (put 0x1000000 4 (2 ^ 31)) (.traceCtl 0) (2 ^ 31) .traceOn ∧
      (tracing []).traceRoom 0 ((tracing []).ply 0).trace = true ∧
      Writes beyond (put 0x1000000 4 (2 ^ 31)) (.traceCtl 0) (2 ^ 31) .traceOn ∧
      beyond.traceRoom 0 (beyond.ply 0).trace = false) ∧
    (Writes (tracing []) (put 0x1000000 4 7) (.traceCtl 0) 7 .traceOff ∧ ((tracing []).ply 0).trace.cores = []) ∧
    (coreDie 191 = 0 ∧ (device.ply 0).trace.en = false ∧ ((tracing [traced]).ply 0).trace.en = true ∧
      ((tracing [traced]).ply 0).trace.cores = [traced] ∧ traced.core = 191 ∧
      traced.queue = [List.replicate 32 7] ∧ (List.replicate 32 (7 : Byte)).length = 32 ∧ traced.since = 0 ∧
      ((tracing [traced]).ply 0).trace.stop = false ∧ (tracing [traced]).traceRoom 0 ((tracing [traced]).ply 0).trace = true ∧
      traced.wptr + 32 < 2 ^ 64 ∧ traced.wptr % 32 = 0 ∧
      Memory.wf (tracing [traced]).mem = true) ∧
    Writes device (put 0x1000018 4 3) (.cntCtl 0) 3 .clear ∧
    (accessAt 0x1001040 4 = some (.counter 0 8, 8, 0) ∧ accessAt 0x1001044 4 = some (.counter 0 8, 8, 4) ∧
      accessAt 0x1001040 8 = some (.counter 0 8, 8, 0) ∧ (tracing []).dev.power = true ∧
      (tracing []).visible 0 (.counter 0 8) = true ∧ ((tracing []).ply 0).perf.freeze = true ∧
      ((tracing []).ply 0).perf.latch[8] = some 0xFFFFFFFF) ∧
    (Writes device (put 0x10400 8 (2 ^ 60 - 1)) (.l2wb 0) (2 ^ 60 - 1) .l2wb ∧ (device.part 0).l2Busy = false ∧
      Writes (device.modPart 0 fun r => { r with l2Busy := true }) (put 0x10400 8 (2 ^ 60 - 1)) (.l2wb 0) (2 ^ 60 - 1) .l2wb ∧
      ((device.modPart 0 fun r => { r with l2Busy := true }).part 0).l2Busy = true) ∧
    (device.slices.homes = [] ∧ twoHomes.slices.homes = [diverged] ∧ diverged.others = [3] ∧ diverged.page = 95 ∧
      diverged.first = 0 ∧ twoHomes.homeUsed diverged = false ∧
      ({ twoHomes with ops := [{ inFlight with elems := inFlight.elems.map fun x =>
          { x with loc := .phys (homeCopy 3 + (95 * 4096 + 8)) } }] } : State).homeUsed diverged = true ∧ (twoHomes.part 0).l2Busy = true ∧
      (twoHomes.part 0).l2Base.toNat * 16 ≤ 95 ∧
      95 < (twoHomes.part 0).l2Base.toNat * 16 + (twoHomes.part 0).l2Size.toNat * 16 ∧ twoHomes.dieIn 0 0 = true ∧
      Memory.wf twoHomes.mem = true) := by
  refine ⟨⟨writes_of (by decide +kernel), by decide +kernel, by decide +kernel, writes_of (by decide +kernel),
      by decide +kernel, writes_of (by decide +kernel), by decide +kernel⟩,
    ⟨writes_of (by decide +kernel), by decide +kernel⟩, by decide +kernel, writes_of (by decide +kernel),
    by decide +kernel, ⟨writes_of (by decide +kernel), by decide +kernel, writes_of (by decide +kernel), by decide +kernel⟩,
    by decide +kernel⟩

/-- A launch of one bolt that has not been placed and may use one ply. -/
def one : Launch :=
  { Launch.placed with lid := 5, tag := some 3, next := 0, desc := { Launch.placed.desc with affinity := 1 } }
def placing (l : Launch) : State := { device with launches := [l] }

/-- Every cluster of a ply holds a group, each of a bolt of its own, with one accumulator tile or more. -/
def others : List Group := (List.range 47).map fun i => Group.start (100 + i) (200 + i) 1 0 (4 * i + 4) 1 1 [0] [] 0
def otherBolts : List Bolt := (List.range 47).map fun i => { Bolt.placed with bid := 200 + i }
def packedPly (l : Launch) : State :=
  { placing l with groups := g0 :: others, bolts := Bolt.placed :: otherBolts }

/-- A launch of priority 3 beside the launch of the default warp, which waits at a watched word. -/
def urgent : Launch := { one with desc := { one.desc with prio := 3 } }
def rivals : State :=
  { base.modPart 0 fun p => { p with saveCount := 1 } with
    w := waiting, launches := [urgent, Launch.placed], groups := g0 :: others, bolts := Bolt.placed :: otherBolts }

/-- One set of bolts that the urgent launch has chosen drains. -/
def chosen_ : State :=
  { rivals.modPart 0 fun p => { p with saveCount := 2 } with
    launches := [{ urgent with chosen := [200] }, Launch.placed]
    bolts := Bolt.placed :: { Bolt.placed with bid := 200, save := .draining false } :: otherBolts.drop 1 }

/-- Two launches fit nowhere, the older one for long. -/
def older : State := { packedPly one with launches := [{ one with age := 2 }, { one with lid := 6, age := 1, ripe := true }] }

/-- A persistent launch with a FETCHW to answer. -/
def asks : Group := { g0 with lid := 5, tiles := g0.tiles.set 9 { counted with rsv := [⟨44, false⟩], count := 255 }, fetches := [⟨44, 9, 2⟩, ⟨45, 9, 0⟩] }
def persisting (heat : BitVec 8) (next : Nat) : Launch :=
  { one with desc := { one.desc with attr := 4, heat := heat }, next := next }

/-- A group that a scratch error has killed. -/
def struck : Group := { g0 with lid := 5, killed := true, nums := [6143] }
def striking : State :=
  { placing { one with desc := { one.desc with attr := 2 } } with
    bolts := [{ Bolt.placed with lid := 5 }], groups := [struck] }

theorem witness_PlacementResult :
    (rivals.launches = [urgent, Launch.placed] ∧ urgent.lid ≠ Launch.placed.lid ∧ urgent.desc.prio = 3 ∧
      Launch.placed.desc.prio ≠ 3 ∧ Launch.placed.part = urgent.part ∧ rivals.fitsNowhere urgent = true ∧
      (∀ c ∈ otherBolts, c.bid ≠ Bolt.placed.bid ∧ rivals.evictable c = false) ∧ Bolt.placed.lid = Launch.placed.lid ∧
      Bolt.placed.save = .resident ∧ rivals.evictable Bolt.placed = true ∧ rivals.eligible urgent 0 = true ∧
      (rivals.ply 0).state = .run ∧ ((rivals.without [Bolt.placed]).assignOn urgent 0 1).isSome = true ∧
      Launch.placed.desc.attr.getLsbD 1 = false ∧ urgent.chosen = []) ∧
    (({ urgent with chosen := [200] } : Launch).desc.prio = 3 ∧ chosen_.fitsNowhere { urgent with chosen := [200] } = true ∧
      (chosen_.bolts.drop 1).all (fun c => c.bid != Bolt.placed.bid && !chosen_.evictable c) = true ∧
      chosen_.evictable Bolt.placed = true ∧ chosen_.eligible { urgent with chosen := [200] } 0 = true ∧
      ((chosen_.without [Bolt.placed]).assignOn { urgent with chosen := [200] } 0 1).isSome = true ∧
      ((chosen_.bolts.drop 1).head?.map fun c => (c.bid, c.save)) = some (200, .draining false)) ∧
    (one.lid ≠ 6 ∧ older.launches = [{ one with age := 2 }, { one with lid := 6, age := 1, ripe := true }] ∧
      one.starving = false ∧ older.fitsNowhere { one with age := 2 } = true ∧
      older.fitsNowhere { one with lid := 6, age := 1, ripe := true } = true) ∧
    (one.desc.trace = false ∧ (placing one).wantsBolt one = true ∧ (placing one).choosePly one = some 0 ∧
      (placing one).warps = [] ∧ (∀ b : Beam, ∀ i : Fin 64, (((placing one).beam b).reed.slots[i]).owned = false) ∧
      (placing one).w.place.wid = 0 ∧ 0 < (placing one).serial) ∧
    ((placing { one with next := 1 }).wantsBolt { one with next := 1 } = false ∧ one.slots = true) ∧
    ((packedPly one).fitsNowhere one = true ∧ one.starving = false ∧ (placing one).fitsNowhere one = false ∧
      one.desc.prio ≠ 3) ∧
    ((asks.tiles[9]).rsv = [⟨44, false⟩] ∧ (asks.tiles[9]).count.toNat < 256 ∧ asks.lid = one.lid ∧ asks.killed = false ∧
      asks.fetches = [⟨44, 9, 2⟩, ⟨45, 9, 0⟩] ∧ Memory.wf asks.scratch = true ∧ asks.replay = [] ∧
      ({ asks with replay := [⟨1, 2, 3⟩] } : Group).replay = [⟨1, 2, 3⟩] ∧
      (persisting 0 0).desc.attr.getLsbD 2 = true ∧ (persisting 0 0).next < 1 ∧ (persisting 0 0).ext = (1, 1, 1) ∧
      (persisting 0 0).desc.heat = 0 ∧ ¬(persisting 0 1).next < 1 ∧
      ((persisting 1 0).desc.heat ≠ 0 ∧ (persisting 1 0).desc.heat.toNat ≤ (1 : BitVec 8).toNat ∧
        ((({ placing (persisting 1 0) with groups := [asks] } : State).modPly 0 fun q => { q with heat := 1 }).ply 0).heat = 1)) ∧
    (Bolt.placed.lid = Launch.placed.lid ∧ Launch.placed.desc.attr.getLsbD 0 = false ∧ Bolt.placed.finished = false ∧
      ({ Bolt.placed with finished := true } : Bolt).finished = true ∧
      (let l := { Launch.placed with desc := { Launch.placed.desc with attr := 1 }, retired := 3 }
       l.desc.attr.getLsbD 0 = true ∧ ({ Bolt.placed with index := 3 } : Bolt).index.toNat = l.retired ∧
         Bolt.placed.index.toNat ≠ l.retired ∧ base.ops = [] ∧ base.held = [])) ∧
    (struck.killed = true ∧ struck.bid = Bolt.placed.bid ∧ Bolt.placed.again = false ∧ one.stopped = false ∧
      struck.nums.length = one.desc.warps.toNat + 1 ∧ striking.warps = [] ∧
      striking.relaunchAt { Bolt.placed with lid := 5 } { one with desc := { one.desc with attr := 2 } } [struck] =
        some [(0, [0])]) := by
  refine ⟨⟨rfl, by decide +kernel, rfl, by decide +kernel, rfl, by decide +kernel, by decide +kernel, rfl, rfl,
      by decide +kernel, by decide +kernel, by decide +kernel, by decide +kernel, by decide +kernel, rfl⟩,
    by decide +kernel, ⟨by decide, rfl, rfl, by decide +kernel, by decide +kernel⟩,
    ⟨rfl, by decide +kernel, by decide +kernel, rfl, by decide +kernel, rfl, by decide +kernel⟩,
    by decide +kernel, by decide +kernel, by decide +kernel, by decide +kernel, by decide +kernel⟩

/-- The default warp waits at a watched word; the pool of its partition has one slot, at 64 MiB. -/
def waiter (st : SlotState) (b : Busy) : Warp :=
  { waiting with busy := b, sched := ⟨st, 0, 0, false, some .mwait⟩, env := { w0.env with vregs := 8 } }
def evicting (sv : SaveState) (busy : Bool) (w : Warp) : State :=
  { base.modPart 0 fun p => { p with saveCount := 1, saveBase := 16, preBusy := busy } with
    w := w, launches := [Launch.placed], bolts := [{ Bolt.placed with save := sv }], groups := [g0] }

/-- The image of its warp: at a precise boundary, waiting at the watched word, with its old value. -/
def imaged (sv : SaveState) (b : Busy) (step : Nat) : State :=
  let s := evicting sv false (waiter .saved b)
  let m := cellPutWord s.mem 0x40E0010 8 (2 ^ 46)
  let m := cellPutWord m 0x40E0030 8 (1 * 2 ^ 48 + 5 * 2 ^ 51)
  let m := cellPutWord m 0x40E0060 1 step
  let m := cellPutWord m 0x40E0068 8 (2 ^ 61 + w0.env.scratch - 4)
  { s with mem := cellPutWord m 0x40E0070 8 5 }
def savedIn (byHost was : Bool) : SaveState := .saved [(3, 0)] byHost was

theorem preempt_premises (sv : SaveState) (busy : Bool) (w : Warp) (m : List Host.Cell) (hp : w.place = w0.place)
    (he : w.env = { w0.env with vregs := 8 }) :
    let s := { evicting sv busy w with mem := m }
    let b := { Bolt.placed with save := sv }
    s.launches = [Launch.placed] ∧ s.bolts = [b] ∧ s.groups = [g0] ∧ s.w = w ∧ s.rest = [] ∧ w.place.wid ≠ 0 ∧
    b.lid = Launch.placed.lid ∧ g0.bid = b.bid ∧ g0.lid = Launch.placed.lid ∧ w.place.gid = g0.gid ∧ w.place.bid = b.bid ∧
    w.place.lid = Launch.placed.lid ∧ w.env.part = Launch.placed.part ∧ Launch.placed.desc.trace = false ∧
    w.env.trace = false ∧ b.finished = false ∧ w.place.core = g0.core ∧ coreDie g0.core = b.die ∧
    ∀ (e : Beam) (i : Fin 64), ((s.beam e).reed.slots[i]).owned = false := by
  refine ⟨rfl, rfl, rfl, rfl, rfl, ?_, rfl, rfl, rfl, ?_, ?_, ?_, ?_, rfl, ?_, rfl, ?_, rfl, ?_⟩
  · rw [hp]; decide +kernel
  · rw [hp]; rfl
  · rw [hp]; rfl
  · rw [hp]; rfl
  · rw [he]; rfl
  · rw [he]; rfl
  · rw [hp]; rfl
  · show ∀ (e : Beam) (i : Fin 64), ((base.beam e).reed.slots[i]).owned = false
    decide +kernel

/-- A bolt of one group of one warp fits on the first core tried of those that have room for it. -/
theorem restore_one {s : State} {b : Bolt} {l : Launch} {g : Group} {slots : List (Nat × Nat)} {x y : Bool} {k : Nat}
    (hb : b.save = .saved slots x y) (hg : (s.boltGroups b.bid) = [g])
    (h : (let n := s.slotBase l.part ((slots.find? fun y => y.1 == g.gid).elim 0 Prod.snd)
      let planes := (s.imageOwns n).1 || (s.imageOwns n).2
      let here := (s.rooms b.die).filter fun r => r.fits l &&
        decide (s.tilesUsed r.core + 0 + g.tiles.toList.countP Tile.mapped ≤ 64) &&
        (!planes || !s.ownedClusters.contains (coreCluster r.core))
      !here.isEmpty && here.all fun r => (r.slots.take l.warps).length == 1) = true) :
    ∃ core slot, s.restoreAt b l k = some [(core, [slot])] := by
  unfold State.restoreAt
  rw [hb]
  dsimp only
  rw [hg]
  simp only [List.map_cons, List.map_nil, State.assignSaved, List.filter_nil, List.map_nil, List.sum_nil, Option.map_some]
  generalize e : List.filter _ _ = here
  have h' : (!here.isEmpty && here.all fun r => (r.slots.take l.warps).length == 1) = true := by rw [← e]; exact h
  simp only [Bool.and_eq_true, Bool.not_eq_true', List.all_eq_true, beq_iff_eq] at h'
  obtain ⟨hn, ha⟩ := h'
  have hl : here ≠ [] := by rintro rfl; cases hn
  obtain ⟨r, rs, hr⟩ : ∃ r rs, rotated here (Config.restorePick k 0) = r :: rs := by
    cases q : rotated here (Config.restorePick k 0) with
    | nil =>
      have := congrArg List.length q
      unfold rotated at this
      rw [List.length_append, List.length_drop, List.length_take, List.length_nil] at this
      have := List.length_pos_iff.mpr hl
      omega
    | cons r rs => exact ⟨r, rs, rfl⟩
  have hm : r ∈ here := by
    have m : r ∈ rotated here (Config.restorePick k 0) := by rw [hr]; exact List.mem_cons_self
    unfold rotated at m
    exact (List.mem_append.mp m).elim List.mem_of_mem_drop List.mem_of_mem_take
  obtain ⟨i, hi⟩ := List.length_eq_one_iff.mp (ha r hm)
  exact ⟨r.core, i, by simp [hr, hi]⟩

theorem witness_PreemptionResult :
    (let s := evicting .resident false (waiter .active .none)
     Writes s (put 0x10580 8 (2 ^ 62 + 2 ^ 61)) (.preempt 0) (2 ^ 62 + 2 ^ 61) .save ∧
       bits (2 ^ 62 + 2 ^ 61) 60 2 = 2 ∧ (s.part 0).preBusy = false ∧
       Writes s (put 0x10580 8 (2 ^ 62 + 2 ^ 61 + 2 ^ 58)) (.preempt 0) (2 ^ 62 + 2 ^ 61 + 2 ^ 58) .kill ∧
       g0.killed = false ∧ s.ops = [] ∧ s.copies = [] ∧ s.held = []) ∧
    (let s := evicting .resident true (waiter .active .none)
     Writes s (put 0x10580 8 (2 ^ 62 + 2 ^ 61)) (.preempt 0) (2 ^ 62 + 2 ^ 61) .save ∧ (s.part 0).preBusy = true) ∧
    (let s := evicting (savedIn true false) false (waiter .saved .none)
     Writes s (put 0x10580 8 (2 ^ 62 + 2 ^ 61 + 2 ^ 59)) (.preempt 0) (2 ^ 62 + 2 ^ 61 + 2 ^ 59) .release) ∧
    ((evicting .named false (waiter .active .none)).boltIdem { Bolt.placed with save := .named } = false ∧
      (evicting .named false (waiter .active .none)).evictable { Bolt.placed with save := .named } = true ∧
      (evicting .named false { waiter .active .none with sched := ⟨.active, 0, 0, false, none⟩ }).evictable
        { Bolt.placed with save := .named } = false) ∧
    (let w := waiter .active .none
     let s := evicting (.draining true) false w
     let b := { Bolt.placed with save := .draining true }
     s.copies = [] ∧ s.saveReady b = true ∧ s.regPoison = [] ∧ Memory.wf s.mem = true ∧ s.boltIdem b = false ∧
       w.exited = false ∧ w.sched.hold = some .mwait ∧ w.env.sregs ≤ 64 ∧ w.env.vregs ≤ 256 ∧ w.env.pregs ≤ 16 ∧
       w.ctl.stack.length ≤ 32 ∧ w.region.ctl.stack.length ≤ 32 ∧ g0.accs.length ≤ 32 ∧ g0.scratch = [] ∧ s.held = [] ∧
       ∀ y ∈ s.l1, y.ahead = false) ∧
    (let s := imaged (savedIn true true) .woken 7
     s.w.sched.state = .saved ∧ wordAt s.mem 0x40E0060 1 = 7 ∧ wordAt s.mem 0x40E0068 8 / 2 ^ 60 = 2 ∧
       wordAt s.mem 0x40E0068 8 % 4 = 0 ∧ wordAt s.mem 0x40E0068 8 % 2 ^ 60 < w0.env.scratch ∧ s.poison = [] ∧
       s.held = [] ∧ wordAt (imaged (savedIn true true) .none 1).mem 0x40E0060 1 ≠ 7 ∧
       s.restorable { Bolt.placed with save := savedIn true true } = true ∧ (s.ply 0).state = .run ∧
       (∃ core slot, ({ s with draws := s.draws + 1 } : State).restoreAt { Bolt.placed with save := savedIn true true }
         Launch.placed s.draws = some [(core, [slot])]) ∧
       s.w.place.widx = 0 ∧ g0.warps = 1 ∧ wordAt s.mem 0x4000300 8 = 0 ∧ s.copies = [] ∧ g0.killed = false ∧
       wordAt s.mem 0x40E0010 8 / 2 ^ 46 % 2 = 1 ∧ wordAt s.mem 0x40E0010 8 / 2 ^ 42 % 2 = 0 ∧
       ∀ c ∈ [wordAt s.mem 0x40E0030 8 / 2 ^ 48 % 8, wordAt s.mem 0x40E0030 8 / 2 ^ 51 % 8], 1 ≤ c ∧ c ≤ 5) := by
  refine ⟨⟨writes_of (by decide +kernel), by decide, by decide +kernel, writes_of (by decide +kernel), rfl, rfl, rfl,
      rfl⟩,
    ⟨writes_of (by decide +kernel), by decide +kernel⟩, writes_of (by decide +kernel), by decide +kernel,
    ⟨rfl, by decide +kernel, rfl, by decide +kernel, by decide +kernel, rfl, rfl, by decide +kernel, by decide +kernel,
      by decide +kernel, by decide +kernel, by decide +kernel, by decide +kernel, rfl, rfl, fun _ h => nomatch h⟩,
    ⟨rfl, by decide +kernel, by decide +kernel, by decide +kernel, by decide +kernel, rfl, rfl, by decide +kernel,
      by decide +kernel, by decide +kernel, restore_one (g := g0) (slots := [(3, 0)]) rfl (by decide +kernel) (by decide +kernel),
      by decide +kernel, rfl, by decide +kernel, rfl, rfl,
      by decide +kernel, by decide +kernel, by decide +kernel⟩⟩

/-- The default warp about to issue a group. -/
def issuing (w : Warp) (trapEn : Bool) : State :=
  { base.modPart 0 fun p => { p with trapEn := trapEn, trapVa := 1 } with
    w := w, groups := [g0], issue := { base.issue with snap := none, pc := 0x10000, word := 0x7AC00005, words := [0x7AC00005] } }

/-- The trap that TRAP raises. -/
def raisedTrap : State := raised (issuing w0 true) 5 (BitVec.zeroExtend 64 (0x1FFFFFFFF : BitVec 33)) 0x7AC00005

theorem witness_GroupCheckResult :
    (∀ w ∈ [w0, { w0 with cnt := { Counters.zero with cc := [⟨7, false⟩] } },
        { w0 with ctl := { w0.ctl with stack := List.replicate 32 ⟨1, 0⟩ } }, { w0 with handler := true },
        { w0 with env := { w0.env with sregs := 63, pregs := 15 } }],
      (issuing w true).issue.snap = none ∧ (issuing w true).w = w ∧ w.place.wid ≠ 0 ∧
      ∀ v ∈ (issuing w true).rest, v.place.wid ≠ w.place.wid) ∧
    (w0.cnt = Counters.zero ∧ w0.ctl.stack = [] ∧ w0.handler = false ∧ w0.faults = [] ∧ w0.env.ordered = false ∧
      w0.env.trace = false ∧ x.gp.toNat < w0.env.pregs ∧ w0.guard x ≠ 0) ∧
    (let e := { w0.env with sregs := 63, pregs := 15 }
     e.sregs ≤ (63 : SReg).toNat ∧ (62 : SReg).toNat < e.sregs ∧ x.gp.toNat < e.pregs ∧
       e.pregs ≤ ({ x with gp := 15 } : Ext).gp.toNat) ∧
    (((issuing w0 true).part w0.env.part).trapEn = true ∧
      ∃ pas s', raisedTrap.framePas raisedTrap.w .store = (.ok pas, s') ∧ (∀ a ∈ pas, a / 2 ^ 51 % 2 = 0) ∧
        s'.w = raisedTrap.w ∧ s'.rest = raisedTrap.rest ∧ s'.parts = raisedTrap.parts) := by
  refine ⟨?_, by decide +kernel, by decide +kernel, by decide +kernel, ?_⟩
  · simp only [List.forall_mem_cons, List.not_mem_nil, false_implies, implies_true, and_true]
    refine ⟨⟨rfl, rfl, ?_, fun _ h => nomatch h⟩, ⟨rfl, rfl, ?_, fun _ h => nomatch h⟩,
      ⟨rfl, rfl, ?_, fun _ h => nomatch h⟩, ⟨rfl, rfl, ?_, fun _ h => nomatch h⟩,
      ⟨rfl, rfl, ?_, fun _ h => nomatch h⟩⟩ <;> (show w0.place.wid ≠ 0; decide +kernel)
  · obtain ⟨l, t, e, hx, hp⟩ := pas_ok (s := raisedTrap) (w := raisedTrap.w) (k := .store)
      (p := fun l _ => ∀ a ∈ l, a / 2 ^ 51 % 2 = 0) (by decide +kernel)
    exact ⟨l, t, e, hp, hx.same _ fun _ _ _ _ _ _ => rfl, hx.same _ fun _ _ _ _ _ _ => rfl,
      hx.same _ fun _ _ _ _ _ _ => rfl⟩

/-- The default warp about to fetch, with words at its program counter from the `k`-th of the packet on. -/
def fetches (k : BitVec 2) (ws : List Nat) : State :=
  { base with
    w := { w0 with widx := k }
    mem := ws.zipIdx.foldl (fun m x => cellPutWord m (0x10000 + 4 * (k.toNat + x.2)) 4 x.1) base.mem }

/-- The step has chosen the warp, and latches its group. -/
def chosen (k : BitVec 2) (ws : List Nat) : State :=
  let u := ({ fetches k ws with turn := .events, time := (fetches k ws).time + 1 } : State).focus 4
  { u with issue := Issue.mk u.w.pc u.w.widx 0 0 [] none 0 none }

def fetched (k : BitVec 2) (ws : List Nat) := (chosen k ws).packetPas (chosen k ws).w 0x10000

/-- The words that the step reads. -/
def wordOf (k : BitVec 2) (ws : List Nat) (j : Nat) : BitVec 32 :=
  BitVec.ofNat 32 (((List.range 4).map fun i =>
    (cellGet (fetched k ws).2.mem ((List.range' 0x10000 12).getD (4 * j + i) 0)).toNat * 256 ^ i).sum)

/-- Whether words decode. -/
def decodes (a : BitVec 32) (l : Option (BitVec 32)) : Bool :=
  match decodeUnit a l with
  | .ok _ => true
  | .no _ => false

theorem decodes_ok {a : BitVec 32} {l : Option (BitVec 32)} (h : decodes a l = true) : ∃ i, decodeUnit a l = .ok i := by
  unfold decodes at h
  cases e : decodeUnit a l with
  | ok i => exact ⟨i, rfl⟩
  | no r => rw [e] at h; cases h

theorem decodes_no {a : BitVec 32} {l : Option (BitVec 32)} (h : decodes a l = false) : ∀ i, decodeUnit a l ≠ .ok i := by
  intro i e
  unfold decodes at h
  rw [e] at h
  cases h

/-- A word in the last place of a packet, a word with its LIT and two words of two pipes in its last two
places, and a word that no encoding assigns. -/
theorem witness_StepRunsDecoded :
    (∀ p ∈ [((2 : BitVec 2), [0x02004105]), (1, [0x83C47042, 0x7E003000]), (1, [0x82004105, 0x20081083]), (2, [0])],
      (fetches p.1 p.2).agenda = [] ∧ (fetches p.1 p.2).turn = .issue ∧ (fetches p.1 p.2).issueOrder = [4] ∧
      (chosen p.1 p.2).w.widx.toNat < 3 ∧
      (((chosen p.1 p.2).w.pc.toNat : Int) - ((fetched p.1 p.2).2.codeBase (chosen p.1 p.2).w).toNat) % 12 = 0 ∧
      (chosen p.1 p.2).w.packet = none ∧
      fetched p.1 p.2 = (.ok (List.range' 0x10000 12), (fetched p.1 p.2).2) ∧ (List.range' 0x10000 12).length = 12 ∧
      ∀ a ∈ List.range' 0x10000 12, isRemote a = false) ∧
    (∀ k ws, (fetched k ws).2.w = (chosen k ws).w ∧ (fetched k ws).2.issue = (chosen k ws).issue) ∧
    (let s := { fetches 2 [] with w := { (fetches 2 []).w with packet := some ⟨0x10000, [0, 0, 0x02004105]⟩ } }
     let u := ({ s with turn := .events, time := s.time + 1 } : State).focus 4
     s.agenda = [] ∧ s.turn = .issue ∧ s.issueOrder = [4] ∧ u.w.widx.toNat < 3 ∧
       u.w.packet = some ⟨u.w.pc, [0, 0, 0x02004105]⟩ ∧ ((u.w.pc.toNat : Int) - (u.codeBase u.w).toNat) % 12 = 0) ∧
    (let s := { fetches 0 [] with w := { (fetches 0 []).w with pc := 0xFFF8, packet := some ⟨0xFFF8, [0, 0, 0]⟩ } }
     let u := ({ s with turn := .events, time := s.time + 1 } : State).focus 4
     s.agenda = [] ∧ s.turn = .issue ∧ s.issueOrder = [4] ∧ u.w.widx.toNat < 3 ∧
       u.w.packet = some ⟨u.w.pc, [0, 0, 0]⟩ ∧ ((u.w.pc.toNat : Int) - (u.codeBase u.w).toNat) % 12 ≠ 0) ∧
    (let a := wordOf 2 [0x02004105] 2
     a.toNat < 2 ^ 31 ∧ ∃ i, decodeUnit a none = .ok i) ∧
    (let a := wordOf 1 [0x83C47042, 0x7E003000] 1
     let b := wordOf 1 [0x83C47042, 0x7E003000] 2
     2 ^ 31 ≤ a.toNat ∧ b.toNat < 2 ^ 31 ∧ isLit b = true ∧ ∃ i, decodeUnit a (some b) = .ok i) ∧
    (let a := wordOf 1 [0x82004105, 0x20081083] 1
     let b := wordOf 1 [0x82004105, 0x20081083] 2
     2 ^ 31 ≤ a.toNat ∧ b.toNat < 2 ^ 31 ∧ isLit b = false ∧ (∃ i, decodeUnit a none = .ok i) ∧
       (∃ j, decodeUnit b none = .ok j) ∧ pipeOf a ≠ pipeOf b) ∧
    (let a := wordOf 2 [0] 2
     a.toNat < 2 ^ 31 ∧ isLit a = false ∧ ∀ i, decodeUnit a none ≠ .ok i) := by
  refine ⟨?_, fun k ws => ?_, ⟨rfl, rfl, by decide +kernel, by decide +kernel, by decide +kernel, by decide +kernel⟩,
    ⟨rfl, rfl, by decide +kernel, by decide +kernel, by decide +kernel, by decide +kernel⟩,
    ⟨by decide +kernel, decodes_ok (by decide +kernel)⟩,
    ⟨by decide +kernel, by decide +kernel, by decide +kernel, decodes_ok (by decide +kernel)⟩,
    ⟨by decide +kernel, by decide +kernel, by decide +kernel, decodes_ok (by decide +kernel),
      decodes_ok (by decide +kernel), by decide +kernel⟩,
    by decide +kernel, by decide +kernel, decodes_no (by decide +kernel)⟩
  · simp only [List.forall_mem_cons, List.not_mem_nil, false_implies, implies_true, and_true]
    refine ⟨?_, ?_, ?_, ?_⟩ <;>
      exact ⟨rfl, rfl, by decide +kernel, by decide +kernel, by decide +kernel, by decide +kernel,
        ok_pair (by decide +kernel), rfl, by decide +kernel⟩
  · have h := (chosen k ws).packetPas_only (chosen k ws).w 0x10000
    exact ⟨h.same State.w fun _ _ _ _ _ _ => rfl, h.same State.issue fun _ _ _ _ _ _ => rfl⟩

/-- An instruction of a family whose words stand for it, with and without a LIT, chained before a word. -/
theorem witness_DecodeOfEncode :
    (Instr.smad x .i32 7 1 2 3).wf = true ∧ (fields (.smad x .i32 7 1 2 3)).isSome = true ∧
    (∀ w ∈ ([0x20081083] : List (BitVec 32)).head?, isLit w = false) ∧ (∀ w ∈ ([] : List (BitVec 32)).head?, isLit w = false) := by
  refine ⟨by decide +kernel, by decide +kernel, ?_, fun w h => nomatch h⟩
  intro w h
  cases h
  decide +kernel

theorem witness_StepKeepsMemories : State.reset.memWf = true ∧ base.memWf = true := by decide +kernel

end Sys2Proof.Tests
end

section
/-! SUPPORT. Every step keeps every memory in its canonical form (O59). `MemWf` says of a state, memory by memory,
that it is in canonical form; for each operation of the machine there is a lemma `MemWf.<operation>` that it keeps
this, so that the proof for an operation follows its definition: the lemma of each operation that it is made of,
in turn. What changes no memory at all is `MemWf.same`. -/

-- An automatic argument is evaluated once all theorems before it are checked: one theorem at a time, no thread waits.
set_option Elab.async false

namespace Sys2Proof.Machine

/-! ## Canonical memories of a state -/

/-- Every memory of a state is in its canonical form. -/
structure MemWf (s : State) : Prop where
  mem : Memory.wf s.mem = true
  vault : Memory.wf s.vault = true
  flash : Memory.wf s.flash = true
  groups : ∀ g ∈ s.groups, Memory.wf g.scratch = true
  bolts : ∀ b ∈ s.bolts, ∀ g ∈ b.gone, Memory.wf g.scratch = true
  plies : ∀ p ∈ s.plies.toList, Memory.wf p.mirror = true

theorem memWf_iff (s : State) : MemWf s ↔ s.memWf = true := by
  simp only [State.memWf, Bool.and_eq_true, List.all_eq_true]
  exact ⟨fun ⟨m, v, f, g, b, p⟩ => ⟨⟨⟨⟨⟨m, v⟩, f⟩, g⟩, b⟩, p⟩, fun ⟨⟨⟨⟨⟨m, v⟩, f⟩, g⟩, b⟩, p⟩ => ⟨m, v, f, g, b, p⟩⟩

/-- The parts of a state that hold memories. -/
def State.memories (s : State) :
    List Host.Cell × List Host.Cell × List Host.Cell × List Group × List Bolt × Vector Ply 8 :=
  (s.mem, s.vault, s.flash, s.groups, s.bolts, s.plies)

/-- What holds no memory may change. -/
theorem MemWf.same {s t : State} (h : MemWf s) (e : t.memories = s.memories := by rfl) : MemWf t := by
  simp only [State.memories, Prod.mk.injEq] at e
  obtain ⟨em, ev, ef, eg, eb, ep⟩ := e
  exact ⟨em ▸ h.mem, ev ▸ h.vault, ef ▸ h.flash, eg ▸ h.groups, eb ▸ h.bolts, ep ▸ h.plies⟩

/-- What changes a state as a translation does keeps its memories canonical. -/
theorem MemWf.only {s t : State} (h : MemWf s) (x : XlatOnly s t) : MemWf t :=
  ⟨x.2 h.mem, x.same State.vault (fun _ _ _ _ _ _ => rfl) ▸ h.vault,
    x.same State.flash (fun _ _ _ _ _ _ => rfl) ▸ h.flash,
    x.same State.groups (fun _ _ _ _ _ _ => rfl) ▸ h.groups,
    x.same State.bolts (fun _ _ _ _ _ _ => rfl) ▸ h.bolts,
    x.same State.plies (fun _ _ _ _ _ _ => rfl) ▸ h.plies⟩

/-- The memory of the device may change to a canonical one, with what holds no memory. -/
theorem MemWf.setMem {s t : State} (h : MemWf s) (w : Memory.wf t.mem = true)
    (e : t.memories.2 = s.memories.2 := by rfl) : MemWf t := by
  simp only [State.memories, Prod.mk.injEq] at e
  obtain ⟨ev, ef, eg, eb, ep⟩ := e
  exact ⟨w, ev ▸ h.vault, ef ▸ h.flash, eg ▸ h.groups, eb ▸ h.bolts, ep ▸ h.plies⟩

/-- The groups may change to others with canonical scratch, with what holds no memory. -/
theorem MemWf.setGroups {s t : State} (h : MemWf s) (w : ∀ g ∈ t.groups, Memory.wf g.scratch = true)
    (e : { t with groups := s.groups }.memories = s.memories := by rfl) : MemWf t := by
  simp only [State.memories, Prod.mk.injEq] at e
  obtain ⟨em, ev, ef, -, eb, ep⟩ := e
  exact ⟨em ▸ h.mem, ev ▸ h.vault, ef ▸ h.flash, w, eb ▸ h.bolts, ep ▸ h.plies⟩

/-- The bolts may change to others whose exited groups have canonical scratch, with what holds no memory. -/
theorem MemWf.setBolts {s t : State} (h : MemWf s) (w : ∀ b ∈ t.bolts, ∀ g ∈ b.gone, Memory.wf g.scratch = true)
    (e : { t with bolts := s.bolts }.memories = s.memories := by rfl) : MemWf t := by
  simp only [State.memories, Prod.mk.injEq] at e
  obtain ⟨em, ev, ef, eg, -, ep⟩ := e
  exact ⟨em ▸ h.mem, ev ▸ h.vault, ef ▸ h.flash, eg ▸ h.groups, w, ep ▸ h.plies⟩

/-- The plies may change to others with canonical mirrors, with what holds no memory. -/
theorem MemWf.setPlies {s t : State} (h : MemWf s) (w : ∀ p ∈ t.plies.toList, Memory.wf p.mirror = true)
    (e : { t with plies := s.plies }.memories = s.memories := by rfl) : MemWf t := by
  simp only [State.memories, Prod.mk.injEq] at e
  obtain ⟨em, ev, ef, eg, eb, -⟩ := e
  exact ⟨em ▸ h.mem, ev ▸ h.vault, ef ▸ h.flash, eg ▸ h.groups, eb ▸ h.bolts, w⟩

/-! ## How operations are put together -/

/-- The state of a pair that is known by its parts. -/
theorem MemWf.snd {α : Type} {r : α × State} {a : α} {t : State} (h : MemWf r.2) (e : r = (a, t)) : MemWf t := by
  rw [e] at h
  exact h

/-- The state of a pair that is known by its parts, where it comes first. -/
theorem MemWf.fst {α : Type} {r : State × α} {a : α} {t : State} (h : MemWf r.1) (e : r = (t, a)) : MemWf t := by
  rw [e] at h
  exact h

theorem MemWf.ite {c : Prop} [Decidable c] {s t : State} (h : MemWf s) (k : MemWf t) : MemWf (if c then s else t) := by
  split
  · exact h
  · exact k

theorem MemWf.elim {α : Type} {s : State} {f : α → State} (h : MemWf s) (k : ∀ a, MemWf (f a)) (o : Option α) :
    MemWf (o.elim s f) := by
  cases o with
  | none => exact h
  | some a => exact k a

theorem MemWf.getD {s : State} (h : MemWf s) (o : Option State) (k : ∀ t, o = some t → MemWf t) :
    MemWf (o.getD s) := by
  cases o with
  | none => exact h
  | some t => exact k t rfl

theorem MemWf.foldl {α : Type} {s : State} {f : State → α → State} (h : MemWf s)
    (k : ∀ t a, MemWf t → MemWf (f t a)) (l : List α) : MemWf (l.foldl f s) := by
  induction l generalizing s with
  | nil => exact h
  | cons a l ih => exact ih (k s a h)

/-- A fold that carries a value beside the state. -/
theorem MemWf.foldlSnd {α β : Type} {r : β × State} {f : β × State → α → β × State} (h : MemWf r.2)
    (k : ∀ r a, MemWf r.2 → MemWf (f r a).2) (l : List α) : MemWf (l.foldl f r).2 := by
  induction l generalizing r with
  | nil => exact h
  | cons a l ih => exact ih (k r a h)

/-- A fold that carries a value behind the state. -/
theorem MemWf.foldlFst {α β : Type} {r : State × β} {f : State × β → α → State × β} (h : MemWf r.1)
    (k : ∀ r a, MemWf r.1 → MemWf (f r a).1) (l : List α) : MemWf (l.foldl f r).1 := by
  induction l generalizing r with
  | nil => exact h
  | cons a l ih => exact ih (k r a h)

/-! ## Groups, bolts and register blocks -/

theorem MemWf.bolt {s : State} (h : MemWf s) {bid : Nat} {b : Bolt} (e : s.bolt? bid = some b) :
    ∀ g ∈ b.gone, Memory.wf g.scratch = true := h.bolts b (List.mem_of_find?_eq_some e)

theorem MemWf.ply {s : State} (h : MemWf s) (d : Die) : Memory.wf (s.ply d).mirror = true :=
  h.plies _ (Vector.getElem_mem _ |> Vector.mem_toList_iff.2)

/-- The scratch of the groups that a change of each group leaves. -/
theorem scratchWf_map {gs : List Group} (h : ∀ g ∈ gs, Memory.wf g.scratch = true) {f : Group → Group}
    (k : ∀ g, Memory.wf g.scratch = true → Memory.wf (f g).scratch = true) :
    ∀ g ∈ gs.map f, Memory.wf g.scratch = true := by
  intro g hg
  obtain ⟨g', hg', rfl⟩ := List.mem_map.1 hg
  exact k g' (h g' hg')

theorem MemWf.mapGroups {s : State} (h : MemWf s) {f : Group → Group}
    (k : ∀ g, Memory.wf g.scratch = true → Memory.wf (f g).scratch = true) :
    MemWf { s with groups := s.groups.map f } := h.setGroups (scratchWf_map h.groups k)

/-- A change of some of the groups. -/
theorem MemWf.mapGroupsIf {s : State} (h : MemWf s) {p : Group → Prop} [DecidablePred p] {f : Group → Group}
    (k : ∀ g, Memory.wf g.scratch = true → Memory.wf (f g).scratch = true := by exact fun _ w => w) :
    MemWf { s with groups := s.groups.map fun g => if p g then f g else g } :=
  h.mapGroups fun g w => by
    split
    · exact k g w
    · exact w

theorem MemWf.filterGroups {s : State} (h : MemWf s) (p : Group → Bool) :
    MemWf { s with groups := s.groups.filter p } :=
  h.setGroups fun g hg => h.groups g (List.mem_filter.1 hg).1

theorem MemWf.appendGroups {s : State} (h : MemWf s) {gs : List Group}
    (k : ∀ g ∈ gs, Memory.wf g.scratch = true) : MemWf { s with groups := s.groups ++ gs } :=
  h.setGroups fun g hg => (List.mem_append.1 hg).elim (h.groups g) (k g)

theorem MemWf.modGroup {s : State} {gid : Nat} {f : Group → Group} (h : MemWf s)
    (k : ∀ g, Memory.wf g.scratch = true → Memory.wf (f g).scratch = true := by exact fun _ w => w) :
    MemWf (s.modGroup gid f) := h.mapGroupsIf (p := fun g => g.gid = gid) k

theorem MemWf.modBolt {s : State} {bid : Nat} {f : Bolt → Bolt} (h : MemWf s)
    (k : ∀ b : Bolt, (∀ g ∈ b.gone, Memory.wf g.scratch = true) → ∀ g ∈ (f b).gone, Memory.wf g.scratch = true :=
      by exact fun _ w => w) : MemWf (s.modBolt bid f) := by
  refine h.setBolts fun b hb => ?_
  obtain ⟨b', hb', rfl⟩ := List.mem_map.1 hb
  split
  · exact k b' (h.bolts b' hb')
  · exact h.bolts b' hb'

theorem MemWf.modPly {s : State} {d : Die} {f : Ply → Ply} (h : MemWf s)
    (k : ∀ p, Memory.wf p.mirror = true → Memory.wf (f p).mirror = true := by exact fun _ w => w) :
    MemWf (s.modPly d f) := by
  refine h.setPlies fun p hp => ?_
  rcases Vector.mem_or_eq_of_mem_set (hi := d.isLt) (Vector.mem_toList_iff.1 hp) with hp | rfl
  · exact h.plies p (Vector.mem_toList_iff.2 hp)
  · exact k _ (h.ply d)

theorem MemWf.focus {s : State} {wid : Nat} (h : MemWf s) : MemWf (s.focus wid) := by
  unfold State.focus
  split
  · exact h
  · split
    · exact h
    · exact h.same

end Sys2Proof.Machine

namespace Sys2Proof.Machine

/-! ## Translation -/

section
variable {s : State} (h : MemWf s)
include h

theorem MemWf.lineRequest {d : Option Die} {x : Die} : MemWf (s.lineRequest d x) := h.only (s.lineRequest_only d x)

theorem MemWf.atHome {pa : Nat} {x : Option Die} : MemWf (s.atHome pa x).2 := h.only (s.atHome_only pa x)

theorem MemWf.mirror {pa : Nat} {bs : List Byte} : MemWf (s.mirror pa bs) := h.only (s.mirror_only pa bs)

theorem MemWf.sendRemote {b : Beam} {pa : Nat} {q : RemoteReq} : MemWf (s.sendRemote b pa q) :=
  h.only (s.sendRemote_only b pa q)

theorem MemWf.sendStore {b : Beam} {pa : Nat} {bs : List Byte} : MemWf (s.sendStore b pa bs) :=
  h.only (s.sendStore_only b pa bs)

theorem MemWf.accepted : MemWf s.accepted.2 := h.only s.accepted_only

theorem MemWf.askRemote {b : Beam} {pa n : Nat} : MemWf (s.askRemote b pa n).2 := h.only (s.askRemote_only b pa n)

theorem MemWf.askPeer {b : Beam} {pa n : Nat} : MemWf (s.askPeer b pa n).2 := h.only (s.askPeer_only b pa n)

theorem MemWf.translate {x : XCtx} {acc : Access} {va : Word64} {hit : Bool} : MemWf (s.translate x acc va hit).2 :=
  h.only (s.translate_only x acc va hit)

theorem MemWf.resolveVa {w : Warp} {acc : Access} {va : Word64} {hit : Bool} : MemWf (s.resolveVa w acc va hit).2 :=
  h.only (s.resolveVa_only w acc va hit)

theorem MemWf.l1Yield {pa n : Nat} : MemWf (s.l1Yield pa n) := h.only (s.l1Yield_only pa n)

theorem MemWf.l1Flush {p : L1Word → Bool} : MemWf (s.l1Flush p) := h.only (s.l1Flush_only p)

theorem MemWf.l1Recall {c : Option Nat} {pa n : Nat} : MemWf (s.l1Recall c pa n) := h.only (s.l1Recall_only c pa n)

theorem MemWf.askLines {d : Option Die} {rs : List (Nat × Nat)} : MemWf (s.askLines d rs) :=
  h.only (s.askLines_only d rs)

theorem MemWf.mergeLine {x : Homes} {i : Nat} : MemWf (s.mergeLine x i) := h.setMem (cellPut_wf h.mem _ _)

end

/-- Copies of a range to several places. -/
theorem cellCopies_wf (l : List Nat) {m : List Host.Cell} (h : Memory.wf m = true) (src n : Nat) (f : Nat → Nat) :
    Memory.wf (l.foldl (fun m o => cellCopy m src (f o) n) m) = true := by
  induction l generalizing m with
  | nil => exact h
  | cons o l ih => exact ih (cellCopy_wf h src (f o) n)

/-- Several ranges as nothing has written them. -/
theorem cellClears_wf {α : Type} (l : List α) {m : List Host.Cell} (h : Memory.wf m = true) (f g : α → Nat) :
    Memory.wf (l.foldl (fun m o => cellClear m (f o) (g o)) m) = true := by
  induction l generalizing m with
  | nil => exact h
  | cons o l ih => exact ih (cellClear_wf h (f o) (g o))

section
variable {s : State} (h : MemWf s)
include h

theorem MemWf.mergeHomes {x : Homes} : MemWf (s.mergeHomes x) := by
  have hl : MemWf (if x.others.isEmpty then s else (List.range 32).foldl (fun s i => s.mergeLine x i) s) :=
    h.ite (h.foldl (fun _ _ k => k.mergeLine) _)
  unfold State.mergeHomes
  extract_lets t
  split
  · exact MemWf.setMem (s := t) hl (cellCopies_wf _ hl.mem _ _ _)
  · exact MemWf.setMem (s := t) hl (cellClears_wf _ hl.mem _ _)

theorem MemWf.heatAdd {e : TlbEntry} : MemWf (s.heatAdd e) := by
  unfold State.heatAdd
  extract_lets
  split
  · exact h
  · exact h.setMem (cellPutWord_wf h.mem _ _ _)

theorem MemWf.tlbDrop {p : TlbEntry → Bool} : MemWf (s.tlbDrop p) :=
  (h.foldl (fun _ _ k => k.heatAdd) (s.tlb.filter p)).same

theorem MemWf.hitOnce {w : Warp} {used : List TlbKey} {va : Nat} : MemWf (s.hitOnce w used va).2 := by
  unfold State.hitOnce
  extract_lets
  split
  · exact h
  · split
    · exact h
    · exact h.same

theorem MemWf.resolve {w : Warp} {sp : Sp} {acc : Access} {l : Nat} {a : Word64} {size : Nat} {hit : Bool} :
    MemWf (s.resolve w sp acc l a size hit).2 := by
  unfold State.resolve
  split
  · exact h
  · cases sp <;> dsimp only
    case g => exact h.resolveVa
    case s => split <;> exact h
    case p =>
      split
      · exact h
      · exact h.resolveVa
    case v => split <;> exact h
    case r =>
      split
      · exact h
      · split <;> exact h

/-! ## Trace and counters -/

theorem MemWf.clockOf {core : Nat} : MemWf (s.clockOf core).2 := by
  unfold State.clockOf
  extract_lets
  split
  split
  · exact h
  · exact h.same

theorem MemWf.count {d : Die} {k : PerfCounter} {n : Nat} : MemWf (s.count d k n) :=
  h.modPly fun p w => by
    split
    · exact w
    · exact w

theorem MemWf.putRecord {core : Nat} {r : List Byte} : MemWf (s.putRecord core r) := h.modPly

theorem MemWf.setTraceQueue {core : Nat} {q : List (List Byte)} : MemWf (s.setTraceQueue core q) := h.modPly

theorem MemWf.record {w : Warp} {f : Nat → List Byte} : MemWf (s.record w f) := by
  unfold State.record
  split
  · exact h.clockOf.putRecord
  · exact h

theorem MemWf.recordIssue {w : Warp} {pc : Word64} {widx : BitVec 2} {words : List (BitVec 32)} :
    MemWf (s.recordIssue w pc widx words) := h.record.ite h

theorem MemWf.recordWait {w : Warp} {pc : Word64} {widx : BitVec 2} {was : BitVec 20} {l sc k t : Nat} :
    MemWf (s.recordWait w pc widx was l sc k t) := by
  unfold State.recordWait
  split
  · exact MemWf.record (s := s.draw.2) h.same
  · exact h

theorem MemWf.recordSwap {w : Warp} {i p r : Nat} : MemWf (s.recordSwap w i p r) := h.record.ite h

theorem MemWf.recordStart {w : Warp} {r : Nat} : MemWf (s.recordStart w r) := h.record

theorem MemWf.recordEnd {w : Warp} {r : Nat} : MemWf (s.recordEnd w r) := h.record

/-! ## Bytes of locations -/

theorem MemWf.putHomeBy {id : Nat} {x : Loc} {bs : List Byte} : MemWf (s.putHomeBy id x bs) := by
  unfold State.putHomeBy
  cases x with
  | phys a => exact h.setMem (cellPut_wf h.mem a bs)
  | scratch g a => exact MemWf.modGroup (s := s.soundBy _ _ _) h.same fun g w => cellPut_wf w a bs
  | vault a => exact ⟨h.mem, cellPut_wf h.vault a bs, h.flash, h.groups, h.bolts, h.plies⟩
  | reed b o => exact h.same

theorem MemWf.putHome {x : Loc} {bs : List Byte} : MemWf (s.putHome x bs) := h.putHomeBy

theorem MemWf.mirrorAt {x : Loc} {bs : List Byte} : MemWf (s.mirrorAt x bs) := by
  cases x with
  | phys a => exact h.mirror
  | scratch g a => exact h
  | vault a => exact h
  | reed b o => exact h

theorem MemWf.settleFill {g a n : Nat} {keep : List (Nat × Byte)} : MemWf (s.settleFill g a n keep) := h.same

theorem MemWf.readHome {x : Loc} {n : Nat} : MemWf (s.readHome x n).2 := by
  cases x with
  | scratch g a =>
    unfold State.readHome
    dsimp only
    split
    · exact h
    · exact h.same
  | phys a => exact h
  | vault a => exact h
  | reed b o => exact h

theorem MemWf.storeHome {id : Nat} {x : Loc} {bs : List Byte} : MemWf (s.storeHome id x bs) := by
  unfold State.storeHome
  cases x with
  | scratch g a =>
    dsimp only
    split
    · exact h.putHomeBy
    · exact (MemWf.putHomeBy (s := s.draw.2) h.same).putHome.settleFill
  | phys a => exact h.putHomeBy
  | vault a => exact h.putHomeBy
  | reed b o => exact h.putHomeBy

theorem MemWf.fillScratch {id g a : Nat} {bs : List Byte} : MemWf (s.fillScratch id g a bs) :=
  (h.putHomeBy (x := .scratch g a)).same

theorem MemWf.putMem {core id pa : Nat} {bs : List Byte} : MemWf (s.putMem core id pa bs) :=
  h.l1Yield.putHomeBy.mirror.same

theorem MemWf.putShared {pa : Nat} {bs : List Byte} : MemWf (s.putShared pa bs) :=
  h.l1Yield.putHome.mirror.same

theorem MemWf.l1Exit {wid : Nat} : MemWf (s.l1Exit wid) := h.l1Flush.same

theorem MemWf.l1WriteBack {core : Nat} : MemWf (s.l1WriteBack core) := h.l1Flush

theorem MemWf.patchCounts {wid : Nat} : MemWf (s.patchCounts wid) := by
  unfold State.patchCounts
  split
  · exact h
  · split
    · exact h
    · exact h.setMem (cellPutWord_wf h.mem _ _ _)

theorem MemWf.finish {wid op : Nat} : MemWf (s.finish wid op) := MemWf.patchCounts (s := s.modWarp _ _) h.same

/-! ## Barriers -/

theorem MemWf.settleNamed {gid : Nat} : MemWf (s.settleNamed gid) := by
  unfold State.settleNamed
  split
  · exact h
  · exact h.modGroup

theorem MemWf.settleBolt1 {bid : Nat} {n : Fin 8} : MemWf (s.settleBolt1 bid n) := by
  unfold State.settleBolt1
  split
  · exact h
  · extract_lets gs bar arr come t arrived u
    have ht : MemWf t := h.mapGroupsIf
    split
    · have hu : MemWf u := ht.modBolt
      exact hu.mapGroupsIf (p := fun g => g.bid = bid)
    · exact ht.modBolt

theorem MemWf.settleBolt {bid : Nat} : MemWf (s.settleBolt bid) := h.foldl (fun _ _ k => k.settleBolt1) _

theorem MemWf.enqueue {d : Die} {lid wid : Nat} {k : DentKind} : MemWf (s.enqueue d lid wid k) := by
  unfold State.enqueue
  exact MemWf.modPly (s := s.fresh.2) h.same

theorem MemWf.settleBeam {lid : Nat} {d : Die} {n : Fin 8} : MemWf (s.settleBeam lid d n) := by
  unfold State.settleBeam
  extract_lets
  split
  extract_lets
  exact h.enqueue.ite h

theorem MemWf.settleBeams {lid : Nat} {d : Die} {l : List (Fin 8)} :
    MemWf (l.foldl (fun s n => s.settleBeam lid d n) s) := h.foldl (fun _ _ k => k.settleBeam) l

theorem MemWf.leavePly {lid : Nat} {d : Die} : MemWf (s.leavePly lid d) :=
  h.ite (h.enqueue.ite h.settleBeams)

theorem MemWf.settleGroup {gid bid lid : Nat} {d : Die} : MemWf (s.settleGroup gid bid lid d) :=
  h.settleNamed.settleBolt.settleBeams

theorem MemWf.modTile {gid : Nat} {n : TileName} {f : Tile → Tile} : MemWf (s.modTile gid n f) := h.modGroup

end

end Sys2Proof.Machine

namespace Sys2Proof.Machine

/-! ## Units of copies -/

section
variable {s : State} (h : MemWf s)
include h

theorem MemWf.farBytes {w : Warp} {loc : Loc} {n : Nat} : MemWf (s.farBytes w loc n).2 := by
  unfold State.farBytes
  extract_lets
  split
  · exact h
  · split
    · split
      all_goals
        rename_i e
        exact h.askRemote.snd e
    · cases loc with
      | phys pa => exact h.l1Recall.same
      | scratch g a => exact h
      | vault a => exact h
      | reed b o => exact h

theorem MemWf.unitOut {c : Copy} {w : Warp} {n : Nat} {loc : Loc} : MemWf (s.unitOut c w n loc) := by
  refine h.foldl (fun t x k => ?_) _
  cases loc with
  | phys pa => exact k.sendStore.ite k.putMem
  | scratch g a => exact k.putHomeBy
  | vault a => exact k.putHomeBy
  | reed b o => exact k.putHomeBy

theorem MemWf.unitFar {c : Copy} {w : Warp} {n : Nat} {loc : Loc} : MemWf (s.unitFar c w n loc).2 := by
  refine MemWf.foldlSnd h (fun r x k => ?_) _
  split
  · exact k
  · split
    all_goals
      rename_i e
      exact MemWf.snd (MemWf.farBytes k) e

theorem MemWf.unitIn {c : Copy} {n : Nat} {parts : List (List Byte)} : MemWf (s.unitIn c n parts) := by
  refine h.foldl (fun t gid k => ?_) _
  dsimp only
  split
  · exact k
  · exact k.ite (k.foldl (fun _ _ k => k.fillScratch) _)

/-! ## Cutting off and discarding -/

theorem MemWf.cutElem {o : Op} {e : Elem} : MemWf (s.cutElem o e) := by
  have hd : MemWf s.draw.2 := h.same
  unfold State.cutElem
  split
  rename_i i t ht
  have k : MemWf t := hd.snd ht
  refine k.ite ?_
  dsimp only
  split
  · exact k.ite k.putMem
  all_goals exact k.putHomeBy

theorem MemWf.cutOff {o : Op} : MemWf (s.cutOff o) := (h.foldl (fun _ _ k => k.cutElem) _).ite h

theorem MemWf.cutUnit {c : Copy} {w : Warp} {n : Nat} : MemWf (s.cutUnit c w n) := by
  have hd : MemWf s.draw.2 := h.same
  unfold State.cutUnit
  split
  rename_i i t ht
  have k : MemWf t := hd.snd ht
  refine k.ite ?_
  extract_lets p r
  have hr : MemWf r.2 := by
    unfold r
    split
    · exact k
    · split
      all_goals
        rename_i e
        exact k.resolveVa.snd e
  clear_value r
  split
  · exact hr
  · rename_i _ u
    have ku : MemWf u := hr
    refine ku.ite (ku.unitOut.ite ?_)
    split
    · rename_i e
      exact (ku.unitFar.snd e).unitIn
    · rename_i e
      exact ku.unitFar.snd e

theorem MemWf.cutCopy {c : Copy} : MemWf (s.cutCopy c) :=
  h.ite (h.elim (fun _ => h.foldl (fun _ _ k => k.cutUnit) _) _)

theorem MemWf.discard {gid : Nat} : MemWf (s.discard gid) := by
  have h1 := h.foldl (f := State.cutOff) (fun _ _ k => k.cutOff) (s.ops.filter fun o => o.gid == gid)
  unfold State.discard
  extract_lets s1 s2 s3 spills p s4
  have h3 : MemWf s3 :=
    (h1.foldl (fun _ _ k => k.cutCopy) _).foldl (fun _ _ k => k.l1Exit) _
  have h4 : MemWf s4 := h3.setGroups fun g hg => h3.groups g (List.mem_filter.1 hg).1
  exact h4.ite h4.same

theorem MemWf.unpend {p : PartN} {bid n : Nat} : MemWf (s.unpend p bid n) := h.same

theorem MemWf.boltDone {bid : Nat} : MemWf (s.boltDone bid) := by
  unfold State.boltDone
  split
  · exact h
  · extract_lets
    exact h.modBolt.unpend.ite h

theorem MemWf.recordKill {g : Group} {cause : BitVec 8} : MemWf (s.recordKill g cause) := by
  unfold State.recordKill
  split
  · exact h
  · exact h.same

theorem MemWf.removeGroup {g : Group} {cause : BitVec 8} : MemWf (s.removeGroup g cause) := by
  unfold State.removeGroup
  extract_lets d here s1 s2 out s3 s4
  have h1 : MemWf s1 := h.recordKill.foldl (fun t w k => k.ite k.recordEnd) _
  have h4 : MemWf s4 := h1.discard.modBolt.settleBolt.boltDone
  exact h4.leavePly.ite h4

theorem MemWf.kill {gid : Nat} {cause : BitVec 8} : MemWf (s.kill gid cause) := by
  unfold State.kill
  split
  · exact h
  · exact h.removeGroup.same

theorem MemWf.stubGroup {g : Group} {count : Bool} : MemWf (s.stubGroup g count) := by
  unfold State.stubGroup
  extract_lets s1 s2
  have h1 : MemWf s1 := h.foldl (fun _ _ k => k.recordEnd) _
  have h2 : MemWf s2 := h1.discard
  exact h2.appendGroups (by simp [Group.stub])

theorem MemWf.giveUpSave {b : Bolt} : MemWf (s.giveUpSave b) := by
  unfold State.giveUpSave
  split
  · extract_lets s1 s2
    have h1 : MemWf s1 := h.modBolt
    have h2 : MemWf s2 := h1.same
    exact h2.foldl (fun _ _ k => k.same) _
  all_goals exact h

/-- R272: the groups of an idem launch that have exited come back to be placed again. -/
theorem MemWf.scratchKill {gid : Nat} : MemWf (s.scratchKill gid) := by
  unfold State.scratchKill
  split
  · exact h
  · extract_lets idem
    split
    · exact h.kill
    · rename_i g _ b hb
      extract_lets alone s1 s2 s3 s4 s5
      have h1 : MemWf s1 := h.recordKill.giveUpSave
      have h2 : MemWf s2 := h1.stubGroup.settleBolt
      have h3 : MemWf s3 := h1.foldl (fun _ _ k => k.stubGroup) _
      have h4 : MemWf s4 := h3.appendGroups (h.bolt hb)
      have h5 : MemWf s5 := h4.modBolt fun b _ _ hg => nomatch hg
      exact h.kill.ite ((MemWf.kill (h.foldl (fun _ _ k => k.kill) _)).ite (h2.leavePly.ite h5.leavePly))

end

/-! ## Trap frames -/

theorem putWordsAt_wf (ws : List (Nat × Nat × Nat)) (f : Nat → Nat) {m : List Host.Cell} (h : Memory.wf m = true) :
    Memory.wf (putWordsAt m f ws) = true := by
  induction ws generalizing m with
  | nil => exact h
  | cons w ws ih => exact ih (cellPutWord_wf h _ _ _)

theorem putWords_wf (ws : List (Nat × Nat × Nat)) (base : Nat) {m : List Host.Cell} (h : Memory.wf m = true) :
    Memory.wf (putWords m base ws) = true := putWordsAt_wf ws _ h

theorem State.putFrame_wf (s : State) {m : List Host.Cell} (h : Memory.wf m = true) (f : Nat → Nat) (w : Warp)
    (t : TrapRec) (x : FrameExtra) : Memory.wf (s.putFrame m f w t x) = true :=
  putWordsAt_wf _ _ (cellClears_wf _ h _ _)

section
variable {s : State} (h : MemWf s)
include h

theorem MemWf.frameWritten {w : Warp} {rs : List (Nat × Nat)} : MemWf (s.frameWritten w rs) := by
  refine MemWf.askLines (MemWf.foldl ?_ (fun _ _ k => k.l1Yield.mirror.same) _)
  exact h.same

theorem MemWf.framePas {w : Warp} {acc : Access} : MemWf (s.framePas w acc).2 := h.only (s.framePas_only w acc)

theorem MemWf.readFrame {w : Warp} {pas : List Nat} : MemWf (s.readFrame w pas).2 := h.only (s.readFrame_only w pas)

theorem MemWf.writeFrame {w : Warp} {t : TrapRec} {x : FrameExtra} {pas : List Nat} :
    MemWf (s.writeFrame w t x pas).2 := by
  unfold State.writeFrame
  extract_lets m rs near u
  have hm : Memory.wf m = true := s.putFrame_wf h.mem _ w t x
  clear_value m
  have hall : MemWf { s with mem := m } := h.setMem hm
  have hnear : MemWf { s with mem := m.filter fun c => !isRemote c.1 } := h.setMem (Memory.filter_wf hm _)
  split
  · exact hall.frameWritten
  · have hu : MemWf u := hnear.frameWritten
    exact (hu.foldl (fun _ _ k => k.sendStore) _).accepted

theorem MemWf.takeTrap {wid : Nat} : MemWf (s.takeTrap wid) := by
  unfold State.takeTrap
  split
  · exact h
  · split
    · exact h
    · extract_lets t
      refine h.kill.ite ?_
      split
      · rename_i e
        exact (h.framePas.snd e).kill
      · rename_i e
        have k := h.framePas.snd e
        split
        · rename_i e
          exact (k.writeFrame.snd e).kill
        · rename_i e
          exact (k.writeFrame.snd e).same

theorem MemWf.tryTrap {wid : Nat} : MemWf (s.tryTrap wid) := by
  unfold State.tryTrap
  split
  · exact h
  · exact h.takeTrap.ite h

theorem MemWf.stopWith {t : TrapRec} : MemWf (s.stopWith t) := MemWf.tryTrap (s := s.modW _) h.same

theorem MemWf.report : MemWf s.report := by
  unfold State.report
  split
  · exact h
  · exact h.stopWith

theorem MemWf.reload {w : Warp} {m : List Host.Cell} {f : Nat → Nat}
    {next : Word64 → BitVec 2 → Word64 × BitVec 2} : MemWf (s.reload w m f next) := by
  unfold State.reload
  extract_lets
  split
  · exact h.kill.ite h.same
  · exact h.kill

theorem MemWf.warpWord {x : Ext} {f : State → State} (k : MemWf (f s)) : MemWf (s.warpWord x f) := h.ite k

end

end Sys2Proof.Machine

namespace Sys2Proof.Machine

/-! ## Operations of memory -/

section
variable {s : State} (h : MemWf s)
include h

theorem MemWf.precise {cause : BitVec 8} {a : Word64} {word : BitVec 32} {f l : Bool} :
    MemWf (s.precise cause a word f l) := h.stopWith

theorem MemWf.checkAll {w : Warp} {sp : Sp} {acc : Access} {size : Nat} {ls : List Nat} {f : Nat → Word64} :
    MemWf (s.checkAll w sp acc size ls f).2 := by
  refine MemWf.same (MemWf.foldlSnd (r := ([], s)) h (fun r l k => ?_) ls)
  exact k.resolve

theorem MemWf.pendFaults {sp : BitVec 3} {excl : Bool} {rs : List (Nat × Chk)} : MemWf (s.pendFaults sp excl rs) := by
  refine h.foldl (fun t r k => ?_) _
  split
  · exact k.same
  · exact k

theorem MemWf.l1Part {p : PartN} : MemWf (s.l1Part p) := h.l1Flush.same

theorem MemWf.askHomes {o : Op} {es : List Elem} : MemWf (s.askHomes o es) := by
  refine h.foldl (fun t e k => ?_) _
  split
  · exact k.ite k.lineRequest.same
  all_goals exact k

theorem MemWf.l1Miss {o : Op} {pa n : Nat} : MemWf (s.l1Miss o pa n).2 := h.l1Recall.askHomes.same

theorem MemWf.l1Read {o : Op} {pa n : Nat} : MemWf (s.l1Read o pa n).2 := by
  unfold State.l1Read
  split
  · exact h.l1Miss
  · split
    · exact h
    · exact h.l1Miss

theorem MemWf.readElem {o : Op} {e : Elem} : MemWf (s.readElem o e).2 := by
  unfold State.readElem
  extract_lets fwd
  split
  · exact h
  · split
    rename_i bs t ht
    refine MemWf.same (MemWf.snd ?_ ht)
    split
    · exact h
    · exact h.l1Read
  all_goals exact h.readHome

theorem MemWf.opFault {o : Op} {e : Elem} {order : Nat} {cause : BitVec 8} {a : Word64} {st : BitVec 4} {r : Bool} :
    MemWf (s.opFault o e order cause a st r) := MemWf.ite h.same h.same

theorem MemWf.rejectElem {o : Op} {e : Elem} : MemWf (s.rejectElem o e) := h.opFault.same

theorem MemWf.patchElem {wid : Nat} {e : Elem} : MemWf (s.patchElem wid e) := by
  unfold State.patchElem
  split
  · exact h
  · rename_i w _
    split
    · exact h
    · rename_i base _
      extract_lets m clear
      have hm : Memory.wf m = true := putWords_wf _ _ h.mem
      have hc : ∀ m r, Memory.wf m = true → Memory.wf (clear m r) = true := fun m r k => cellPutWord_wf k _ _ _
      clear_value m clear
      refine h.setMem ?_
      dsimp only
      split
      · exact hc _ _ hm
      · exact hc _ _ (hc _ _ hm)
      all_goals exact hm

theorem MemWf.deliver {wid : Nat} {e : Elem} {v : Nat} : MemWf (s.deliver wid e v) := by
  unfold State.deliver
  exact MemWf.patchElem h.same

theorem MemWf.modOp {id : Nat} {f : Op → Op} : MemWf (s.modOp id f) := h.same

theorem MemWf.returnRemote {o : Op} {e : Elem} {pa : Nat} : MemWf (s.returnRemote o e pa) := by
  unfold State.returnRemote
  split
  · rename_i k
    exact (h.askRemote.snd k).rejectElem
  · rename_i k
    exact (h.askRemote.snd k).modOp.deliver

theorem MemWf.returnLocal {o : Op} {e : Elem} : MemWf (s.returnLocal o e) := by
  unfold State.returnLocal
  extract_lets r
  have hr : MemWf r.2 := h.readElem
  clear_value r
  split
  · split
    · exact h.scratchKill
    · exact hr.modOp.opFault.deliver
  · exact hr.modOp.deliver

theorem MemWf.returnElem {o : Op} {e : Elem} : MemWf (s.returnElem o e) := by
  unfold State.returnElem
  split
  · exact h.returnRemote.ite h.returnLocal
  all_goals exact h.returnLocal

theorem MemWf.sendElem {o : Op} {e : Elem} : MemWf (s.sendElem o e) := by
  unfold State.sendElem
  extract_lets b
  split
  · refine h.foldl (fun t r k => ?_) _
    split
    · exact k.sendStore
    all_goals exact k
  · exact h.sendRemote
  · exact h

theorem MemWf.returnElems {o : Op} {p : Elem → Bool} : MemWf (s.returnElems o p) :=
  h.foldl (fun _ _ k => k.returnElem) _

end

/-- The entries of a holding buffer that are written to their save slots. -/
theorem spills_wf (s : State) (p : PartN) (l : List HEntry) {m : List Host.Cell} (h : Memory.wf m = true) :
    Memory.wf (l.foldl (fun m e => e.spilled.elim m fun x => cellPut m (s.slotBase p x.1 + 48 * x.2) e.bytes) m) =
      true := by
  induction l generalizing m with
  | nil => exact h
  | cons e l ih =>
    refine ih ?_
    dsimp only
    cases e.spilled with
    | none => exact h
    | some x =>
      dsimp only [Option.elim]
      exact cellPut_wf h _ _

section
variable {s : State} (h : MemWf s)
include h

theorem MemWf.hold {es : List HEntry} {t : State} (e : s.hold es = some t) : MemWf t := by
  unfold State.hold at e
  split at e
  · cases e
    exact h
  · extract_lets excess p places mine all out m at e
    split at e
    · cases e
      exact h.same
    · split at e
      · cases e
      · have hm : Memory.wf m = true := spills_wf s p out h.mem
        cases e
        exact h.setMem hm

theorem MemWf.arriveNamed {gid : Nat} {i : BitVec 5} {n : BitVec 4} : MemWf (s.arriveNamed gid i n) :=
  MemWf.settleNamed (s := s.modGroup _ _) h.modGroup

theorem MemWf.arriveBolt {gid bid : Nat} {i : BitVec 5} {n : BitVec 4} : MemWf (s.arriveBolt gid bid i n) :=
  MemWf.settleBolt1 (s := s.modGroup _ _) h.modGroup

theorem MemWf.arriveBeam {gid lid : Nat} {d : Die} {i : BitVec 5} {n : BitVec 4} :
    MemWf (s.arriveBeam gid lid d i n) := MemWf.settleBeam (s := s.modGroup _ _) h.modGroup

theorem MemWf.arrive {wid : Nat} {l : Lvl} {n : BitVec 4} : MemWf (s.arrive wid l n) := by
  unfold State.arrive
  split
  · exact h
  · extract_lets p t
    have ht : MemWf t := by
      cases l with
      | grp => exact h.arriveNamed
      | bolt => exact h.arriveBolt
      | beam => exact h.arriveBeam
    exact ht.settleGroup.ite ht

theorem MemWf.retireOp {o : Op} : MemWf (s.retireOp o) := by
  unfold State.retireOp
  extract_lets t u
  have ht : MemWf t := h.same
  have hu : MemWf u := MemWf.ite ht.same ht
  exact hu.ite hu.finish

theorem MemWf.settleLoads {wid seq : Nat} {es : List Elem} : MemWf (s.settleLoads wid seq es) := by
  refine h.foldl (fun t x k => ?_) _
  dsimp only
  split
  · exact k.returnElems.retireOp.ite k.returnElems
  · exact k.returnElems

theorem MemWf.startOp {o : Op} : MemWf (s.startOp o) := by
  unfold State.startOp
  extract_lets leave d
  have hl : ∀ t, MemWf t → MemWf (leave t) := fun t k => k.same
  clear_value leave
  have hs := h.settleLoads (wid := o.wid) (seq := o.seq) (es := o.elems)
  have hq := hs.foldl (fun t k (w : MemWf t) => w.enqueue (d := d) (lid := o.lid) (wid := o.wid) (k := k)) o.dents
  have hf : MemWf (s.settleLoads o.wid o.seq o.elems).fresh.2 := hs.same
  split
  · exact h
  · exact h.retireOp
  · exact h.retireOp.arrive
  all_goals
    split
    · split
      · split
        · exact hq.retireOp
        · exact (hl _ hq).finish
        all_goals exact hl _ hq
      · exact h
    · split
      · dsimp only
        split
        · rename_i e
          exact (hf.hold e).retireOp
        · exact hf
      · exact (hl _ hs).askHomes.foldl (fun _ _ k => k.sendElem) _

theorem MemWf.startAll : MemWf s.startAll := by
  refine h.foldl (fun t o k => ?_) _
  split
  · exact k.startOp.ite k
  · exact k

theorem MemWf.tidyOp {id : Nat} : MemWf (s.tidyOp id) := by
  unfold State.tidyOp
  split
  · exact h
  · exact h.retireOp.startAll.ite h

theorem MemWf.retryWith {x : Hold} : MemWf (s.retryWith x) := h.same

theorem MemWf.putOp {o : Op} : MemWf (s.putOp o) := by
  unfold State.putOp
  extract_lets t
  have ht : MemWf t := h.same
  exact ht.startOp.ite ht

theorem MemWf.launchOp {w : Warp} {kind : OpKind} {acq rel : Bool} {rp : PReg} {sp : Sp} {excl : Bool}
    {es : List Elem} {cnt : Counter} : MemWf (s.launchOp w kind acq rel rp sp excl es cnt) := by
  unfold State.launchOp
  split
  rename_i id t ht
  have k : MemWf t := MemWf.snd (r := s.fresh) h.same ht
  extract_lets _ o counts u
  have hu : MemWf u := k.same
  exact (MemWf.ite hu.same hu).ite (hu.retryWith.ite (hu.retryWith.ite hu.putOp))

end

/-! ## The issue of a group -/

/-- A next state has canonical memories. -/
def NextWf : Host.Outcome State Fault Refusal → Prop
  | .next t => MemWf t
  | .fault _ => True
  | .refused _ => True

theorem NextWf.next {o : Host.Outcome State Fault Refusal} (h : NextWf o) {t : State} (e : o = .next t) : MemWf t := by
  rw [e] at h
  exact h

section
variable {s : State} (h : MemWf s)
include h

theorem MemWf.passFlush {ws : List GWord} : MemWf (s.passFlush ws) := MemWf.ite h.same h

theorem MemWf.heldBy {x : Hold} : MemWf (s.heldBy x) := h.same

theorem MemWf.recordFirst {core n : Nat} {f : State → State} (k : ∀ t, MemWf t → MemWf (f t)) :
    MemWf (s.recordFirst core n f) := by
  unfold State.recordFirst
  extract_lets made
  split
  · exact k _ h
  · exact (k _ h.setTraceQueue).foldl (fun _ _ w => w.putRecord) _

theorem MemWf.recordGroup {w : Warp} {ws : List GWord} : MemWf (s.recordGroup w ws) := by
  unfold State.recordGroup
  extract_lets t
  have ht : MemWf t := h.recordIssue
  split
  · exact ht.recordWait
  · exact ht

theorem MemWf.endGroup {w : Warp} {n : Nat} {ws : List GWord} : MemWf (s.endGroup w n ws) := by
  unfold State.endGroup
  exact (MemWf.count (MemWf.recordFirst h fun _ k => k.recordGroup)).same

/-- R151, R310: the effect of a group is the only part of its issue that may write a program's memory. -/
theorem MemWf.issueGroup {ws : List GWord} {run : State → State} (k : ∀ t, MemWf t → MemWf (run t)) :
    MemWf (s.issueGroup ws run) := by
  unfold State.issueGroup
  split
  · exact h.precise
  · split
    · exact h.precise
    · refine h.report.ite ?_
      extract_lets u _ t
      have hu : MemWf u := h.passFlush
      have ht : MemWf t := k _ hu.same
      clear_value t
      split
      · exact hu.heldBy
      · exact ht.endGroup

theorem MemWf.tick : MemWf s.tick := h.same

/-- A word keeps the memories canonical where its effect does. -/
theorem MemWf.issueWord {i : Instr} {eff : State → State} (k : ∀ t, MemWf t → MemWf (eff t)) :
    NextWf (issueWord i s eff) := by
  unfold Machine.issueWord
  split
  · exact k s h
  · exact h.issueGroup fun t w => k _ w.tick

theorem MemWf.unless {ok : Bool} {x : Hold} {f : State → State} (k : MemWf (f s)) : MemWf (s.unless ok x f) :=
  k.ite h.retryWith

/-! ## What holds a group -/

theorem MemWf.noteAcquire {w : Warp} : MemWf (s.noteAcquire w) := h.modBolt.ite h

theorem MemWf.pointRead {w : Warp} {x : Loc} {n : Nat} : MemWf (s.pointRead w x n).2 := by
  unfold State.pointRead
  split
  · extract_lets
    split
    · exact h.askPeer
    · exact h.l1Recall.lineRequest.same
  · exact h
  all_goals exact h.readHome

theorem MemWf.watchBad {w : Warp} {e : Elem} {q : Poison} {seq : Nat} {sp : Sp} {x : Bool} :
    MemWf (s.watchBad w e q seq sp x) := by
  unfold State.watchBad
  split
  · exact h.scratchKill
  all_goals exact h.same

theorem MemWf.watchHit {w : Warp} {sp : Sp} {va : Word64} : MemWf (s.watchHit w sp va) := by
  unfold State.watchHit
  split
  case h_1 | h_2 =>
    split
    · rename_i e
      exact (h.hitOnce.snd e).same
    · rename_i e
      exact h.hitOnce.snd e
  all_goals exact h

theorem MemWf.watchRead {w : Warp} {seq : Nat} : MemWf (s.watchRead w seq).2 := by
  unfold State.watchRead
  extract_lets a n sp fault
  have hf : ∀ {t : State} {o c v l}, MemWf t → MemWf (fault t o c v l) := fun k => k.same
  clear_value fault
  split
  · rename_i loc home va t e
    have ht : MemWf t := h.resolve.snd e
    extract_lets u x
    have hu : MemWf u := ht.watchHit
    clear_value u
    split
    · exact hu
    · split
      · exact hu.watchBad
      · split
        · rename_i e
          exact hu.pointRead.snd e
        · rename_i e
          exact hf (hu.pointRead.snd e)
  · rename_i e
    exact (h.resolve.snd e).watchHit
  · rename_i e
    exact hf (h.resolve.snd e)

theorem MemWf.watchChanged {w : Warp} {seq : Nat} : MemWf (s.watchChanged w seq).2 := h.watchRead

end

end Sys2Proof.Machine

namespace Sys2Proof.Machine

section
variable {s : State} (h : MemWf s)
include h

/-! ## Shapes of words -/

/-- A scalar word changes the warp alone. -/
theorem MemWf.writeS {x : Ext} {d : SReg} {f : Warp → Word64} : MemWf (s.writeS x d f) := h.warpWord h.same

theorem MemWf.writeP {x : Ext} {d : PReg} {f : Warp → Lanes} : MemWf (s.writeP x d f) := h.warpWord h.same

theorem MemWf.heal {p : RegPoison → Bool} : MemWf (s.heal p) := h.same

theorem MemWf.vput {i : Nat} {lanes : Lanes} {f : Nat → Word32} : MemWf (s.vput i lanes f) := h.same

theorem MemWf.kput {i : Nat} {v : Word64} : MemWf (s.kput i v) := h.same

theorem MemWf.regFault {qs : List RegPoison} {excl : Bool} : MemWf (s.regFault qs excl) :=
  h.foldl (fun _ _ k => k.same) _

theorem MemWf.vecWord {x : Ext} {d : VOp} {src : List VOp} {f : Warp → Nat → Word32} : MemWf (s.vecWord x d src f) := by
  unfold State.vecWord
  exact h.vput.regFault

theorem MemWf.cmpWord {x : Ext} {d : PReg} {src : List VOp} {f : Warp → Nat → Bool} : MemWf (s.cmpWord x d src f) := by
  unfold State.cmpWord
  exact MemWf.regFault h.same

theorem MemWf.crossWord {x : Ext} {d : Nat} {lanes : Lanes} {src : List Nat} {f : Warp → Nat → Word32} :
    MemWf (s.crossWord x d lanes src f) := by
  unfold State.crossWord
  exact h.vput.regFault

/-! ## Placement -/

theorem MemWf.openCore {core : Nat} : MemWf (s.openCore core) := MemWf.ite h.same h

theorem MemWf.addWarp {w : Warp} : MemWf (s.addWarp w) := MemWf.ite h.same h.same

/-- R125: a group starts with zero scratch. -/
theorem MemWf.placeGroup {l : Launch} {b : Bolt} {gid idx core : Nat} {slots : List (BitVec 5)} {nums : List Nat}
    {replay : List Coord} {relaunch reason : Nat} :
    MemWf (s.placeGroup l b gid idx core slots nums replay relaunch reason) := by
  unfold State.placeGroup
  extract_lets ns u v
  have hu : MemWf u := MemWf.openCore (s := s.acquire core) h.same
  have hv : MemWf v := hu.setGroups fun g hg => (List.mem_append.1 hg).elim (h.groups g) fun hg => by
    rw [List.mem_singleton.1 hg]
    rfl
  refine hv.foldl (fun t x k => ?_) _
  exact MemWf.recordStart (MemWf.addWarp (s := t.fresh.2) k.same)

theorem MemWf.joinPly {lid : Nat} {d : Die} : MemWf (s.joinPly lid d) := h.enqueue.ite h

/-! ## Loads, stores and atomics -/

theorem MemWf.memUnless {k : Counter} {f : State → State} (w : MemWf (f s)) : MemWf (s.memUnless k f) :=
  h.retryWith.ite (h.retryWith.ite w)

theorem MemWf.acqUnless {acq : Bool} {f : State → State} (w : ∀ t, MemWf t → MemWf (f t)) :
    MemWf (s.acqUnless acq f) := (w s h).ite (h.retryWith.ite (w _ h.noteAcquire))

theorem MemWf.holdStore {w : Warp} {rel : Bool} {es : List Elem} : MemWf (s.holdStore w rel es) := by
  unfold State.holdStore
  split
  rename_i id t ht
  have k : MemWf t := MemWf.snd (r := s.fresh) h.same ht
  extract_lets hs _ o count
  have hc : ∀ u d, MemWf u → MemWf (count u d) := fun u d w => w.same
  clear_value count
  split
  · split
    · exact k.retryWith
    · rename_i e
      exact hc _ _ (k.settleLoads.hold e)
  · exact (hc t _ k).same

theorem MemWf.holdAtomic {w : Warp} {o : AOp} {r : AOrd} {t : ATy} {nr dvec : Bool} {dreg : BitVec 8}
    {es : List Elem} : MemWf (s.holdAtomic w o r t nr dvec dreg es) := by
  unfold State.holdAtomic
  split
  rename_i id u hu
  have k : MemWf u := MemWf.snd (r := s.fresh) h.same hu
  extract_lets hs
  split
  · exact k.retryWith
  · rename_i e
    exact (k.hold e).same

theorem MemWf.loadFlags {rp : PReg} {lanes : Lanes} {rs : List (Nat × Chk)} {zero : Warp → Nat → Warp}
    {scalar : Bool} : MemWf (s.loadFlags rp lanes rs zero scalar) := h.same

theorem MemWf.loadWord {t : MTy} {sp : Sp} {acq scalar : Bool} {rp : PReg} {ls : List Nat} {addr : Nat → Word64}
    {tgt : Nat → Target} {zero : Warp → Nat → Warp} {bad : List RegPoison} :
    MemWf (s.loadWord t sp acq scalar rp ls addr tgt zero bad) := by
  refine h.ite (h.memUnless (h.acqUnless fun u k => ?_))
  extract_lets w hurt v
  have hv : MemWf v := MemWf.regFault k.same
  split
  rename_i e
  exact (hv.checkAll.snd e).pendFaults.loadFlags.launchOp

theorem MemWf.storeElems {sp : Sp} {rel : Bool} {rs : List (Nat × Chk)} {es : List Elem} :
    MemWf (s.storeElems sp rel rs es) := by
  unfold State.storeElems
  extract_lets w excl t u
  have ht : MemWf t := h.pendFaults
  have hu : MemWf u := MemWf.ite ht.same ht
  exact hu.holdStore.ite hu.launchOp

theorem MemWf.storeWord {t : MTy} {sp : Sp} {rel : Bool} {ls : List Nat} {addr data : Nat → Word64} :
    MemWf (s.storeWord t sp rel ls addr data) := by
  refine h.ite (h.memUnless ?_)
  split
  rename_i e
  exact (h.checkAll.snd e).storeElems

theorem MemWf.checkScales {w : Warp} {sp : Sp} {acc : Access} {f : FFmt} {a : Word64} {bs : List (Nat × Nat)} :
    MemWf (s.checkScales w sp acc f a bs).2 :=
  MemWf.foldlSnd (r := ([], s)) h (fun _ _ k => k.resolve) bs

theorem MemWf.execVldmx {x t sp o d a f rp} : NextWf (execVldmx x t sp o d a f rp s) := by
  refine h.issueWord fun s h => ?_
  extract_lets
  refine h.ite (h.memUnless (h.acqUnless fun s h => ?_))
  extract_lets
  refine MemWf.ite (MemWf.launchOp (MemWf.same h.pendFaults)) ?_
  split
  rename_i e
  have h1 := h.checkAll.snd e
  split
  rename_i e
  exact (h1.checkScales.snd e).pendFaults.loadFlags.launchOp

theorem MemWf.execVstmx {x t sp o d a f} : NextWf (execVstmx x t sp o d a f s) := by
  refine h.issueWord fun s h => ?_
  extract_lets
  refine h.ite (h.memUnless ?_)
  extract_lets
  refine h.storeElems.ite ?_
  split
  rename_i e
  have h1 := h.regFault.checkAll.snd e
  extract_lets
  split
  rename_i e
  exact (h1.checkScales.snd e).storeElems

theorem MemWf.atomWord {o : AOp} {r : AOrd} {t : ATy} {sp : Sp} {nr dvec : Bool} {dreg : BitVec 8} {ls : List Nat}
    {addr : Nat → Word64} {tgt : Nat → Target} {data new : Nat → Word64} :
    MemWf (s.atomWord o r t sp nr dvec dreg ls addr tgt data new) := by
  refine h.ite (h.memUnless ?_)
  refine h.acqUnless fun u k => ?_
  split
  rename_i e
  extract_lets rs' v es x
  have hv : MemWf v := (k.checkAll.snd e).pendFaults
  have hx : MemWf x := hv.same
  exact hx.holdAtomic.ite hx.launchOp

theorem MemWf.execVatom {x o r t sp nr d i b e} : NextWf (execVatom x o r t sp nr d i b e s) := by
  refine h.issueWord fun s h => ?_
  extract_lets w di ei pair n ops bad hit ls dead u
  have hu : MemWf u := h.ite (h.foldl (fun _ _ k => k.vput) _)
  exact hu.regFault.atomWord

theorem MemWf.startFence : MemWf s.startFence :=
  h.ite (MemWf.putOp (s := s.fresh.2) h.same)

theorem MemWf.execFence {x r} : NextWf (execFence x r s) := by
  refine h.issueWord fun s h => h.warpWord (h.unless (h.acqUnless fun t k => ?_))
  extract_lets u
  have hu : MemWf u := k.startFence.ite k
  exact MemWf.ite hu.same hu

theorem MemWf.execWait {x l c k t} : NextWf (execWait x l c k t s) :=
  h.issueWord fun _ h => h.warpWord (h.unless (h.unless h))

theorem MemWf.execMwatch {x w64 sp a f} : NextWf (execMwatch x w64 sp a f s) := by
  refine h.issueWord fun s h => h.warpWord ?_
  extract_lets
  refine h.retryWith.ite ?_
  split
  · rename_i e
    have h1 := h.resolve.snd e
    refine h1.retryWith.ite ?_
    extract_lets u
    have hu : MemWf u := h1.settleLoads
    split
    · exact hu.watchBad.same
    · split
      all_goals
        rename_i e
        exact (hu.pointRead.snd e).same
  · rename_i e
    exact (h.resolve.snd e).same
  · rename_i e
    exact (h.resolve.snd e).pendFaults.same

theorem MemWf.execMwait {x} : NextWf (execMwait x s) := by
  refine h.issueWord fun s h => h.warpWord ?_
  extract_lets w
  refine MemWf.ite h.same ?_
  split
  rename_i changed u e
  have hu : MemWf u := by
    refine MemWf.snd ?_ e
    split
    · exact h
    · exact h.watchChanged
  exact hu.unless hu.same

theorem MemWf.execPgpref {x a f} : NextWf (execPgpref x a f s) :=
  h.issueWord fun _ h => h.warpWord h.translate.same

theorem MemWf.execOflush {x} : NextWf (execOflush x s) := h.issueWord fun _ h => h.warpWord (h.unless h)

end

end Sys2Proof.Machine

namespace Sys2Proof.Machine

/-- An event that makes a next state keeps the memories canonical where that state has them so. -/
theorem NextWf.of {t : State} (h : MemWf t) : NextWf (.next t) := h

section
variable {s : State} (h : MemWf s)
include h

/-! ## Returns, registrations and atomics -/

theorem MemWf.returnAtomic {o : Op} {lanes : Lanes} : MemWf (s.returnAtomic o lanes) := by
  unfold State.returnAtomic
  extract_lets back t
  have ht : MemWf t := h.foldl (fun _ _ k => k.deliver) _
  exact ht.modOp

theorem MemWf.execLoadReturn {op lanes} : NextWf (execLoadReturn op lanes s) := by
  refine .of ?_
  split
  · exact h
  · split
    · exact h.ite h.returnElems.tidyOp
    · exact h.returnAtomic.tidyOp
    all_goals exact h

theorem MemWf.registered {o : Op} {e : Elem} : MemWf (s.registered o e) := by
  unfold State.registered
  split
  · exact MemWf.ite h.same h.same
  all_goals exact h

theorem MemWf.storeRun {o : Op} {x : Loc} {bs : List Byte} : MemWf (s.storeRun o x bs) := by
  unfold State.storeRun
  split
  · exact MemWf.ite h.same h.putHomeBy.mirror.same
  · exact h.l1Yield.putHomeBy.mirror
  · exact h.storeHome

theorem MemWf.register {o : Op} {e : Elem} : MemWf (s.register o e) := by
  unfold State.register
  exact (MemWf.registered (h.foldl (fun _ _ k => k.storeRun) _)).modOp

theorem MemWf.execRegistrationComplete {op lanes} : NextWf (execRegistrationComplete op lanes s) := by
  refine .of ?_
  split
  · exact h
  · exact h.startAll.ite (h.ite (MemWf.tidyOp (h.foldl (fun _ _ k => k.register) _)))

theorem MemWf.performAtomic {o : Op} {e : Elem} : MemWf (s.performAtomic o e) := by
  unfold State.performAtomic
  split
  · split
    · exact h.scratchKill
    · exact h.modOp.opFault
    · split
      · split
        · rename_i k
          exact (h.accepted.snd k).rejectElem
        · rename_i k
          exact (h.accepted.snd k).same
      · extract_lets t old r u
        have ht : MemWf t := h.l1Recall
        have hu : MemWf u := ht.l1Yield.putHome.mirror.ite ht
        exact hu.same
    · split
      rename_i k
      have ht := h.readHome.snd k
      extract_lets old r u
      have hu : MemWf u := ht.storeHome.ite ht
      exact hu.modOp
  all_goals exact h

theorem MemWf.execAtomicPerform {op lanes} : NextWf (execAtomicPerform op lanes s) := by
  refine .of ?_
  split
  · exact h
  · extract_lets
    exact MemWf.tidyOp (h.foldl (fun _ _ k => k.performAtomic) _)

theorem MemWf.opAnswered {o : Op} : MemWf (s.opAnswered o) := by
  refine MemWf.ite (MemWf.tidyOp (h.foldl (fun t e k => ?_) _)) h
  split
  · rename_i e
    exact (k.accepted.snd e).modOp
  · rename_i e
    exact (k.accepted.snd e).rejectElem

theorem MemWf.dropElem {o : Op} {e : Elem} : MemWf (s.dropElem o e) := h.same

theorem MemWf.opTimedOut {o : Op} : MemWf (s.opTimedOut o) := by
  refine MemWf.ite (MemWf.tidyOp (h.foldl (fun t e k => ?_) _)) h
  extract_lets u
  have hu : MemWf u := k.opFault.dropElem
  split
  rename_i e
  have hv := MemWf.snd (r := u.draw) hu.same e
  exact hv.deliver.ite hv

/-! ## Held stores and atomics -/

theorem MemWf.heldHit {l : Launch} {e : HEntry} : MemWf (s.heldHit l e) := by
  unfold State.heldHit
  extract_lets
  split
  · exact h
  · exact MemWf.ite h h.same

theorem MemWf.heldPa {e : HEntry} : MemWf (s.heldPa e).2 := by
  unfold State.heldPa
  split
  · exact h
  · split
    · exact h
    · rename_i l _
      extract_lets c fail
      have hf : ∀ t c, MemWf t → MemWf (fail t c) := fun t c k => MemWf.ite k.same k.same
      clear_value fail
      split
      · rename_i k
        have ht := h.translate.snd k
        split
        · exact hf _ _ ht
        · exact ht.heldHit.atHome
      all_goals
        rename_i k
        exact hf _ _ (h.translate.snd k)

theorem MemWf.heldOp {e : HEntry} {k : OpKind} : MemWf (s.heldOp e k).1 := h.same

theorem MemWf.sendHeld {e : HEntry} {kind : OpKind} {el : Elem} : MemWf (s.sendHeld e kind el) := by
  unfold State.sendHeld
  extract_lets t u
  have ht : MemWf t := h.ite h.same
  have hu : MemWf u := ht.modOp
  exact hu.elim (fun _ => hu.sendElem) _

theorem MemWf.flushAtomic {e : HEntry} : MemWf (s.flushAtomic e) := by
  unfold State.flushAtomic
  extract_lets n
  split
  rename_i pa t k
  have ht := h.heldPa.snd k
  extract_lets el u v w
  have hu : MemWf u := ht.same
  clear_value u
  have hv : MemWf v := by
    unfold v
    split
    · exact hu
    · refine hu.sendHeld.ite ?_
      split
      · split
        rename_i k
        exact (hu.heldOp.fst k).opFault.deliver
      · extract_lets x old r y z
        have hx : MemWf x := hu.l1Recall
        have hy : MemWf y := hx.l1Yield.putHome.mirror.ite hx
        have hz : MemWf z := hy.lineRequest
        exact MemWf.deliver (s := (z.l1Revoke _ n).l1Drop e.core _ n) hz.same
  clear_value v
  have hw : MemWf w := MemWf.ite hv.same hv
  exact hw.ite hw.finish

theorem MemWf.flushEntries {es : List HEntry} : MemWf (s.flushEntries es) := by
  induction es generalizing s with
  | nil => exact h
  | cons e es ih =>
    unfold State.flushEntries
    exact MemWf.ite (ih h.flushAtomic) h

theorem MemWf.execEpochFlush {k} : NextWf (execEpochFlush k s) := by
  refine .of ?_
  split
  · exact h
  · rename_i b _
    extract_lets es first t u left v w
    have ht : MemWf t := h.foldl (fun _ _ k => k.settleLoads) _
    have hu : MemWf u := ht.flushEntries
    have hv : MemWf v := hu.same
    have hw : MemWf w := hv.modBolt
    exact (hw.ite hw.startAll).ite h

theorem MemWf.freeHeld {es : List HEntry} : MemWf (s.freeHeld es) := by
  unfold State.freeHeld
  extract_lets t
  have ht : MemWf t := h.same
  split
  · exact ht
  · exact ht.same

theorem MemWf.settleHeld {bid : Nat} : MemWf (s.settleHeld bid) := by
  refine h.foldl (fun t e k => k.ite ?_) _
  split
  · rename_i e
    exact (k.heldPa.snd e).freeHeld
  · rename_i e
    exact (k.heldPa.snd e).same

theorem MemWf.sendStores {bid : Nat} : MemWf (s.sendStores bid) := by
  unfold State.sendStores
  exact MemWf.freeHeld (h.foldl (fun _ _ k => k.foldl (fun _ _ k => k.sendHeld) _) _)

theorem MemWf.performHeld {bid : Nat} : MemWf (s.performHeld bid) := by
  unfold State.performHeld
  extract_lets es lines t
  have ht : MemWf t := h.foldl (fun _ _ k => k.lineRequest) _
  refine MemWf.freeHeld (ht.foldl (fun u e k => ?_) _)
  extract_lets v w x
  have hv : MemWf v := k.l1Yield
  have hw : MemWf w := hv.putHome.ite (hv.foldl (fun _ _ k => k.putHomeBy) _)
  have hx : MemWf x := hw.foldl (fun _ _ k => k.mirrorAt) _
  exact hx.same

/-! ## Sweeps -/

theorem MemWf.beginSweep {id : Nat} {p : PartN} : MemWf (s.beginSweep id p) := by
  unfold State.beginSweep
  exact h.l1Part.tlbDrop.same

theorem MemWf.nextSweep {p : PartN} : MemWf (s.nextSweep p) := by
  unfold State.nextSweep
  split
  · exact h
  · split
    · exact h.beginSweep
    · exact h

theorem MemWf.requestSweep {p : PartN} {who : SweepFor} : MemWf (s.requestSweep p who).2 := by
  unfold State.requestSweep
  exact MemWf.nextSweep (MemWf.same h)

theorem MemWf.execSweepComplete {p} : NextWf (execSweepComplete p s) := by
  refine .of ?_
  split
  · exact h
  · refine h.ite ?_
    extract_lets t u v
    have hu : MemWf u := h.same
    clear_value u
    have hv : MemWf v := by
      unfold v
      split
      · exact hu
      · split
        · exact hu
        · split
          · exact MemWf.ite hu.same hu
          all_goals exact hu
    exact hv.nextSweep

theorem MemWf.flagLanes {wid : Nat} {rp : PReg} {lanes : Lanes} : MemWf (s.flagLanes wid rp lanes) := by
  unfold State.flagLanes
  extract_lets t
  have ht : MemWf t := h.same
  split
  · exact ht
  · exact ht.elim (fun _ => ht.setMem (putWords_wf _ _ ht.mem)) _

theorem MemWf.returnRequest {o : Op} {e : Elem} : MemWf (s.returnRequest o e) := by
  unfold State.returnRequest
  split
  · exact h
  · split
    · rename_i k
      have ht := h.resolveVa.snd k
      extract_lets f u
      have hu : MemWf u := ht.modOp
      exact ht.rejectElem.ite (hu.sendElem.ite hu)
    · rename_i k
      have ht := h.resolveVa.snd k
      extract_lets lanes u
      have hu : MemWf u := ht.flagLanes
      exact MemWf.ite hu.modOp hu.deliver.dropElem
    · rename_i k
      exact (h.resolveVa.snd k).opFault.dropElem

theorem MemWf.rechunk {id : Nat} : MemWf (s.rechunk id) := by
  unfold State.rechunk
  split
  · exact h
  · split
    · exact h.modOp
    · exact h

theorem MemWf.cut {p : PartN} {acc : Nat} {c : Option Nat} {xs : List Loc} : MemWf (s.cut p acc c xs) := h.same

theorem MemWf.execRequestReturn {op} : NextWf (execRequestReturn op s) := by
  refine .of ?_
  split
  · extract_lets es t u v w n x y
    have ht : MemWf t := h.cut
    have hu : MemWf u := ht.askHomes.ite ht
    have hv : MemWf v := hu.modOp
    have hw : MemWf w := MemWf.same (hv.foldl (fun _ _ k => k.returnRequest) _)
    have hx : MemWf x := hw.modOp.rechunk
    have hy : MemWf y := hx.ite (hx.elim (fun _ => hx.askHomes) _)
    exact hy.tidyOp.ite h
  · split
    · extract_lets t
      have ht : MemWf t := h.elim (fun _ => h.cut) _
      exact MemWf.ite ht.same h
    · exact h

/-! ## Page requests and watched words -/

theorem MemWf.sendVector {p : PartN} {vec : BitVec 6} : MemWf (s.sendVector p vec) := h.ite h.same

theorem MemWf.pgqFail {w : Warp} : MemWf (s.pgqFail w) := by
  unfold State.pgqFail
  exact MemWf.sendVector h.same

theorem MemWf.postPage {w : Warp} {va n : Word64} : MemWf (s.postPage w va n) := by
  unfold State.postPage
  extract_lets k c base cap
  split
  · rename_i e
    have ht := h.translate.snd e
    refine ht.pgqFail.ite ?_
    split
    rename_i e
    have hu := ht.atHome.snd e
    extract_lets posted dropped drop
    have hd : ∀ v, MemWf v → MemWf (drop v) := fun v k => k.putShared
    clear_value drop
    refine (hd _ hu).ite ?_
    split
    · rename_i e
      have hv := hu.translate.snd e
      refine (hd _ hv).pgqFail.ite ?_
      exact hv.atHome.putShared.putShared
    all_goals
      rename_i e
      exact (hd _ (hu.translate.snd e)).pgqFail
  all_goals
    rename_i e
    exact (h.translate.snd e).pgqFail

theorem MemWf.execPgreqPost {wid} : NextWf (execPgreqPost wid s) := by
  refine .of ?_
  split
  · exact h
  · split
    · exact h.postPage.same
    all_goals exact h

theorem MemWf.execMwaitReread {wid} : NextWf (execMwaitReread wid s) := by
  refine .of ?_
  split
  · exact h
  · refine MemWf.ite ?_ h
    split
    rename_i e
    have ht := h.watchChanged.snd e
    exact MemWf.ite ht.same ht

end

end Sys2Proof.Machine

namespace Sys2Proof.Machine

/-! ## Accesses of engines -/

/-- A state that may be there has canonical memories where it is. -/
def SomeWf (o : Option State) : Prop := ∀ t, o = some t → MemWf t

theorem SomeWf.none : SomeWf none := fun _ e => nomatch e

theorem MemWf.someWf {s : State} (h : MemWf s) : SomeWf (some s) := fun _ e => Option.some.inj e ▸ h

theorem SomeWf.bind {o : Option State} (h : SomeWf o) {f : State → Option State}
    (k : ∀ t, MemWf t → SomeWf (f t)) : SomeWf (o.bind f) := by
  cases o with
  | none => exact .none
  | some t => exact k t (h t rfl)

theorem SomeWf.map {o : Option State} (h : SomeWf o) {f : State → State} (k : ∀ t, MemWf t → MemWf (f t)) :
    SomeWf (o.map f) := by
  cases o with
  | none => exact .none
  | some t => exact (k t (h t rfl)).someWf

theorem SomeWf.ite {c : Prop} [Decidable c] {o p : Option State} (h : SomeWf o) (k : SomeWf p) :
    SomeWf (if c then o else p) := by
  split
  · exact h
  · exact k

theorem SomeWf.foldlBind {α : Type} {o : Option State} (h : SomeWf o) {f : State → α → Option State}
    (k : ∀ t a, MemWf t → SomeWf (f t a)) (l : List α) : SomeWf (l.foldl (fun o a => o.bind fun s => f s a) o) := by
  induction l generalizing o with
  | nil => exact h
  | cons a l ih => exact ih (h.bind fun t w => k t a w)

theorem MemWf.tellPeer {s : State} {f : State → State} (k : MemWf (f s)) : MemWf (s.tellPeer f).2 := by
  unfold State.tellPeer
  split
  all_goals
    rename_i e
    exact k.accepted.snd e

section
variable {s : State} (h : MemWf s)
include h

theorem MemWf.engineAt {x : XCtx} {acc : Access} {va : Word64} {n : Nat} : MemWf (s.engineAt x acc va n).2 :=
  h.only (s.engineAt_only x acc va n)

theorem MemWf.physBytes {b : Beam} {pa n : Nat} : MemWf (s.physBytes b pa n).2 := h.only (s.physBytes_only b pa n)

theorem MemWf.engineRead {x : XCtx} {va : Word64} {n k : Nat} : MemWf (s.engineRead x va n k).2 :=
  h.only (s.engineRead_only x va n k)

theorem MemWf.cmdWord {x : XCtx} {va : Word64} {w : Bool} : MemWf (s.cmdWord x va w).2 :=
  h.only (s.cmdWord_only x va w)

theorem MemWf.putPhys {b : Beam} {pa : Nat} {bs : List Byte} : MemWf (s.putPhys b pa bs).2 := by
  unfold State.putPhys
  split
  · exact MemWf.tellPeer h.sendStore
  · exact h.putShared

theorem MemWf.engineWrite {x : XCtx} {va : Word64} {n : Nat} {bs : List Byte} :
    MemWf (s.engineWrite x va n bs).2 := by
  unfold State.engineWrite
  split
  · rename_i e
    exact h.engineAt.snd e
  · rename_i e
    exact (h.engineAt.snd e).putPhys

theorem MemWf.copyPhys {b : Beam} {src dst n : Nat} : SomeWf (s.copyPhys b src dst n) := by
  unfold State.copyPhys
  split
  · split
    · rename_i e
      have ht := h.physBytes.snd e
      split
      · rename_i e
        exact (ht.putPhys.snd e).someWf
      · exact .none
    · exact .none
  · extract_lets t
    have ht : MemWf t := h.l1Recall.l1Yield.same
    exact SomeWf.none.ite (MemWf.someWf (ht.setMem (cellCopy_wf ht.mem _ _ _)))

theorem MemWf.zeroPhys {b : Beam} {dst n : Nat} : SomeWf (s.zeroPhys b dst n) := by
  unfold State.zeroPhys
  split
  · split
    · rename_i e
      exact (h.putPhys.snd e).someWf
    · exact .none
  · extract_lets t
    have ht : MemWf t := h.l1Yield.same
    exact MemWf.someWf (ht.setMem (cellClear_wf ht.mem _ _))

/-! ## Commands -/

theorem MemWf.addCmd {b : Beam} {c : CtxN} {off : BitVec 20} {w : CmdWait} : MemWf (s.addCmd b c off w) := h.same

theorem MemWf.dropCmd {b : Beam} {c : CtxN} {id : Nat} : MemWf (s.dropCmd b c id) := h.same

theorem MemWf.setWait {b : Beam} {c : CtxN} {id : Nat} {w : CmdWait} : MemWf (s.setWait b c id w) := h.same

theorem MemWf.modCtx {b : Beam} {c : CtxN} {f : Context → Context} : MemWf (s.modCtx b c f) := h.same

theorem MemWf.haltStream {b : Beam} {c : CtxN} {err : BitVec 8} {off : BitVec 20} :
    MemWf (s.haltStream b c err off) := by
  unfold State.haltStream
  exact h.ite (MemWf.sendVector h.modCtx)

theorem MemWf.peek {b : Beam} {c : CtxN} : MemWf (s.peek b c).2 := h.only (s.peek_only b c)

theorem MemWf.rejectCmd {b : Beam} {c : CtxN} {w : CmdWord} {err : BitVec 8} : MemWf (s.rejectCmd b c w err) := by
  unfold State.rejectCmd
  exact h.modCtx.haltStream

/-- A command that begins keeps the memories canonical where its effect does. -/
theorem MemWf.begin {b : Beam} {c : CtxN} {opc : Nat} {eff : CmdWord → State → State}
    (k : ∀ w t, MemWf t → MemWf (eff w t)) : MemWf (s.begin b c opc eff) := by
  unfold State.begin
  split
  · exact h
  · rename_i e
    exact (h.peek.snd e).haltStream
  · rename_i e
    exact (h.peek.snd e).modCtx.ite h
  · rename_i e
    have ht := h.peek.snd e
    exact h.ite (h.ite (ht.rejectCmd.ite (k _ _ ht.modCtx)))

theorem MemWf.pushNest {b : Beam} {c : CtxN} {n : Nest} {x : Bool} : MemWf (s.pushNest b c n x) := h.same

theorem MemWf.execClobusoNop {b c} : NextWf (execClobusoNop b c s) := .of (h.begin fun _ _ k => k)

theorem MemWf.execCIf {b c} : NextWf (execCIf b c s) := by
  refine .of (h.begin fun w t k => k.rejectCmd.ite ?_)
  split
  · rename_i e
    exact (k.cmdWord.snd e).rejectCmd
  · rename_i e
    exact (k.cmdWord.snd e).pushNest

theorem MemWf.execCElse {b c} : NextWf (execCElse b c s) := by
  refine .of (h.begin fun w t k => ?_)
  split
  · exact k.modCtx
  · exact k.rejectCmd

theorem MemWf.execCEndif {b c} : NextWf (execCEndif b c s) := by
  refine .of (h.begin fun w t k => ?_)
  split
  · exact k.modCtx
  · exact k.rejectCmd

theorem MemWf.execCLoop {b c} : NextWf (execCLoop b c s) := .of (h.begin fun _ _ k => k.rejectCmd.ite k.pushNest)

theorem MemWf.execCEndloop {b c} : NextWf (execCEndloop b c s) := by
  refine .of (h.begin fun w t k => ?_)
  split
  · exact k.modCtx.ite k.modCtx
  · exact k.rejectCmd

theorem MemWf.pollWaitv {b : Beam} {c : CtxN} {k : Cmd} : MemWf (s.pollWaitv b c k) := by
  unfold State.pollWaitv
  split
  · split
    · rename_i e
      exact (h.cmdWord.snd e).dropCmd.haltStream
    · rename_i e
      have ht := h.cmdWord.snd e
      exact ht.dropCmd.ite ht
  all_goals exact h

theorem MemWf.execWaitv {b c} : NextWf (execWaitv b c s) := by
  refine .of (h.begin fun w t k => ?_)
  extract_lets id u
  have hu : MemWf u := k.addCmd
  exact hu.elim (fun _ => hu.pollWaitv) _

theorem MemWf.execWaitvRead {b c} : NextWf (execWaitvRead b c s) :=
  .of (h.ite (h.foldl (fun _ _ k => k.pollWaitv) _))

theorem MemWf.signal {b : Beam} {op pa n : Nat} {d : Word64} : MemWf (s.signal b op pa n d).2 := by
  unfold State.signal
  split
  · exact h.putPhys
  · split
    · exact MemWf.tellPeer h.sendRemote
    · split
      · rename_i e
        exact h.physBytes.snd e
      · rename_i e
        exact (h.physBytes.snd e).putPhys

theorem MemWf.execSignal {b c} : NextWf (execSignal b c s) := by
  refine .of (h.begin fun w t k => ?_)
  extract_lets n
  split
  · rename_i e
    exact (k.engineAt.snd e).rejectCmd
  · rename_i e
    have hu := k.engineAt.snd e
    split
    · rename_i e
      exact (hu.signal.snd e).rejectCmd
    · rename_i e
      have hv := hu.signal.snd e
      exact hv.sendVector.ite hv

theorem MemWf.execClobusoFence {b c} : NextWf (execClobusoFence b c s) := by
  refine .of (h.begin fun w t k => MemWf.ite ?_ k)
  split
  rename_i e
  exact (k.requestSweep.snd e).addCmd

/-! ## Launches -/

theorem MemWf.giveTag {b : Beam} : MemWf (s.giveTag b) := by
  unfold State.giveTag
  split
  · exact h.same
  · exact h

theorem MemWf.takeSlots {l : Launch} {d : Die} : MemWf (s.takeSlots l d) := h.foldl (fun _ _ k => k.same) _

theorem MemWf.allocSlots {lid : Nat} : MemWf (s.allocSlots lid) := by
  unfold State.allocSlots
  split
  · exact h
  · exact MemWf.ite (MemWf.same (h.foldl (fun _ _ k => k.takeSlots) _)) h

theorem MemWf.queueLaunch {b : Beam} {c : CtxN} {off : BitVec 20} {d : Desc} {ext : Nat × Nat × Nat} :
    MemWf (s.queueLaunch b c off d ext) := by
  unfold State.queueLaunch
  refine h.ite ?_
  split
  rename_i e
  have ht := MemWf.snd (r := s.fresh) h.same e
  extract_lets p cut _ u
  have hu : MemWf u := ht.same
  exact hu.giveTag.allocSlots.addCmd

theorem MemWf.launchWith {b : Beam} {c : CtxN} {w : CmdWord} {bs : List Byte} {ext : Nat × Nat × Nat} :
    MemWf (s.launchWith b c w bs ext) := by
  unfold State.launchWith
  extract_lets d
  split
  · exact h.rejectCmd
  · exact h.queueLaunch

theorem MemWf.execLaunch {b c} : NextWf (execLaunch b c s) := by
  refine .of (h.begin fun w t k => ?_)
  split
  · rename_i e
    exact (k.engineRead.snd e).rejectCmd
  · rename_i e
    exact (k.engineRead.snd e).launchWith

theorem MemWf.execLaunchi {b c} : NextWf (execLaunchi b c s) := by
  refine .of (h.begin fun w t k => ?_)
  split
  · rename_i e
    exact (k.engineRead.snd e).rejectCmd
  · rename_i e
    have hu := k.engineRead.snd e
    split
    · rename_i e
      exact (hu.engineRead.snd e).rejectCmd
    · rename_i e
      exact (hu.engineRead.snd e).launchWith

theorem MemWf.completeLaunch {l : Launch} : MemWf (s.completeLaunch l) := by
  unfold State.completeLaunch
  extract_lets t u v w
  have hv : MemWf v := h.same
  have hw : MemWf w := hv.modCtx.ite hv
  exact hw.giveTag

theorem MemWf.execLaunchComplete {l} : NextWf (execLaunchComplete l s) := by
  refine .of ?_
  split
  · exact h
  · exact h.completeLaunch.ite h

/-! ## Domains and pages -/

theorem MemWf.setDom {p : PartN} {v : BitVec 4} {x : DomState} : MemWf (s.setDom p v x) := h.same

theorem MemWf.execCOpen {b c} : NextWf (execCOpen b c s) := by
  refine .of (h.begin fun w t k => ?_)
  extract_lets p v
  split
  · rename_i e
    exact (k.cmdWord.snd e).rejectCmd
  · rename_i e
    have hu := k.cmdWord.snd e
    exact MemWf.ite hu.same hu.rejectCmd

theorem MemWf.beginClose {b : Beam} {c : CtxN} {w : CmdWord} {x : Bool} : MemWf (s.beginClose b c w x) := by
  unfold State.beginClose
  extract_lets p v again
  split
  · exact h.rejectCmd
  · exact h.setDom.addCmd

theorem MemWf.leafAt {p : PartN} {e : Pte} {pa : Nat} : MemWf (s.leafAt p e pa).2 := h.atHome

/-- R113, R222: copying a frame of a leaf granule by granule. -/
theorem MemWf.refreshLeaf {p : PartN} {x : Nat × Nat} : SomeWf (s.refreshLeaf p x) := by
  unfold State.refreshLeaf
  extract_lets e g src dst
  refine h.someWf.ite (SomeWf.none.ite (SomeWf.map (SomeWf.foldlBind h.someWf (fun t i k => ?_) _)
    fun t k => k.putShared))
  exact k.leafAt.leafAt.copyPhys

theorem MemWf.refreshDomain {p : PartN} {v : BitVec 4} : MemWf (s.refreshDomain p v).1 := by
  refine MemWf.foldlFst (r := (s, true)) h (fun r x k => ?_) _
  split
  · have hl := k.refreshLeaf (p := p) (x := x)
    cases hr : r.1.refreshLeaf p x with
    | none => exact k
    | some t => exact hl t hr
  · exact k

theorem MemWf.closeStep {b : Beam} {c : CtxN} {k : Cmd} {v : BitVec 4} {out : Option Word64} {commit : Bool}
    {flag : Option Word64} {ph : DomPhase} : MemWf (s.closeStep b c k v out commit flag ph) := by
  unfold State.closeStep
  extract_lets p _ x go fail close
  have hg : ∀ t ph, MemWf t → MemWf (go t ph) := fun t ph k => k.setWait
  have hf : ∀ t, MemWf t → MemWf (fail t) := fun t k => k.dropCmd.haltStream
  have hc : ∀ t, MemWf t → MemWf (close t) := fun t k => k.setDom.dropCmd
  clear_value go fail close
  split
  · refine h.ite ?_
    split
    · exact hg _ _ h
    · split
      · rename_i e
        exact hf _ (h.cmdWord.snd e)
      · rename_i e
        have ht := h.cmdWord.snd e
        extract_lets u
        have hu : MemWf u := ht.same
        split
        rename_i e
        exact hg _ _ (hu.requestSweep.snd e)
      · rename_i e
        exact hg _ _ (h.cmdWord.snd e)
  · exact h.ite (hg _ _ h)
  · split
    · rename_i e
      exact hf _ (h.refreshDomain.fst e)
    · rename_i e
      have ht := h.refreshDomain.fst e
      split
      rename_i e
      exact hg _ _ (ht.requestSweep.snd e)
  · refine h.ite ?_
    split
    · exact hc _ h
    · split
      · rename_i e
        exact hf _ (h.engineWrite.snd e)
      · rename_i e
        exact hc _ (h.engineWrite.snd e)

theorem MemWf.closeEvent {b : Beam} {c : CtxN} {opc : Nat} {x : Bool} : MemWf (s.closeEvent b c opc x) := by
  unfold State.closeEvent
  split
  · exact h.ite h.closeStep
  · exact h.begin fun _ _ k => k.beginClose

theorem MemWf.fillFrame {x : XCtx} {e : Pte} {frame size : Nat} {src : Option Nat} :
    SomeWf (s.fillFrame x e frame size src) := by
  unfold State.fillFrame
  split
  · exact SomeWf.foldlBind h.someWf (fun t i k => k.leafAt.zeroPhys) _
  · refine SomeWf.foldlBind h.someWf (fun t y k => ?_) _
    split
    · exact .none
    · rename_i e
      exact (k.engineAt.snd e).leafAt.copyPhys

theorem MemWf.pageIn {x : XCtx} {va : Word64} {src : Option Nat} {r : Nat × State}
    (e : s.pageIn x va src = some r) : MemWf r.2 := by
  unfold State.pageIn at e
  split at e
  · cases e
    exact h
  · split at e
    · cases e
      exact h
    · extract_lets size at e
      obtain ⟨t, ht, rfl⟩ := Option.map_eq_some_iff.1 e
      have hw : MemWf t := SomeWf.bind h.fillFrame (fun u k => k.fillFrame.ite k.someWf) t ht
      exact hw.putShared

theorem MemWf.pageList {x : XCtx} {list : Word64} {n i : Nat} : MemWf (s.pageList x list n i).1 := by
  induction n generalizing s i with
  | zero => exact h
  | succ n ih =>
    unfold State.pageList
    extract_lets at_
    split
    · rename_i e
      exact h.engineRead.snd e
    · rename_i e
      have ht := h.engineRead.snd e
      extract_lets va src
      split
      · exact ht
      · rename_i t _ st u e
        have hu : MemWf u := by
          split at e
          · cases e
            exact ht
          · exact ht.pageIn e
        split
        · rename_i e
          exact hu.engineWrite.snd e
        · rename_i e
          exact ih (hu.engineWrite.snd e)

end

end Sys2Proof.Machine

namespace Sys2Proof.Machine

/-! ## The reed -/

theorem cellSetMap_wf (l : List (Nat × Byte)) (a : Nat) {m : List Host.Cell} (h : Memory.wf m = true) :
    Memory.wf (l.foldl (fun m x => cellSet m (a + x.1) x.2) m) = true :=
  cellSetAll_wf (fun x => a + x.1) (fun x => x.2) l m h

/-- R32, R35: a dent keeps a mirror canonical. -/
theorem Ply.applyLogged_wf {p : Ply} (h : Memory.wf p.mirror = true) (d : Dent) :
    Memory.wf (p.applyLogged d).mirror = true := by
  show Memory.wf (p.applyDent d.kind).mirror = true
  unfold Ply.applyDent
  split
  · exact cellSetMap_wf _ _ h
  · dsimp only
    split
    · exact cellPut_wf h _ _
    · exact h
  · exact cellClear_wf h _ _
  all_goals exact h

theorem Ply.awake_mirror (p : Ply) : p.awake.mirror = p.mirror := by
  unfold Ply.awake
  split <;> rfl

section
variable {s : State} (h : MemWf s)
include h

theorem MemWf.execPage {b c} : NextWf (execPage b c s) := by
  refine .of (h.begin fun w t k => ?_)
  split
  · rename_i e
    exact (k.pageList.fst e).rejectCmd
  · rename_i e
    have hu := k.pageList.fst e
    split
    rename_i e
    exact (hu.requestSweep.snd e).addCmd

theorem MemWf.logDent {b : Beam} {tag : BitVec 8} {d : Die} {k : DentKind} {id : Nat} :
    MemWf (s.logDent b tag d k id) := h.same

theorem MemWf.sendSlot {b : Beam} {r : ReedSlot} : MemWf (s.sendSlot b r) := by
  unfold State.sendSlot
  split
  · exact h
  · extract_lets d
    split
    · extract_lets t
      have ht : MemWf t := h.modPly
      exact ht.logDent.count.ite h
    · exact h

theorem MemWf.passSlot {b : Beam} : MemWf (s.passSlot b) := by
  unfold State.passSlot
  extract_lets r t
  have ht : MemWf t := by
    unfold t
    split
    · exact h.same
    · exact h.sendSlot
  exact ht.same

theorem MemWf.execDentPass {b} : NextWf (execDentPass b s) := .of (h.passSlot.ite h)

theorem MemWf.answerAtomic {d : Dent} : MemWf (s.answerAtomic d) := by
  unfold State.answerAtomic
  split
  · split
    · exact h
    · split
      · exact h
      · extract_lets old
        split
        · exact h.modOp.opFault.tidyOp
        · exact h.modOp.tidyOp
  all_goals exact h

theorem MemWf.turnBeam {b : Beam} {lid : Nat} {n : BitVec 3} : MemWf (s.turnBeam b lid n) := by
  unfold State.turnBeam
  extract_lets i t
  have ht : MemWf t := h.same
  exact ht.mapGroupsIf

theorem MemWf.arriveAgain {b : Beam} {lid : Nat} {n : BitVec 3} : MemWf (s.arriveAgain b lid n) :=
  h.foldl (fun _ _ k => k.settleBeam) _

theorem MemWf.countToken {b : Beam} {k : DentKind} : MemWf (s.countToken b k) := by
  unfold State.countToken
  split
  · exact h
  · extract_lets t
    have ht : MemWf t := h.same
    exact ht.foldl (fun _ _ k => k.turnBeam.arriveAgain) _

theorem MemWf.applyDent {b : Beam} {d : Dent} : MemWf (s.applyDent b d) := by
  unfold State.applyDent
  extract_lets t u v w x
  have ht : MemWf t := h.answerAtomic
  have hu : MemWf u := ht.foldl (fun _ _ k => (k.modPly fun _ w => Ply.applyLogged_wf w d).ite k) _
  have hv : MemWf v := hu.modPly
  have hx : MemWf x := hv.same
  exact hx.countToken.startAll

theorem MemWf.execDentApply {b} : NextWf (execDentApply b s) := by
  refine .of ?_
  split
  · exact h.applyDent
  · exact h

theorem MemWf.execRegionClear {b p} : NextWf (execRegionClear b p s) := .of (h.passSlot.ite h)

theorem MemWf.execSlotAllocation {l} : NextWf (execSlotAllocation l s) := .of h.allocSlots

theorem MemWf.execSlotReturn {l} : NextWf (execSlotReturn l s) := by
  refine .of ?_
  split
  · exact h
  · exact MemWf.ite h.same h

/-! ## Power -/

theorem MemWf.execListenerLock {d} : NextWf (execListenerLock d s) := by
  refine .of ?_
  split
  · exact h
  · exact h.modPly

theorem MemWf.execLogReplay {d} : NextWf (execLogReplay d s) := by
  refine .of (MemWf.ite ?_ h)
  extract_lets ds t
  have ht : MemWf t := h.foldl (fun _ e k => k.modPly fun _ w => Ply.applyLogged_wf w e) _
  exact MemWf.ite h.modPly (ht.modPly fun p w => (Ply.awake_mirror p).symm ▸ w)

theorem MemWf.execMirrorCopy {d} : NextWf (execMirrorCopy d s) := by
  refine .of (MemWf.ite ?_ h)
  split
  · exact h
  · exact h.modPly fun _ _ => h.ply _

theorem MemWf.execAutoDoze {d} : NextWf (execAutoDoze d s) := by
  refine .of ?_
  extract_lets p
  exact h.modPly.ite h

theorem MemWf.execPlyStateEntry {d} : NextWf (execPlyStateEntry d s) := by
  refine .of ?_
  extract_lets p t u
  have hu : MemWf u := h.l1Flush.same
  split
  · exact hu.modPly.ite h
  · exact h.modPly.ite h
  · exact h.modPly.ite h
  · exact h

theorem MemWf.execDozeWake {d} : NextWf (execDozeWake d s) := by
  refine .of (h.modPly fun p w => ?_)
  split
  · split <;> exact w
  · split
    · exact (Ply.awake_mirror p).symm ▸ w
    · exact w
  all_goals exact w

theorem MemWf.execClockStepDown {d} : NextWf (execClockStepDown d s) := .of h.modPly

theorem MemWf.execClockStepUp {d} : NextWf (execClockStepUp d s) := .of h.modPly

theorem MemWf.execHeatPublish {t} : NextWf (execHeatPublish t s) :=
  .of (MemWf.ite (h.foldl (fun _ _ k => k.modPly) _) h)

/-! ## Registers of the host -/

theorem MemWf.setCtxReg {b : Beam} {c : CtxN} {r : CtxReg} {w : RegWrite} : MemWf (s.setCtxReg b c r w) := by
  unfold State.setCtxReg
  extract_lets still
  split
  · exact h.modCtx.ite h
  · exact h.modCtx.ite h
  · exact h.modCtx
  · exact h.modCtx.ite h
  all_goals exact h

theorem MemWf.setIdlePart {p : PartN} {f : PartRegs → PartRegs} : MemWf (s.setIdlePart p f) := h.ite h.same

/-- R82: a plain register holds no memory; those of a ply leave its mirror alone. -/
theorem MemWf.setReg {w : RegWrite} : MemWf (s.setReg w) := by
  unfold State.setReg
  split
  case h_5 | h_7 | h_8 | h_9 => exact h.setIdlePart
  case h_10 | h_11 | h_19 | h_21 => exact h.modPly
  case h_13 => exact h.ite h.same
  case h_18 => exact h.setCtxReg
  case h_20 =>
    refine h.modPly fun p k => ?_
    split <;> exact k
  all_goals exact h.same

theorem MemWf.onWrite {x : HostWrite} {k : WriteKind} {f : RegWrite → State → State} (w : ∀ r, MemWf (f r s)) :
    MemWf (s.onWrite x k f) := by
  unfold State.onWrite
  split
  · exact (w _).ite h
  · exact h

theorem MemWf.putTrace {d : Die} {pa : Nat} {bs : List Byte} : MemWf (s.putTrace d pa bs) := h.putHome.ite h

theorem MemWf.modTrace {d : Die} {f : Trace → Trace} : MemWf (s.modTrace d f) := h.modPly

theorem MemWf.writeRecord {core : Nat} {r : List Byte} : MemWf (s.writeRecord core r) := by
  unfold State.writeRecord
  extract_lets d t
  exact h.putTrace.modTrace.ite h.modTrace

theorem MemWf.writeHeader {core : Nat} : MemWf (s.writeHeader core) := by
  unfold State.writeHeader
  exact h.putTrace.putTrace

theorem MemWf.publish {core : Nat} : MemWf (s.publish core) := by
  unfold State.publish
  extract_lets d
  split
  rename_i e
  have ht := h.clockOf.snd e
  extract_lets c u v
  have hu : MemWf u := ht.ite ht.writeRecord.modTrace
  have hv : MemWf v := hu.foldl (fun _ _ k => k.writeRecord) _
  exact hv.modTrace.writeHeader

theorem MemWf.publishAll {ds : List Die} : MemWf (s.publishAll ds) :=
  h.foldl (fun _ _ k => k.foldl (fun _ _ k => k.publish) _) _

theorem MemWf.execRegisterWrite {x} : NextWf (execRegisterWrite x s) := .of (h.onWrite fun _ => h.setReg)

theorem MemWf.flushPart {p : PartN} : MemWf (s.flushPart p) :=
  MemWf.tlbDrop (h.publishAll.foldl (fun _ _ k => k.modTrace) _)

theorem MemWf.execPartitionWrite {x} : NextWf (execPartitionWrite x s) := by
  refine .of (h.onWrite fun w => ?_)
  split
  · extract_lets t fresh u f
    have hu : MemWf u := h.flushPart.same
    exact h.ite (MemWf.ite hu.same hu)
  · exact h

theorem MemWf.execCtxTailWrite {x} : NextWf (execCtxTailWrite x s) := by
  refine .of (h.onWrite fun w => ?_)
  split
  · exact h.modCtx.ite h
  · exact h

theorem MemWf.execCtxHeadWrite {x} : NextWf (execCtxHeadWrite x s) := by
  refine .of (h.onWrite fun w => ?_)
  split
  · exact h.modCtx.ite h
  · exact h

theorem MemWf.execCtxBindEnable {x} : NextWf (execCtxBindEnable x s) := by
  refine .of (h.onWrite fun w => ?_)
  split
  · exact h.modCtx.ite h
  · exact h

theorem MemWf.execCtxBindDisable {x} : NextWf (execCtxBindDisable x s) := by
  refine .of (h.onWrite fun w => ?_)
  split
  · exact (h.haltStream.ite h).modCtx
  · exact h

theorem MemWf.plyRequest {w : RegWrite} {n : BitVec 2} : MemWf (s.plyRequest w n) := by
  unfold State.plyRequest
  split
  · exact h.setReg.modPly
  · exact h

theorem MemWf.execL2wbStart {x} : NextWf (execL2wbStart x s) := by
  refine .of (h.onWrite fun w => ?_)
  split
  · exact h.same
  · exact h

theorem MemWf.execL2wbDone {p} : NextWf (execL2wbDone p s) := by
  have hl := h.foldl (f := State.hbmLines) fun t d k => k.only (t.traffic_only _ _)
  exact NextWf.of (MemWf.same (MemWf.foldl (hl _) (fun _ _ k => k.mergeHomes) _))

theorem MemWf.execTraceEnable {x} : NextWf (execTraceEnable x s) := by
  refine .of (h.onWrite fun w => ?_)
  split
  · extract_lets t
    have ht : MemWf t := h.setReg.modPly
    exact (ht.foldl (fun _ _ k => k.writeHeader) _).ite h
  · exact h

theorem MemWf.execTraceDisable {x} : NextWf (execTraceDisable x s) := by
  refine .of (h.onWrite fun w => ?_)
  split
  · exact h.publishAll.setReg.modPly
  · exact h

theorem MemWf.execWptrPublish {core} : NextWf (execWptrPublish core s) := .of (h.publish.ite h)

theorem MemWf.execCounterClear {x} : NextWf (execCounterClear x s) := by
  refine .of (h.onWrite fun w => ?_)
  split
  · extract_lets t
    have ht : MemWf t := h.setReg.modPly
    exact ht.same
  · exact h

theorem MemWf.emit {o : Output} : MemWf (s.emit o) := h.same

theorem MemWf.execCounterLatchRead {x} : NextWf (execCounterLatchRead x s) := by
  refine .of ?_
  split
  · refine h.emit.ite ?_
    extract_lets v high
    exact h.modPly.emit.ite (h.modPly.emit.ite h.emit)
  · exact h.emit

end

end Sys2Proof.Machine

namespace Sys2Proof.Machine

section
variable {s : State} (h : MemWf s)
include h

/-! ## Machine checks and starts -/

theorem MemWf.machineCheck {qs : List Port} {bit : Nat} : MemWf (s.machineCheck qs bit) := by
  refine h.foldl (fun t q k => ?_) _
  extract_lets old u
  have hu : MemWf u := k.same
  exact hu.emit.ite hu

theorem MemWf.execBeamLinkDown : NextWf (execBeamLinkDown s) := by
  refine .of (h.ite ?_)
  exact MemWf.machineCheck (MemWf.same h)

theorem MemWf.execFlitRetry : NextWf (execFlitRetry s) := .of h

theorem MemWf.execUalDown {q} : NextWf (execUalDown q s) := .of h.machineCheck

theorem MemWf.execCpHalt {b} : NextWf (execCpHalt b s) := .of (MemWf.machineCheck (MemWf.same h))

theorem MemWf.execFlashWindowWrite {x} : NextWf (execFlashWindowWrite x s) :=
  .of (h.onWrite fun _ => ⟨h.mem, h.vault, cellPut_wf h.flash _ _, h.groups, h.bolts, h.plies⟩)

/-- R86, R88: a start keeps the flash and at most a part of memory, and makes every other memory zero. -/
theorem MemWf.cleared : MemWf s.cleared := by
  refine ⟨Memory.filter_wf h.mem _, rfl, h.flash, fun _ hg => (nomatch hg), fun _ hb => (nomatch hb), fun p hp => ?_⟩
  have hr : p = Ply.reset := by simpa [State.cleared, State.reset] using hp
  rw [hr]
  rfl

theorem MemWf.wipe {warm : Bool} : MemWf (s.wipe warm) := by
  refine h.cleared.setMem ?_
  show Memory.wf (if warm then s.cleared.mem else []) = true
  split
  · exact h.cleared.mem
  · rfl

theorem MemWf.beginStart {warm : Bool} : MemWf (s.beginStart warm) := h.wipe.same

theorem MemWf.execBootColdStart {x} : NextWf (execBootColdStart x s) := .of (h.onWrite fun _ => h.setReg.beginStart)

theorem MemWf.execBootWarmStart {x} : NextWf (execBootWarmStart x s) := .of (h.onWrite fun _ => h.setReg.beginStart)

theorem MemWf.execFundamentalReset {q} : NextWf (execFundamentalReset q s) := .of (h.beginStart.ite h)

theorem MemWf.execPowerUp : NextWf (execPowerUp s) := .of (h.ite (h.beginStart (warm := false)).same)

theorem MemWf.execPowerRemoval : NextWf (execPowerRemoval s) := .of (h.wipe (warm := false)).same

theorem MemWf.execPortLinkChange {q up} : NextWf (execPortLinkChange q up s) := .of h.same

theorem MemWf.finishStart {f : BitVec 8} : MemWf (s.finishStart f) := by
  unfold State.finishStart
  extract_lets d digest reuse test _ t
  have ht : MemWf t := h.cleared.same
  exact ht.machineCheck.ite ht

theorem MemWf.execBootReady {f} : NextWf (execBootReady f s) := .of (h.ite (h.finishStart.ite h.same))

theorem MemWf.execAttestRequest {x} : NextWf (execAttestRequest x s) := .of (h.onWrite fun _ => h.ite h.same)

theorem MemWf.execQuoteDone {q} : NextWf (execQuoteDone q s) := .of h.same

theorem MemWf.execResizableBarSet {q n} : NextWf (execResizableBarSet q n s) := .of (MemWf.ite h.same h)

/-! ## Accesses from outside, and errors -/

theorem MemWf.outsideBytes {pa n : Nat} : MemWf (s.outsideBytes pa n).2 := by
  refine MemWf.foldlSnd (r := ([], s.l1Recall none pa n)) h.l1Recall (fun r i k => ?_) _
  dsimp only
  split
  · exact k.same
  · exact k

theorem MemWf.execBar4Access {a} : NextWf (execBar4Access a s) := by
  refine .of (h.ite ?_)
  extract_lets n r t
  have ht : MemWf t := h.same
  refine MemWf.ite ?_ (ht.ite ht.emit)
  split
  · exact h.putShared
  · exact h.outsideBytes.emit

theorem MemWf.execInboundRemoteAccess {a} : NextWf (execInboundRemoteAccess a s) := by
  refine .of ?_
  extract_lets n r
  refine h.ite (h.emit.ite ?_)
  split
  · exact h.outsideBytes.emit
  · exact h.putShared.emit
  · refine h.emit.ite ?_
    split
    rename_i e
    have ht := h.outsideBytes.snd e
    extract_lets old r u
    have hu : MemWf u := ht.putShared.ite ht.same
    exact hu.emit

theorem MemWf.poisonMem {pa : Nat} {x : BitVec 4} : MemWf (s.poisonMem pa x) := by
  unfold State.poisonMem
  extract_lets t
  have ht : MemWf t := h.same
  exact ht.ite ht.machineCheck

/-- R194: an error marks a word; the bytes of a memory stay what they are. -/
theorem MemWf.strike {t : SoftTarget} : MemWf (s.strike t) := by
  unfold State.strike
  split
  case h_6 => exact h.modPly
  case h_10 | h_11 => exact h.poisonMem
  all_goals exact h.same

theorem MemWf.corrected {t : SoftTarget} : MemWf (s.corrected t) := by
  unfold State.corrected
  split
  · exact h.same
  all_goals exact h

theorem MemWf.execSoftError {e} : NextWf (execSoftError e s) := .of (h.corrected.ite h.strike)

theorem MemWf.execPatrolScrub {d} : NextWf (execPatrolScrub d s) := .of (MemWf.ite h.same h)

/-! ## Collectives -/

theorem MemWf.modColl {b : Beam} {id : Nat} {f : Coll → Coll} : MemWf (s.modColl b id f) := h.same

theorem MemWf.endColl {b : Beam} {id : Nat} {r : BitVec 2} {c : BitVec 32} : MemWf (s.endColl b id r c) := h.same

theorem MemWf.readElems {x : XCtx} {va size n : Nat} : MemWf (s.readElems x va size n).2 := by
  induction n with
  | zero => exact h
  | succ n ih =>
    unfold State.readElems
    split
    · rename_i e
      exact ih.snd e
    · rename_i e
      have ht := ih.snd e
      split
      all_goals
        rename_i e
        exact ht.engineRead.snd e

theorem MemWf.writeElems {x : XCtx} {va size : Nat} {es : List (List Byte)} :
    MemWf (s.writeElems x va size es).2 := by
  induction es generalizing s va with
  | nil => exact h
  | cons e es ih =>
    unfold State.writeElems
    split
    · rename_i e
      exact h.engineWrite.snd e
    · rename_i e
      exact ih (h.engineWrite.snd e)

theorem MemWf.endChunk {b : Beam} {k : Coll} {j : Nat} : MemWf (s.endChunk b k j) := by
  unfold State.endChunk
  extract_lets x t
  have ht : MemWf t := h.modColl
  split
  · exact ht
  · split
    · rename_i e
      exact ht.writeElems.snd e
    · rename_i e
      exact (ht.writeElems.snd e).endColl

theorem MemWf.tryChunk {b : Beam} {id j : Nat} : MemWf (s.tryChunk b id j) := by
  unfold State.tryChunk
  split
  · exact h
  · exact h.endChunk.ite h

theorem MemWf.giveChunk {b : Beam} {id : Nat} {g : Nat × List Nat} : MemWf (s.giveChunk b id g) := by
  unfold State.giveChunk
  split
  · exact h
  · refine h.ite ?_
    extract_lets x
    split
    · rename_i e
      exact (h.readElems.snd e).endColl
    · rename_i e
      have ht := h.readElems.snd e
      extract_lets me a u
      have hu : MemWf u := ht.foldl (fun _ _ k => k.emit) _
      exact hu.modColl.ite hu

theorem MemWf.retireColl {b : Beam} {k : Coll} : MemWf (s.retireColl b k) := h.same

theorem MemWf.recordFault {b : Beam} {k : Coll} : MemWf (s.recordFault b k) := h.retireColl.haltStream

theorem MemWf.startColl {b : Beam} {k : Coll} : MemWf (s.startColl b k) := by
  unfold State.startColl
  extract_lets x t reject
  have ht : MemWf t := h.modColl
  have hr : ∀ u, MemWf u → MemWf (reject u) := fun u k => k.same
  clear_value reject
  refine (hr _ ht).ite ?_
  split
  · rename_i e
    exact (ht.readElems.snd e).endColl
  · rename_i e
    have hu := ht.readElems.snd e
    extract_lets ids
    refine (hr _ hu).ite ?_
    split
    · rename_i e
      exact (hu.engineWrite.snd e).recordFault
    · rename_i e
      have hv := hu.engineWrite.snd e
      extract_lets w x
      have hw : MemWf w := hv.modColl
      have hx : MemWf x := hw.foldl (fun _ _ k => k.giveChunk) _
      exact hx.foldl (fun _ _ k => k.tryChunk) _

theorem MemWf.startNext {b : Beam} {c : CtxN} : MemWf (s.startNext b c) := by
  unfold State.startNext
  split
  · exact h.ite h.startColl
  · exact h

theorem MemWf.execColl {b c} : NextWf (execColl b c s) := by
  refine .of (h.begin fun w t k => ?_)
  split
  · rename_i e
    exact (k.engineRead.snd e).rejectCmd
  · rename_i e
    have hu := k.engineRead.snd e
    split
    rename_i e
    have hv := MemWf.snd (r := State.fresh _) hu.same e
    extract_lets x
    exact MemWf.startNext (MemWf.addCmd (MemWf.same hv))

end

end Sys2Proof.Machine

namespace Sys2Proof.Machine

section
variable {s : State} (h : MemWf s)
include h

theorem MemWf.countLate {b : Beam} : MemWf (s.countLate b) := h.same

theorem MemWf.execContributionArrival {b a} : NextWf (execContributionArrival b a s) := by
  unfold Machine.execContributionArrival
  extract_lets c
  refine .of ?_
  split
  · exact h.countLate.ite h
  · split
    · exact h
    · exact h.ite (h.countLate.ite (h.ite h.modColl.tryChunk))

theorem MemWf.execCollTimeout {b k n} : NextWf (execCollTimeout b k n s) := by
  unfold Machine.execCollTimeout
  extract_lets c
  refine .of ?_
  split
  · exact h
  · exact h.endChunk.ite h

theorem MemWf.startEach {b : Beam} : MemWf (s.startEach b) := h.foldl (fun _ _ k => k.startNext) _

theorem MemWf.execCollComplete {b k} : NextWf (execCollComplete b k s) := by
  unfold Machine.execCollComplete
  extract_lets c
  refine .of ?_
  split
  · exact h.startEach
  · extract_lets x n t
    have ht : MemWf t := by
      unfold t
      split
      · rename_i e
        exact (h.writeElems.snd e).recordFault
      · rename_i e
        have hu := h.writeElems.snd e
        split
        · rename_i e
          exact (hu.writeElems.snd e).recordFault
        · rename_i e
          exact (hu.writeElems.snd e).retireColl
    exact ht.startEach.ite h

/-! ## Tiles -/

theorem MemWf.reject {a : Nat} {x : Bool} : MemWf (s.reject a x) := h.same

theorem MemWf.scratchRead {a n : Nat} : MemWf (s.scratchRead a n).2 := by
  unfold State.scratchRead
  exact h.readHome

theorem MemWf.execItset {x n a} : NextWf (execItset x n a s) := by
  refine h.issueWord fun s h => h.warpWord ?_
  extract_lets w t at_
  refine h.retryWith.ite (h.reject.ite (h.retryWith.ite (h.retryWith.ite (h.scratchKill.ite ?_))))
  split
  rename_i e
  have hu := h.settleLoads.scratchRead.snd e
  exact hu.modTile.ite hu.reject

theorem MemWf.execTdef {x n a b k m} : NextWf (execTdef x n a b k m s) := by
  refine h.issueWord fun s h => h.warpWord ?_
  exact h.retryWith.ite (h.retryWith.ite (h.reject.ite h.modTile))

theorem MemWf.execTfree {x n} : NextWf (execTfree x n s) :=
  h.issueWord fun _ h => h.warpWord (h.ite (h.unless h.modTile))

theorem MemWf.execTstat {x n a} : NextWf (execTstat x n a s) :=
  h.issueWord fun _ h => h.warpWord (h.unless h.vput)

theorem MemWf.startCopy {id : Nat} {n : TileName} {t : Tile} {k : CopyKind} {tr f : Bool}
    {slot : Option (BitVec 8)} : MemWf (s.startCopy id n t k tr f slot) := h.same

theorem MemWf.copyIn {n : TileName} {t : Tile} {k : CopyKind} {tr : Bool} : MemWf (s.copyIn n t k tr) := by
  unfold State.copyIn
  split
  rename_i e
  have ht := MemWf.snd (r := s.fresh) h.same e
  exact ht.modTile.startCopy.ite ht.modTile.startCopy

theorem MemWf.copyOut {n : TileName} {t : Tile} {tr : Bool} : MemWf (s.copyOut n t tr) := by
  unfold State.copyOut
  split
  rename_i e
  have ht := MemWf.snd (r := s.fresh) h.same e
  exact ht.modTile.startCopy.ite ht.modTile.startCopy

theorem MemWf.copyUnless {f : State → State} (k : MemWf (f s)) : MemWf (s.copyUnless f) := h.unless (h.unless k)

theorem MemWf.copyWord {n : TileName} {tr out : Bool} : MemWf (s.copyWord n tr out) := by
  unfold State.copyWord
  exact h.reject.ite (h.reject.ite (h.copyUnless (h.unless (h.copyOut.ite h.copyIn))))

theorem MemWf.execCpy {x n o} : NextWf (execCpy x n o s) := h.issueWord fun _ h => h.warpWord h.copyWord

theorem MemWf.execCpyt {x n o} : NextWf (execCpyt x n o s) := h.issueWord fun _ h => h.warpWord h.copyWord

theorem MemWf.execCpym {x n a} : NextWf (execCpym x n a s) := by
  refine h.issueWord fun s h => h.warpWord ?_
  extract_lets w t mask own
  refine h.reject.ite (h.reject.ite (h.copyUnless (h.unless ?_)))
  extract_lets u
  have hu : MemWf u := h.modTile
  refine hu.copyIn.ite ?_
  split
  rename_i e
  exact (MemWf.snd (r := u.fresh) hu.same e).startCopy

/-! ## Copies -/

theorem MemWf.modCopy {id : Nat} {f : Copy → Copy} : MemWf (s.modCopy id f) := h.same

theorem MemWf.copyHit {c : Copy} {w : Warp} {va : Nat} : MemWf (s.copyHit c w va) := by
  unfold State.copyHit
  split
  · rename_i e
    exact (h.hitOnce.snd e).modCopy
  · rename_i e
    exact h.hitOnce.snd e

theorem MemWf.unitXlat {c : Copy} {w : Warp} {n : Nat} : MemWf (s.unitXlat c w n).2 := by
  unfold State.unitXlat
  extract_lets p acc k
  split
  · exact h
  · split
    · split <;> exact h
    · split
      · rename_i e
        exact (h.resolveVa.snd e).copyHit
      · rename_i e
        exact (h.resolveVa.snd e).copyHit
      · rename_i e
        exact h.resolveVa.snd e

theorem MemWf.copyFault {c : Copy} {n : Nat} {cause : BitVec 8} {st : BitVec 4} {l : Bool} :
    MemWf (s.copyFault c n cause st l) := h.same

theorem MemWf.unitBad {c : Copy} {n : Nat} {cause : BitVec 8} {st : BitVec 4} {l : Bool} :
    MemWf (s.unitBad c n cause st l) := by
  unfold State.unitBad
  extract_lets t rest u
  have ht : MemWf t := h.copyFault
  have hu : MemWf u := ht.foldl (fun _ _ k => k.ite k.modTile) _
  exact ht.ite hu.modCopy

theorem MemWf.markReceivers {c : Copy} : MemWf (s.markReceivers c) := by
  unfold State.markReceivers
  split
  · exact h.foldl (fun _ _ k => k.modTile) _
  all_goals exact h

theorem MemWf.zeroHole {id gid : Nat} {t : Tile} {slot : Option (BitVec 8)} {cols : Bool} {bit : Nat} :
    MemWf (s.zeroHole id gid t slot cols bit) := by
  unfold State.zeroHole
  extract_lets zero w lo n
  have hz : ∀ u o n, MemWf u → MemWf (zero u o n) := fun u o n k => k.fillScratch
  clear_value zero
  split
  · exact hz _ _ _ h
  · exact (h.foldl (fun _ _ k => hz _ _ _ k) _).ite (hz _ _ _ h)

theorem MemWf.unitHole {c : Copy} {n : Nat} : MemWf (s.unitHole c n) := by
  unfold State.unitHole
  refine MemWf.modCopy (h.foldl (fun t g k => ?_) _)
  dsimp only
  split
  · exact k
  · exact k.zeroHole.modTile

theorem MemWf.unitMove {c : Copy} {w : Warp} {n : Nat} {loc : Loc} : MemWf (s.unitMove c w n loc) := by
  unfold State.unitMove
  split
  · exact h.scratchKill.ite (h.unitOut.modCopy.ite h.unitOut)
  · split
    · rename_i e
      exact (h.unitFar.snd e).unitBad
    · rename_i e
      exact (h.unitFar.snd e).unitIn

theorem MemWf.holdNext {id : Nat} : MemWf (s.holdNext id) := by
  unfold State.holdNext
  split
  · exact h
  · split
    · refine h.ite ?_
      split
      rename_i e
      exact (h.unitXlat.snd e).modCopy
    · exact h

theorem MemWf.unitLines {c : Copy} {n : Nat} {loc : Loc} : MemWf (s.unitLines c n loc) := by
  unfold State.unitLines
  split
  · exact h.ite (MemWf.modCopy (h.foldl (fun _ _ k => k.lineRequest) _))
  all_goals exact h

theorem MemWf.clearHole {id n : Nat} : MemWf (s.clearHole id n) := by
  unfold State.clearHole
  split
  · exact h
  · exact h.modTile.ite h

theorem MemWf.copyUnit {c : Copy} {w : Warp} {n : Nat} : MemWf (s.copyUnit c w n) := by
  unfold State.copyUnit
  extract_lets t
  have ht : MemWf t := h.markReceivers.ite h
  split
  rename_i x u e
  have hu : MemWf u := by
    refine MemWf.snd ?_ e
    split
    · exact ht.unitXlat
    · exact ht
  extract_lets v y
  have hv : MemWf v := by
    unfold v
    split
    · exact hu.unitLines.unitMove
    · exact hu.unitHole
    · exact hu.unitBad
    all_goals exact hu
  exact hv.clearHole.modCopy.holdNext

theorem MemWf.endCopy {c : Copy} : MemWf (s.endCopy c) := by
  unfold State.endCopy
  extract_lets got u v t
  have hu : MemWf u := h.foldl (fun _ _ k => k.modTile) _
  have hv : MemWf v := hu.modTile.ite (hu.modTile.ite hu)
  have ht : MemWf t := by
    unfold t
    split
    · exact h.modTile
    · exact h.modTile
    · exact hv.modTile
  exact MemWf.finish (MemWf.same ht)

theorem MemWf.execCopyStart {cl} : NextWf (execCopyStart cl s) := by
  refine .of (h.ite ?_)
  split
  · exact h.modCopy.holdNext
  · exact h

theorem MemWf.execCopyUnitWrite {cl} : NextWf (execCopyUnitWrite cl s) := by
  refine .of ?_
  split
  · exact h
  · split
    · exact h.ite h.copyUnit
    · exact h

theorem MemWf.execCopyComplete {cl} : NextWf (execCopyComplete cl s) := by
  refine .of ?_
  split
  · exact h
  · exact h.endCopy.ite h

theorem MemWf.copyAnswered {c : Copy} : MemWf (s.copyAnswered c) := by
  unfold State.copyAnswered
  split
  · exact h
  · extract_lets t
    have ht : MemWf t := h.modCopy
    split
    · rename_i e
      exact ht.accepted.snd e
    · rename_i e
      exact (ht.accepted.snd e).unitBad

theorem MemWf.copyTimedOut {c : Copy} : MemWf (s.copyTimedOut c) := by
  unfold State.copyTimedOut
  split
  · exact h
  · exact h.modCopy.unitBad

/-! ## Conversions -/

theorem MemWf.putImage {d a b : Nat} : MemWf (s.putImage d a b) := h.same

theorem MemWf.packMx {x : Ext} {f : FFmt} {n : Nat} {d a : VOp} : MemWf (s.packMx x f n d a) := by
  unfold State.packMx
  exact h.ite (h.putImage.ite h.putImage).regFault

theorem MemWf.packPlain {x : Ext} {t u : NTy} {d a : VOp} {rz : Bool} : MemWf (s.packPlain x t u d a rz) := by
  unfold State.packPlain
  exact h.vput.regFault

theorem MemWf.execVpack {x t u d a rz} : NextWf (execVpack x t u d a rz s) := by
  refine h.issueWord fun s h => ?_
  split
  case h_1 | h_2 | h_3 | h_4 | h_5 => exact h.packMx
  all_goals exact h.packPlain

theorem MemWf.unpackMx {x : Ext} {m n : Nat} {f : Nat → Nat → Nat} {d a : VOp} : MemWf (s.unpackMx x m n f d a) := by
  unfold State.unpackMx
  exact MemWf.regFault (h.foldl (fun _ _ k => k.vput) _)

theorem MemWf.unpackPlain {x : Ext} {t u : NTy} {d a : VOp} : MemWf (s.unpackPlain x t u d a) := by
  unfold State.unpackPlain
  exact MemWf.regFault (h.foldl (fun _ _ k => k.vput) _)

theorem MemWf.execVunpack {x t u d a} : NextWf (execVunpack x t u d a s) := by
  refine h.issueWord fun s h => ?_
  split
  case h_1 | h_2 | h_3 | h_4 | h_5 | h_6 => exact h.unpackMx
  all_goals exact h.unpackPlain

theorem MemWf.execKmov {x d a} : NextWf (execKmov x d a s) := h.issueWord fun _ h => h.warpWord h.kput.regFault

theorem MemWf.execKset {x d a} : NextWf (execKset x d a s) := h.issueWord fun _ h => h.warpWord h.kput

theorem MemWf.execKget {x d a} : NextWf (execKget x d a s) :=
  h.issueWord fun s h => h.warpWord (MemWf.regFault (s := s.modW _) h.same)

theorem MemWf.execKamax {x t d a} : NextWf (execKamax x t d a s) := h.issueWord fun _ h => h.warpWord h.kput.regFault

end

end Sys2Proof.Machine

namespace Sys2Proof.Machine

section
variable {s : State} (h : MemWf s)
include h

/-! ## Words of the looms -/

theorem MemWf.modLoom {cl : Nat} {f : Loom → Loom} : MemWf (s.modLoom cl f) := h.same

theorem MemWf.loomUnless {n : Nat} {f : State → State} (k : MemWf (f s)) : MemWf (s.loomUnless n f) :=
  h.retryWith.ite (h.retryWith.ite (h.retryWith.ite k))

theorem MemWf.placeReqs {op : Nat} {rs : List LoomReq} : MemWf (s.placeReqs op rs) := by
  unfold State.placeReqs
  extract_lets t cl
  have ht : MemWf t := h.same
  exact ht.foldl (fun _ _ k => k.same) _

theorem MemWf.placeReq {r : LoomReq} : MemWf (s.placeReq r) := by
  unfold State.placeReq
  split
  rename_i e
  exact (MemWf.snd (r := s.fresh) h.same e).placeReqs

theorem MemWf.tileOperand {a : TileName} {fmt : BitVec 4} {rows n : Nat}
    {f : Tile → Option (BitVec 8) → State → State} (k : ∀ t o u, MemWf u → MemWf (f t o u)) :
    MemWf (s.tileOperand a fmt rows n f) := by
  unfold State.tileOperand
  exact h.reject.ite (h.reject.ite (h.loomUnless (h.unless (k _ _ _ h.modTile))))

theorem MemWf.execLdw {x a f} : NextWf (execLdw x a f s) :=
  h.issueWord fun _ h => h.warpWord (h.tileOperand fun _ _ _ k => k.placeReq)

/-- A word that places one request. -/
theorem MemWf.reqWord {x : Ext} {i : Instr} {r : State → LoomReq} :
    NextWf (Machine.issueWord i s fun s => s.warpWord x fun s => s.loomUnless 1 fun s => s.placeReq (r s)) :=
  h.issueWord fun _ h => h.warpWord (h.loomUnless h.placeReq)

theorem MemWf.placeStream {x : Ext} {r : LoomReq} : MemWf (s.placeStream x r) := by
  unfold State.placeStream
  split
  rename_i e
  exact (MemWf.snd (r := s.fresh) h.same e).placeReqs

theorem MemWf.streamRegs {x : Ext} {i : Instr} {a : VOp} {b : SReg} : MemWf (s.streamRegs x i a b) :=
  h.loomUnless h.placeStream

theorem MemWf.streamTile {x : Ext} {i : Instr} {a : TileName} {b : SReg} {f : AFmt} :
    MemWf (s.streamTile x i a b f) := h.tileOperand fun _ _ _ k => k.placeStream

theorem MemWf.execMmq {x n a b f} : NextWf (execMmq x n a b f s) := h.issueWord fun _ h => h.warpWord h.streamRegs

theorem MemWf.execMmqTile {x n a b f} : NextWf (execMmqTile x n a b f s) :=
  h.issueWord fun _ h => h.warpWord h.streamTile

theorem MemWf.execMmqt {x n a b f} : NextWf (execMmqt x n a b f s) := h.issueWord fun _ h => h.warpWord h.streamRegs

theorem MemWf.execMmqtTile {x n a b f} : NextWf (execMmqtTile x n a b f s) :=
  h.issueWord fun _ h => h.warpWord h.streamTile

theorem MemWf.execMdrnt {x n a b} : NextWf (execMdrnt x n a b s) := by
  refine h.issueWord fun s h => h.warpWord ?_
  extract_lets t need
  refine h.reject.ite (h.reject.ite (h.loomUnless (h.unless ?_)))
  split
  rename_i e
  have hu := MemWf.snd (r := s.fresh) h.same e
  exact hu.modTile.placeReqs.ite hu.modTile.placeReqs

theorem MemWf.takeDraws {n : Nat} : MemWf (s.takeDraws n) := h.same

theorem MemWf.execRqs {x n a f e} : NextWf (execRqs x n a f e s) :=
  h.issueWord fun _ h => h.warpWord (h.loomUnless h.takeDraws.placeReq)

theorem MemWf.execRqsVector {x a b f e} : NextWf (execRqsVector x a b f e s) :=
  h.issueWord fun _ h => h.warpWord (h.loomUnless h.takeDraws.placeReq)

/-! ## Requests of the looms -/

theorem MemWf.modAcc {gid n : Nat} {f : AccTile → AccTile} : MemWf (s.modAcc gid n f) := h.modGroup

theorem MemWf.putAcc {gid n : Nat} {t : AccTile} : MemWf (s.putAcc gid n t) := h.modAcc.heal

theorem MemWf.readAcc {wid gid n seq : Nat} : MemWf (s.readAcc wid gid n seq).2 := h.foldl (fun _ _ k => k.same) _

theorem MemWf.putVec {wid i : Nat} {v : Vector Word32 32} : MemWf (s.putVec wid i v) := h.same

theorem MemWf.putScale {wid i : Nat} {v : Word64} : MemWf (s.putScale wid i v) := h.same

/-- Faults of the warp of a request. -/
theorem MemWf.warpFaults {wid : Nat} {l : List RegPoison} {f : RegPoison → FaultRec} :
    MemWf (l.foldl (fun s q => s.modWarp wid fun w => w.addFault (f q)) s) := h.foldl (fun _ _ k => k.same) _

theorem MemWf.runStream {cl : Nat} {r : LoomReq} {m : Stream} : MemWf (s.runStream cl r m) := by
  unfold State.runStream
  split
  · exact h
  · extract_lets p bad t
    have ht : MemWf t := h.warpFaults
    split
    · exact h.scratchKill
    · exact ht.foldl (fun _ _ k => k.modAcc) _

theorem MemWf.setOut {cl id : Nat} {f : LoomReq → LoomReq} : MemWf (s.setOut cl id f) := h.same

theorem MemWf.streamPass {cl : Nat} : MemWf (s.streamPass cl) := by
  refine h.foldl (fun t r k => ?_) _
  split
  · exact k.setOut.runStream.ite k
  · exact k

theorem MemWf.fuse {cl : Nat} {r : LoomReq} {m : Stream} {n : Nat} : MemWf (s.fuse cl r m n) := by
  induction n generalizing s with
  | zero => exact h
  | succ n ih =>
    unfold State.fuse
    extract_lets l
    split
    · exact h
    · exact ih h.modLoom.count

theorem MemWf.grantStream {cl : Nat} {r : LoomReq} {m : Stream} : MemWf (s.grantStream cl r m) := by
  unfold State.grantStream
  extract_lets l t only u
  have ht : MemWf t := h.modLoom
  have ho : ∀ f, MemWf (only f) := fun f => ht.setOut.foldl (fun _ _ k => k.modAcc) _
  clear_value only
  have hu : MemWf u := ht.count
  exact (ho _).ite ((ho _).ite (hu.fuse.ite hu))

theorem MemWf.runLdw {cl : Nat} {r : LoomReq} {a : TileName} {f : BFmt} : MemWf (s.runLdw cl r a f) := by
  unfold State.runLdw
  exact h.scratchKill.ite h.modLoom

theorem MemWf.grantDrain {cl : Nat} {r : LoomReq} {n : AccReg} : MemWf (s.grantDrain cl r n) := by
  unfold State.grantDrain
  exact h.readAcc.putAcc.setOut

theorem MemWf.setImages {cl : Nat} {r : LoomReq} {f : MxF} {l : List (List (List Nat))} :
    MemWf (s.setImages cl r f l) := h.same

theorem MemWf.grantRq {cl : Nat} {r : LoomReq} {n : AccReg} {f : MxF} : MemWf (s.grantRq cl r n f) := by
  unfold State.grantRq
  exact h.readAcc.putAcc.setImages

theorem MemWf.runRqVector {cl : Nat} {r : LoomReq} {f : MxF} : MemWf (s.runRqVector cl r f) := by
  unfold State.runRqVector
  split
  · exact h
  · extract_lets nb bad t row
    have ht : MemWf t := h.warpFaults
    exact ht.setImages.ite ht.setOut

theorem MemWf.imageChecks {w : Warp} {acc : Access} {a : Word64} : MemWf (s.imageChecks w acc a).2 := by
  unfold State.imageChecks
  generalize List.range 1056 = l
  extract_lets r
  have hr : MemWf r.2 := by
    refine MemWf.foldlSnd (r := ([], s)) h (fun r i k => ?_) l
    exact k.resolveVa
  clear_value r
  exact hr.same

theorem MemWf.imageLines {cl : Nat} {es : List Elem} : MemWf (s.imageLines cl es) :=
  h.foldl (fun _ _ k => k.lineRequest) _

theorem MemWf.loomFault {r : LoomReq} {o : Nat} {c : BitVec 8} {a : Word64} {st : BitVec 4} {l : Bool} :
    MemWf (s.loomFault r o c a st l) := h.same

theorem MemWf.grantMsav {cl : Nat} {r : LoomReq} {n : AccReg} : SomeWf (s.grantMsav cl r n) := by
  unfold State.grantMsav
  split
  · exact h.someWf
  · extract_lets a
    refine h.loomFault.someWf.ite ?_
    split
    rename_i e
    have ht := h.readAcc.snd e
    extract_lets bytes
    split
    rename_i e
    have hu := ht.imageChecks.snd e
    extract_lets es v x
    have hv : MemWf v := hu.foldl (fun t c k => by
      split
      · exact k.loomFault
      all_goals exact k) _
    clear_value v
    split
    · split
      rename_i e
      have hf := MemWf.snd (r := v.fresh) hv.same e
      extract_lets hs
      exact SomeWf.map (fun _ e => hf.hold e) fun _ k => k.same
    · have hx : MemWf x := hv.imageLines.setOut
      refine MemWf.someWf (hx.foldl (fun t e k => ?_) _)
      split
      · exact k.sendStore.ite k.putMem
      all_goals exact k

theorem MemWf.imageElem {w : Warp} {m : List Host.Cell} {e : Elem} : MemWf (s.imageElem w m e).2 := by
  unfold State.imageElem
  split
  · exact h
  · split
    · split
      all_goals
        rename_i e
        exact h.askRemote.snd e
    · exact h
  · exact h

theorem MemWf.readImage {w : Warp} {r : LoomReq} {n : AccReg} {es : List Elem} : MemWf (s.readImage w r n es) := by
  unfold State.readImage
  extract_lets m x
  have hx : MemWf x.2 := by
    refine MemWf.foldlSnd (r := (some [], s)) h (fun x e k => ?_) _
    split
    · exact k
    · split
      · rename_i e
        exact MemWf.snd (MemWf.imageElem k) e
      · rename_i e
        exact (MemWf.snd (MemWf.imageElem k) e).loomFault
  clear_value x
  split
  · exact MemWf.putAcc hx
  · exact hx

theorem MemWf.grantMrst {cl : Nat} {r : LoomReq} {n : AccReg} : MemWf (s.grantMrst cl r n) := by
  unfold State.grantMrst
  split
  · exact h
  · extract_lets a
    refine h.loomFault.ite ?_
    split
    rename_i e
    have ht := h.imageChecks.snd e
    split
    · exact ht.loomFault
    · extract_lets es u
      have hu : MemWf u := ht.imageLines
      exact hu.setOut.ite hu.readImage

theorem MemWf.grantOther {cl : Nat} {r : LoomReq} : SomeWf (s.grantOther cl r) := by
  unfold State.grantOther
  split
  · exact h.modLoom.setOut.someWf
  · exact h.setOut.someWf
  · exact h.putAcc.someWf
  · exact h.grantDrain.someWf
  · exact h.grantDrain.someWf
  · exact h.grantMsav
  · exact h.grantMrst.someWf
  · exact h.grantRq.someWf
  · exact h.grantRq.someWf
  · exact h.someWf

theorem MemWf.reqAnswered {cl : Nat} {r : LoomReq} : MemWf (s.reqAnswered cl r) := by
  refine h.ite ?_
  extract_lets t
  have ht : MemWf t := h.setOut
  split
  · exact ht.elim (fun _ => ht.readImage) _
  · refine ht.foldl (fun u e k => ?_) _
    split
    · rename_i e
      exact k.accepted.snd e
    · rename_i e
      exact (k.accepted.snd e).loomFault

theorem MemWf.reqTimedOut {cl : Nat} {r : LoomReq} : MemWf (s.reqTimedOut cl r) :=
  h.elim (fun _ => h.setOut.loomFault) _

theorem MemWf.endReq {cl : Nat} {r : LoomReq} : MemWf (s.endReq cl r) := by
  unfold State.endReq
  extract_lets t
  have ht : MemWf t := h.modLoom
  exact ht.ite ht.finish

theorem MemWf.unread {r : LoomReq} {a : TileName} : MemWf (s.unread r a) := h.modTile

theorem MemWf.writeRegs {r : LoomReq} : MemWf (s.writeRegs r) := by
  unfold State.writeRegs
  split
  · exact h
  · exact (h.foldl (fun _ _ k => k.putVec) _).foldl (fun _ _ k => k.putScale) _

theorem MemWf.writeTile {r : LoomReq} {a : TileName} : MemWf (s.writeTile r a) := by
  unfold State.writeTile
  split
  · exact h
  · extract_lets t
    have ht : MemWf t := h.foldl (fun _ _ k => k.fillScratch) _
    exact ht.modTile

theorem MemWf.finishReq {r : LoomReq} : MemWf (s.finishReq r) := by
  unfold State.finishReq
  split
  · exact h.unread
  · exact h.same
  · exact h.same
  · exact h.writeTile
  case h_10 => exact h
  all_goals exact h.writeRegs

theorem MemWf.grantReq {cl : Nat} {r : LoomReq} : MemWf (s.grantReq cl r) := by
  unfold State.grantReq
  split
  · exact h.grantStream
  · exact h.getD _ h.modLoom.grantOther

theorem MemWf.execLoomGrant {cl k} : NextWf (execLoomGrant cl k s) := by
  refine .of ?_
  split
  · exact h
  · extract_lets t
    have ht : MemWf t := h.streamPass.ite h
    exact ht.grantReq.ite ht

theorem MemWf.execLoomRequestAging {cl rid} : NextWf (execLoomRequestAging cl rid s) := .of (h.setOut.ite h)

theorem MemWf.execLoomPassFinish {cl rid} : NextWf (execLoomPassFinish cl rid s) := by
  unfold Machine.execLoomPassFinish
  extract_lets t
  have ht : MemWf t := h.streamPass.ite h
  refine .of (ht.foldl (fun u r k => ?_) _)
  split
  · exact (k.elim (fun _ => k.unread) _).endReq
  · exact k

theorem MemWf.readOperand {cl : Nat} {r : LoomReq} : MemWf (s.readOperand cl r) := by
  unfold State.readOperand
  split
  · exact h.runLdw
  · exact h.runRqVector
  · exact h.runRqVector
  · exact h

theorem MemWf.execLoomRequestFinish {cl rid} : NextWf (execLoomRequestFinish cl rid s) := by
  refine .of ?_
  split
  · exact h
  · refine MemWf.ite ?_ h
    extract_lets t
    have ht : MemWf t := h.readOperand
    split
    · exact ht.finishReq.endReq
    · exact ht

end

end Sys2Proof.Machine

namespace Sys2Proof.Machine

/-! ## Images of groups -/

theorem putPieces_wf (ps : List (Nat × List Byte)) (base : Nat) {m : List Host.Cell} (h : Memory.wf m = true) :
    Memory.wf (putPieces m base ps) = true := by
  induction ps generalizing m with
  | nil => exact h
  | cons p ps ih => exact ih (cellPut_wf h _ _)

theorem State.imageFrames_wf (s : State) (g : Group) (idem : Bool) (base : Nat) {m : List Host.Cell}
    (h : Memory.wf m = true) : Memory.wf (s.imageFrames g idem base m) = true := by
  unfold State.imageFrames
  generalize List.range 32 = l
  induction l generalizing m with
  | nil => exact h
  | cons i l ih =>
    refine ih ?_
    dsimp only
    split
    · exact s.putFrame_wf h _ _ _ _
    · exact cellPutWord_wf (cellClear_wf h _ _) _ _ _

/-- R261, R265: an image is written into memory. -/
theorem State.groupImage_wf (s : State) (h : Memory.wf s.mem = true) (b : Bolt) (l : Launch) (g : Group) (slot : Nat) :
    Memory.wf (s.groupImage b l g slot) = true := by
  unfold State.groupImage
  extract_lets base own loom m1 m2 held m3 m4 m5 m6 m7
  have h1 : Memory.wf m1 = true := putWords_wf _ _ (cellClear_wf h _ _)
  clear_value m1
  have h2 : Memory.wf m2 = true := putPieces_wf _ _ h1
  clear_value m2
  have h3 : Memory.wf m3 = true := putPieces_wf _ _ h2
  clear_value m3
  have h4 : Memory.wf m4 = true := putPieces_wf _ _ h3
  clear_value m4
  have h5 : Memory.wf m5 = true := by
    unfold m5
    split
    · exact putPieces_wf _ _ h4
    · exact h4
  clear_value m5
  have h6 : Memory.wf m6 = true := by
    unfold m6
    split
    · exact putPieces_wf _ _ h5
    · exact h5
  clear_value m6
  exact s.imageFrames_wf g _ base (cellSetAll_wf _ _ _ _ h6)

/-- The addresses of a memory shift together. -/
theorem Memory.shift_wf {m : List Host.Cell} (h : Memory.wf m = true) {src : Nat} (k : ∀ c ∈ m, src ≤ c.1)
    (dst : Nat) : Memory.wf (m.map fun c => (c.1 - src + dst, c.2)) = true := by
  induction m with
  | nil => rfl
  | cons c cs ih =>
    obtain ⟨hc, ha, ht⟩ := (Memory.wf_cons c cs).1 h
    have hall := Memory.all_above ht ha
    refine (Memory.wf_cons _ _).2 ⟨hc, Memory.above_of_all fun d hd => ?_,
      ih ht fun d hd => k d (List.mem_cons_of_mem _ hd)⟩
    obtain ⟨e, he, rfl⟩ := List.mem_map.1 hd
    have h1 := hall e he
    have h2 := k c (by simp)
    simp only
    omega

theorem cellSlice_wf {m : List Host.Cell} (h : Memory.wf m = true) (src n dst : Nat) :
    Memory.wf (cellSlice m src n dst) = true := by
  refine Memory.shift_wf (Memory.filter_wf h _) (fun c hc => ?_) dst
  have := (List.mem_filter.1 hc).2
  simp only [Bool.and_eq_true, decide_eq_true_eq] at this
  exact this.1

section
variable {s : State} (h : MemWf s)
include h

/-! ## Pre-emption -/

theorem MemWf.cutLoad {o : Op} : MemWf (s.cutLoad o) := by
  unfold State.cutLoad
  extract_lets t
  have ht : MemWf t := by
    refine h.foldl (fun t e k => ?_) _
    split
    rename_i hd
    have hu := MemWf.snd (r := t.draw) k.same hd
    exact hu.ite ((hu.returnElem.ite hu.performAtomic.deliver).ite (hu.ite hu.deliver))
  exact MemWf.finish (MemWf.same ht)

theorem MemWf.beginSave {b : Bolt} {x : Bool} : MemWf (s.beginSave b x) := by
  unfold State.beginSave
  extract_lets t
  have ht : MemWf t := h.modBolt
  exact (MemWf.startAll (ht.foldl (fun _ _ k => k.cutLoad) _)).ite ht

theorem MemWf.stopCopies {bid : Nat} : MemWf (s.stopCopies bid) := h.foldl (fun _ _ k => k.modTile.modCopy) _

theorem MemWf.suspend {g : Group} {r : Nat} : MemWf (s.suspend g r) := by
  unfold State.suspend
  extract_lets t u v
  have ht : MemWf t := h.foldl (fun _ _ k => k.recordEnd) _
  have hu : MemWf u := ht.foldl (fun _ _ k => k.same) _
  have hv : MemWf v := hu.l1WriteBack.foldl (fun _ _ k => k.l1Exit) _
  exact hv.modLoom

theorem MemWf.writeSave {b : Bolt} {l : Launch} {x : Bool} : MemWf (s.writeSave b l x) := by
  unfold State.writeSave
  extract_lets gs slots m t u v
  have hm : MemWf m := h.foldl (fun t x k => k.setMem (t.groupImage_wf k.mem _ _ _ _)) _
  have ht : MemWf t := hm.foldl (fun _ _ k => k.suspend) _
  have hu : MemWf u := ht.same
  have hv : MemWf v := hu.modBolt
  exact hv.leavePly.unpend

theorem MemWf.execBoltSave {k} : NextWf (execBoltSave k s) := by
  refine .of ?_
  split
  · exact h
  · extract_lets t
    have ht : MemWf t := h.stopCopies
    split
    · exact h.beginSave.ite h
    · split
      · exact ht.writeSave.ite ht
      · exact ht
    all_goals exact h

theorem MemWf.execSavedMwaddrRead {wid} : NextWf (execSavedMwaddrRead wid s) := by
  refine .of ?_
  split
  · exact h
  · split
    · exact h
    · refine MemWf.ite ?_ h
      extract_lets v
      split
      rename_i e
      exact (h.watchChanged.snd e).same

theorem MemWf.resume {w : Warp} {base core : Nat} {slot : BitVec 5} : MemWf (s.resume w base core slot) := by
  unfold State.resume
  extract_lets frame m f30 nxt restart part epart t scratch u
  have hu : MemWf u := h.same
  exact hu.elim (fun _ => hu.recordStart) _

theorem MemWf.restorePlanes {gid base cl : Nat} : MemWf (s.restorePlanes gid base cl) := by
  unfold State.restorePlanes
  exact h.ite h.modLoom

/-- R265: a restored group reads its scratch from its image. -/
theorem MemWf.restoreGroup {l : Launch} {g : Group} {slot core : Nat} {slots : List (BitVec 5)} :
    MemWf (s.restoreGroup l g slot core slots) := by
  unfold State.restoreGroup
  extract_lets base g' bad t sound here u v w
  have hg : Memory.wf g'.scratch = true := cellSlice_wf h.mem _ _ _
  clear_value g'
  have ht : MemWf t := h.modGroup fun _ _ => hg
  have hu : MemWf u := MemWf.openCore (s := t.acquire core) ht.same
  have hv : MemWf v := hu.same
  have hw : MemWf w := MemWf.same hv.restorePlanes
  exact hw.foldl (fun _ _ k => k.resume) _

theorem MemWf.restoreBolt {b : Bolt} {l : Launch} {slots : List (Nat × Nat)} {xs : List (Nat × List (BitVec 5))} :
    MemWf (s.restoreBolt b l slots xs) := by
  unfold State.restoreBolt
  extract_lets first t bars u v w
  have ht : MemWf t := h.foldl (fun _ _ k => k.restoreGroup) _
  have hu : MemWf u := ht.modBolt
  have hv : MemWf v := hu.same
  have hw : MemWf w := hv.joinPly.ite hv
  exact hw.settleBeams.ite hw

theorem MemWf.askRun {d : Die} : MemWf (s.askRun d) := by
  unfold State.askRun
  split
  case h_1 | h_2 => exact h.ite h.modPly
  all_goals exact h

theorem MemWf.startRequest {p : PartN} {w : RegWrite} {l : List Nat} : MemWf (s.startRequest p w l) := h.same

theorem MemWf.request {w : RegWrite} {f : PartN → List Bolt → State → State}
    (k : ∀ p bs t, MemWf t → MemWf (f p bs t)) : MemWf (w.request s f) := by
  unfold RegWrite.request
  split
  · exact h.ite (k _ _ _ h.startRequest)
  · exact h

theorem MemWf.nameSave {p : PartN} {b : Bolt} : MemWf (s.nameSave p b) := by
  unfold State.nameSave
  split
  · exact h.modBolt.unpend
  all_goals exact h.modBolt

theorem MemWf.execPreemptSave {x} : NextWf (execPreemptSave x s) :=
  .of (h.onWrite fun _ => h.request fun _ _ _ k => k.foldl (fun _ _ k => k.nameSave) _)

theorem MemWf.killBolt {p : PartN} {b : Bolt} : MemWf (s.killBolt p b) := by
  unfold State.killBolt
  extract_lets t
  have ht : MemWf t := h.same
  exact ht.foldl (fun _ _ k => k.kill) _

theorem MemWf.execPreemptKill {x} : NextWf (execPreemptKill x s) :=
  .of (h.onWrite fun _ => h.request fun _ _ _ k => k.foldl (fun _ _ k => k.killBolt) _)

theorem MemWf.execPreemptRelease {x} : NextWf (execPreemptRelease x s) := by
  refine .of (h.onWrite fun _ => h.request fun p bs t k => k.foldl (fun t b k => ?_) _)
  refine MemWf.unpend (k.modBolt fun b w => ?_)
  split <;> exact w

theorem MemWf.execBoltRestore {k} : NextWf (execBoltRestore k s) := by
  refine .of ?_
  split
  · exact h
  · refine h.ite (h.askRun.ite ?_)
    split
    · refine h.ite ?_
      split
      rename_i e
      have ht := MemWf.snd (r := s.draw) h.same e
      exact ht.elim (fun _ => ht.restoreBolt) _
    · exact h

/-! ## Placement of bolts -/

theorem MemWf.placeGroups {l : Launch} {b : Bolt} {xs : List (Nat × List (BitVec 5))} {nums : List Nat} :
    MemWf (s.placeGroups l b xs nums) := by
  refine h.foldl (fun t x k => ?_) _
  split
  rename_i e
  exact (MemWf.snd (r := t.fresh) k.same e).placeGroup

theorem MemWf.modLaunch {lid : Nat} {f : Launch → Launch} : MemWf (s.modLaunch lid f) := h.same

theorem MemWf.placeBolt {l : Launch} {d : Die} {xs : List (Nat × List (BitVec 5))} {nums : List Nat} :
    MemWf (s.placeBolt l d xs nums) := by
  unfold State.placeBolt
  extract_lets first
  split
  rename_i t e
  have ht := MemWf.snd (r := s.fresh) h.same e
  extract_lets b u v
  have hb : MemWf { t with bolts := t.bolts ++ [b] } := ht.setBolts fun c hc =>
    (List.mem_append.1 hc).elim (ht.bolts c) fun hc => by
      rw [List.mem_singleton.1 hc]
      exact fun _ hg => nomatch hg
  have hu : MemWf u := hb.placeGroups
  have hv : MemWf v := hu.modLaunch
  exact hv.joinPly.ite hv

theorem MemWf.wakeOne {l : Launch} {ds : List Die} : MemWf (s.wakeOne l ds) := by
  unfold State.wakeOne
  exact h.ite (h.elim (fun _ => h.askRun.modLaunch) _)

theorem MemWf.execBoltPlacement {l} : NextWf (execBoltPlacement l s) := by
  refine .of ?_
  split
  · exact h
  · refine (h.wakeOne.ite h).ite ?_
    split
    · split
      · exact h.placeBolt
      · exact h
    · exact h.ite h.wakeOne

theorem MemWf.execStarving {l} : NextWf (execStarving l s) := by
  refine .of ?_
  split
  · exact h
  · extract_lets t
    have ht : MemWf t := h.modLaunch
    exact h.ite (ht.ite (ht.elim (fun _ => ht.modLaunch) _))

theorem MemWf.execPriorityPreemption {l} : NextWf (execPriorityPreemption l s) := by
  refine .of ?_
  split
  · exact h
  · refine MemWf.ite ?_ h
    split
    · exact MemWf.modLaunch (h.foldl (fun _ _ k => k.beginSave) _)
    · exact h

theorem MemWf.answerFetch {g : Group} {f : Fetch} {c : Option Coord} {n : Nat} {r : Bool} :
    MemWf (s.answerFetch g f c n r) := by
  unfold State.answerFetch
  extract_lets t u v
  have hu : MemWf u := h.putHome
  have hv : MemWf v := hu.modTile
  exact hv.modGroup

theorem MemWf.execFetchwAnswer {g} : NextWf (execFetchwAnswer g s) := by
  refine .of ?_
  split
  · exact h
  · split
    · refine h.ite ?_
      split
      · exact h.answerFetch
      · exact h.answerFetch.ite (h.answerFetch.ite h.answerFetch.modLaunch)
    · exact h

theorem MemWf.execBoltRetire {k} : NextWf (execBoltRetire k s) := by
  refine .of ?_
  split
  · exact h
  · extract_lets t u
    have ht : MemWf t := h.settleHeld.sendStores
    have hu : MemWf u := ht.performHeld.modLaunch
    have hv : MemWf { u with bolts := u.bolts.filter fun c => c.bid != k } :=
      hu.setBolts fun b hb => hu.bolts b (List.mem_filter.1 hb).1
    exact (hv.ite ht).ite h

theorem MemWf.relaunch {l : Launch} {b : Bolt} {gs : List Group} {xs : List (Nat × List (BitVec 5))} :
    MemWf (s.relaunch l b gs xs) := by
  unfold State.relaunch
  extract_lets first whole t u
  have ht : MemWf t := h.modBolt
  have hu : MemWf u := ht.foldl (fun _ _ k => (k.filterGroups _).placeGroup) _
  exact hu.joinPly.ite hu

theorem MemWf.execIdemRelaunch {g} : NextWf (execIdemRelaunch g s) := by
  refine .of ?_
  split
  · exact h
  · split
    · refine h.ite ?_
      extract_lets gs
      split
      · exact h.relaunch
      · exact h.askRun.ite h
    · exact h

/-! ## The active set -/

theorem MemWf.activate {wid : Nat} {p : BitVec 3} : MemWf (s.activate wid p) := h.same

theorem MemWf.swapFor {core : Nat} {out w : Warp} {r : Nat} : MemWf (s.swapFor core out w r) := by
  unfold State.swapFor
  extract_lets t u v x
  have hu : MemWf u := h.same
  exact hu.activate.recordSwap.count

theorem MemWf.swapOut {core : Nat} {out : Warp} {r : Nat} : MemWf (s.swapOut core out r) :=
  h.ite (h.elim (fun _ => h.swapFor) _)

theorem MemWf.fillActive {core : Nat} : MemWf (s.fillActive core) :=
  h.foldl (fun _ _ k => k.elim (fun _ => k.activate) _) _

theorem MemWf.execWarpSwap {core} : NextWf (execWarpSwap core s) := by
  refine .of ?_
  split
  · exact h.swapOut
  · exact h

theorem MemWf.execSwapThreshold {wid} : NextWf (execSwapThreshold wid s) := .of h.same

theorem MemWf.execStarveSwap {core} : NextWf (execStarveSwap core s) := by
  refine .of ?_
  split
  · refine h.ite ?_
    split
    rename_i e
    have ht := MemWf.snd (r := s.draw) h.same e
    exact ht.elim (fun _ => ht.swapFor) _
  · exact h

theorem MemWf.execActiveSetFill {core} : NextWf (execActiveSetFill core s) := .of h.fillActive

/-! ## Fetching -/

theorem MemWf.fetchPacket {w : Warp} {pc : Word64} : MemWf (s.fetchPacket w pc).2 := h.only (s.fetchPacket_only w pc)

theorem MemWf.packetOf {w : Warp} : MemWf (s.packetOf w).2 := by
  unfold State.packetOf
  split
  · split
    · exact h
    · exact h.fetchPacket
  · exact h.fetchPacket

theorem MemWf.form : MemWf s.form.2 := by
  unfold State.form
  extract_lets w t
  have ht : MemWf t := h.same
  split
  · rename_i e
    exact ht.packetOf.snd e
  · rename_i e
    have hu := ht.packetOf.snd e
    split
    · exact hu
    · extract_lets g
      split
      · exact hu
      · exact hu.same

theorem MemWf.execInstructionFetch {wid} : NextWf (execInstructionFetch wid s) := by
  refine .of ?_
  split
  · exact h
  · refine h.ite ?_
    split
    · rename_i e
      exact (h.fetchPacket.snd e).same
    · rename_i e
      have ht := h.fetchPacket.snd e
      exact MemWf.ite (MemWf.precise (MemWf.same (ht.focus (wid := wid)))) ht

end

end Sys2Proof.Machine

namespace Sys2Proof.Machine

/-! ## Control flow -/

section
variable {s : State} (h : MemWf s)
include h

theorem MemWf.branch {taken : Bool} {off : Int} : MemWf (s.branch taken off) := MemWf.ite h.same h

theorem MemWf.maskStep {off : Int} {f : Warp → MaskStep} : MemWf (s.maskStep off f) := by
  unfold State.maskStep
  exact MemWf.branch h.same

theorem MemWf.execBr {x f} : NextWf (execBr x f s) := h.issueWord fun _ k => k.branch

theorem MemWf.execBra {x f} : NextWf (execBra x f s) := h.issueWord fun _ k => k.branch

theorem MemWf.execBrv {x f} : NextWf (execBrv x f s) := h.issueWord fun _ k => k.branch

theorem MemWf.execCall {x d f} : NextWf (execCall x d f s) :=
  h.issueWord fun _ k => k.warpWord (MemWf.branch k.same)

theorem MemWf.execRet {x a} : NextWf (execRet x a s) := h.issueWord fun _ k => k.warpWord k.same

theorem MemWf.execJmpi {x a} : NextWf (execJmpi x a s) := h.issueWord fun _ k => k.warpWord k.same

theorem MemWf.execNop {x} : NextWf (execNop x s) := h.issueWord fun _ k => k

theorem MemWf.execYield {x} : NextWf (execYield x s) :=
  h.issueWord fun _ k => k.warpWord (k.swapOut.ite k)

theorem MemWf.exitWarp : MemWf s.exitWarp := by
  unfold State.exitWarp
  exact (MemWf.settleGroup h.same).boltDone

theorem MemWf.execExit {x} : NextWf (execExit x s) := h.issueWord fun _ k => k.warpWord k.exitWarp

theorem MemWf.execRegion {x} : NextWf (execRegion x s) := h.issueWord fun _ k => k.warpWord k.same

theorem MemWf.execTrap {x i} : NextWf (execTrap x i s) := h.issueWord fun _ k => k

theorem MemWf.freeSlot {wid : Nat} : MemWf (s.freeSlot wid) := by
  unfold State.freeSlot
  exact MemWf.same (h.elim (fun _ => h.recordEnd) _).l1Exit

/-- The stub that a group leaves with its bolt has no scratch. -/
theorem MemWf.leaveStub {bid : Nat} {c : Bool} {g : Group} :
    MemWf (s.modBolt bid fun b => if c && b.groups != 1 then { b with gone := b.gone ++ [g.stub false] } else b) :=
  h.modBolt fun b w => by
    split
    · intro x hx
      rcases List.mem_append.1 hx with hx | hx
      · exact w x hx
      · cases List.mem_singleton.1 hx
        rfl
    · exact w

theorem MemWf.freeGroup {gid : Nat} : MemWf (s.freeGroup gid) := by
  unfold State.freeGroup
  split
  · exact h
  · split
    · have ht := h.filterGroups fun g => g.gid != gid
      exact (MemWf.leaveStub (MemWf.same ht)).boltDone.leavePly
    · exact h

theorem MemWf.execWarpSlotFree {wid} : NextWf (execWarpSlotFree wid s) := by
  refine .of ?_
  split
  · exact h.freeSlot.settleGroup.freeGroup.ite h
  · exact h

theorem MemWf.execTrapTaken {wid} : NextWf (execTrapTaken wid s) := .of h.tryTrap

/-! ## Words across lanes -/

theorem MemWf.shuffle {x : Ext} {d a : VOp} {more : List VOp} {src : Warp → Nat → Nat} :
    MemWf (s.shuffle x d a more src) := by
  unfold State.shuffle
  exact h.vput.regFault

theorem MemWf.execVshfl {x d a b} : NextWf (execVshfl x d a b s) := h.issueWord fun _ k => k.shuffle

theorem MemWf.execVshflup {x d a n} : NextWf (execVshflup x d a n s) := h.issueWord fun _ k => k.shuffle

theorem MemWf.execVshfldn {x d a n} : NextWf (execVshfldn x d a n s) := h.issueWord fun _ k => k.shuffle

theorem MemWf.execVshflx {x d a n} : NextWf (execVshflx x d a n s) := h.issueWord fun _ k => k.shuffle

theorem MemWf.execVvote {x t d a} : NextWf (execVvote x t d a s) := h.issueWord fun _ k => k.ite k.same

theorem MemWf.execVred {x t d a o} : NextWf (execVred x t d a o s) := h.issueWord fun _ k => k.crossWord

theorem MemWf.execVscan {x t d a ex o} : NextWf (execVscan x t d a ex o s) := h.issueWord fun _ k => k.crossWord

theorem MemWf.execVrand {x d a} : NextWf (execVrand x d a s) := by
  refine h.issueWord fun s h => h.ite ?_
  exact MemWf.same (s := List.foldl _ s _) (h.foldl (fun _ _ w => w.vput) _)

/-! ## Answers of a peer -/

theorem MemWf.peerEvent {id : Nat} {op : State → Op → State} {copy : State → Copy → State}
    {req : State → Nat → LoomReq → State} (ho : ∀ o, MemWf (op s o)) (hc : ∀ c, MemWf (copy s c))
    (hr : ∀ n r, MemWf (req s n r)) : MemWf (s.peerEvent id op copy req) := by
  unfold State.peerEvent
  split
  · exact ho _
  · exact hc _
  · exact hr _ _
  · exact h

theorem MemWf.execRemoteAcknowledge {op} : NextWf (execRemoteAcknowledge op s) :=
  .of (h.peerEvent (fun _ => h.opAnswered) (fun _ => h.copyAnswered) fun _ _ => h.reqAnswered)

theorem MemWf.execRemoteTimeout {op} : NextWf (execRemoteTimeout op s) :=
  .of (h.peerEvent (fun _ => h.opTimedOut) (fun _ => h.copyTimedOut) fun _ _ => h.reqTimedOut)

/-! ## Barriers and tiles -/

theorem MemWf.noteBegun {p : Place} {l : Lvl} {n : BitVec 4} : MemWf (s.noteBegun p l n) := by
  unfold State.noteBegun
  cases l with
  | grp => exact h.modGroup
  | bolt => exact MemWf.modBolt (s := s.modGroup _ _) h.modGroup
  | beam => exact h.modGroup

theorem MemWf.startArrival {l : Lvl} {n : BitVec 4} : MemWf (s.startArrival l n) := by
  unfold State.startArrival
  exact MemWf.putOp (MemWf.same (h.noteBegun (p := s.rd.place) (l := l) (n := n)))

theorem MemWf.execBarv {x l n} : NextWf (execBarv x l n s) :=
  h.issueWord fun _ k => k.warpWord (k.pendFaults.ite (k.ite (k.unless k.startArrival)))

theorem MemWf.execBarw {x l n} : NextWf (execBarw x l n s) :=
  h.issueWord fun _ k => k.warpWord (k.unless (k.unless (k.acqUnless fun _ w => w.same)))

theorem MemWf.setNamedMask {w : Warp} {n : BitVec 4} {m : Lanes} : MemWf (s.setNamedMask w n m) := by
  unfold State.setNamedMask
  extract_lets i t
  have ht : MemWf t := h.modGroup
  exact ht.settleBolt1.settleBeam.ite ht

theorem MemWf.setBoltMask {w : Warp} {n : BitVec 4} {m : BitVec 16} : MemWf (s.setBoltMask w n m) := h.modBolt

theorem MemWf.execBarm {x l n a} : NextWf (execBarm x l n a s) := by
  refine h.issueWord fun s h => h.warpWord ?_
  cases l with
  | grp => exact h.setNamedMask
  | bolt => exact h.setBoltMask
  | beam => exact h

theorem MemWf.execFetchw {x a} : NextWf (execFetchw x a s) := by
  refine h.issueWord fun s h => h.warpWord (h.reject.ite (h.reject.ite (h.unless (h.unless ?_))))
  exact MemWf.modGroup (MemWf.modTile (MemWf.same h))

theorem MemWf.execReedf {x} : NextWf (execReedf x s) := h.issueWord fun _ k => k.warpWord (k.unless k)

/-! ## The system words -/

theorem MemWf.execTfence {x d} : NextWf (execTfence x d s) :=
  h.issueWord fun _ k => k.warpWord (k.unless (k.acqUnless fun _ w => MemWf.same w.requestSweep))

theorem MemWf.execOfence {x} : NextWf (execOfence x s) := h.issueWord fun _ k => k.warpWord (k.unless k.same)

theorem MemWf.execEfence {x} : NextWf (execEfence x s) :=
  h.issueWord fun _ k => k.warpWord (k.unless (k.unless k))

theorem MemWf.execTlbinv {x a} : NextWf (execTlbinv x a s) := h.issueWord fun _ k => k.warpWord k.same

theorem MemWf.execTlbinvRemoval {op} : NextWf (execTlbinvRemoval op s) := by
  refine .of ?_
  split
  · exact h
  · exact h.tlbDrop.same

theorem MemWf.special {w : Warp} {r : SpReg} : MemWf (s.special w r).2 := by
  cases r with
  | clock =>
    unfold State.special
    dsimp only
    split
    · exact h
    · exact h.clockOf
  | rmask => exact h.same
  | draw | rseq | who | launch | boltlo | bolthi | plyheat | tframe | ctxid | hscr0 | hscr1 => exact h

theorem MemWf.execSrd {x d r} : NextWf (execSrd x d r s) :=
  h.issueWord fun _ k => k.warpWord (MemWf.same k.special)

theorem MemWf.execSwr {x a r} : NextWf (execSwr x a r s) := h.issueWord fun _ k => k.warpWord k.same

theorem MemWf.execTret {x} : NextWf (execTret x s) := by
  refine h.issueWord fun s h => h.warpWord (h.unless ?_)
  dsimp only
  split
  · rename_i e
    exact (h.framePas.snd e).kill
  · rename_i e
    have ht := h.framePas.snd e
    refine ht.retryWith.ite ?_
    split
    · rename_i e
      exact (ht.readFrame.snd e).kill
    · rename_i e
      exact (ht.readFrame.snd e).reload

end

end Sys2Proof.Machine

namespace Sys2Proof.Machine

/-! ## Every instruction, every group and every step -/

/-- Every instruction and every event keeps the memories canonical. -/
theorem MemWf.exec {s : State} (h : MemWf s) (i : Instr) : NextWf (exec i s) := by
  cases i with
  | sadd | ssub | smul | smulh | sdiv | srem | sand | sor | sxor | sshl | sshr | ssra | smin | smax | smad | smov
  | smovFromIx | ssel | spopc | sclz | scvt | saddi | sli | slih | sbfx | sbfi | ppopc =>
    dsimp only [Machine.exec]
    exact h.issueWord fun _ k => k.writeS
  | smovToIx | part | pgreq =>
    dsimp only [Machine.exec]
    exact h.issueWord fun _ k => k.warpWord k.same
  | scmp | pand | por | pxor | pnot | pmov =>
    dsimp only [Machine.exec]
    exact h.issueWord fun _ k => k.writeP
  | vadd | vsub | vmul | vmulh | vmad | vand | vor | vxor | vshl | vshr | vsra | vmin | vmax | vsel | vabs | vpopc
  | vclz | viota | vbcast | vfadd | vfsub | vfmul | vfma | vfms | vfmin | vfmax | vfabs | vfneg | vfclass | vcvt
  | vbfx | vrcp | vrsq | vsqrt | vexp2 | vlog2 | vsin | vcos | vtanh =>
    dsimp only [Machine.exec]
    exact h.issueWord fun _ k => k.vecWord
  | vmov =>
    dsimp only [Machine.exec]
    exact h.issueWord fun _ k => k.ite k.vecWord.kput.regFault
  | vextr =>
    dsimp only [Machine.exec]
    exact h.issueWord fun _ k => k.warpWord (MemWf.regFault k.same)
  | vcmp | vfcmp =>
    dsimp only [Machine.exec]
    exact h.issueWord fun _ k => k.cmpWord
  | ld | vld | vldg =>
    dsimp only [Machine.exec]
    exact h.issueWord fun _ k => k.loadWord
  | st =>
    dsimp only [Machine.exec]
    exact h.issueWord fun _ k => k.storeWord
  | vst | vsts =>
    dsimp only [Machine.exec]
    exact h.issueWord fun _ k => k.regFault.storeWord
  | atom =>
    dsimp only [Machine.exec]
    exact h.issueWord fun _ k => k.atomWord
  | swpw | mclr | mdrn | msav | mrst | mstat | rq | rqVector =>
    dsimp only [Machine.exec]
    exact h.reqWord
  | mif | melse | mend | mloop | mbrk | mcont =>
    dsimp only [Machine.exec]
    exact h.issueWord fun _ k => k.maskStep
  | commit | abort =>
    dsimp only [Machine.exec]
    exact .of h.closeEvent
  | illegalInstruction | illegalPacket =>
    dsimp only [Machine.exec]
    exact .of h.precise
  | plyReqRun | plyReqDoze | plyReqSleep =>
    dsimp only [Machine.exec]
    exact .of (h.onWrite fun _ => h.plyRequest)
  | vpack => exact h.execVpack
  | vunpack => exact h.execVunpack
  | kmov => exact h.execKmov
  | kset => exact h.execKset
  | kget => exact h.execKget
  | kamax => exact h.execKamax
  | vshfl => exact h.execVshfl
  | vshflup => exact h.execVshflup
  | vshfldn => exact h.execVshfldn
  | vshflx => exact h.execVshflx
  | vvote => exact h.execVvote
  | vred => exact h.execVred
  | vscan => exact h.execVscan
  | vrand => exact h.execVrand
  | vldmx => exact h.execVldmx
  | vstmx => exact h.execVstmx
  | vatom => exact h.execVatom
  | fence => exact h.execFence
  | wait => exact h.execWait
  | mwatch => exact h.execMwatch
  | mwait => exact h.execMwait
  | pgpref => exact h.execPgpref
  | oflush => exact h.execOflush
  | itset => exact h.execItset
  | tdef => exact h.execTdef
  | tfree => exact h.execTfree
  | tstat => exact h.execTstat
  | cpy => exact h.execCpy
  | cpyt => exact h.execCpyt
  | cpym => exact h.execCpym
  | ldw => exact h.execLdw
  | mmq => exact h.execMmq
  | mmqTile => exact h.execMmqTile
  | mmqt => exact h.execMmqt
  | mmqtTile => exact h.execMmqtTile
  | mdrnt => exact h.execMdrnt
  | rqs => exact h.execRqs
  | rqsVector => exact h.execRqsVector
  | barv => exact h.execBarv
  | barw => exact h.execBarw
  | barm => exact h.execBarm
  | fetchw => exact h.execFetchw
  | reedf => exact h.execReedf
  | br => exact h.execBr
  | bra => exact h.execBra
  | call => exact h.execCall
  | brv => exact h.execBrv
  | nop => exact h.execNop
  | ret => exact h.execRet
  | jmpi => exact h.execJmpi
  | yield => exact h.execYield
  | exit => exact h.execExit
  | region => exact h.execRegion
  | trap => exact h.execTrap
  | tfence => exact h.execTfence
  | ofence => exact h.execOfence
  | efence => exact h.execEfence
  | tlbinv => exact h.execTlbinv
  | srd => exact h.execSrd
  | swr => exact h.execSwr
  | tret => exact h.execTret
  | clobusoNop => exact h.execClobusoNop
  | launch => exact h.execLaunch
  | launchi => exact h.execLaunchi
  | cIf => exact h.execCIf
  | cElse => exact h.execCElse
  | cEndif => exact h.execCEndif
  | cLoop => exact h.execCLoop
  | cEndloop => exact h.execCEndloop
  | waitv => exact h.execWaitv
  | waitvRead => exact h.execWaitvRead
  | signal => exact h.execSignal
  | clobusoFence => exact h.execClobusoFence
  | coll => exact h.execColl
  | cOpen => exact h.execCOpen
  | page => exact h.execPage
  | launchComplete => exact h.execLaunchComplete
  | powerUp => exact h.execPowerUp
  | quoteDone => exact h.execQuoteDone
  | l2wbDone => exact h.execL2wbDone
  | wptrPublish => exact h.execWptrPublish
  | beamLinkDown => exact h.execBeamLinkDown
  | flitRetry => exact h.execFlitRetry
  | autoDoze => exact h.execAutoDoze
  | plyStateEntry => exact h.execPlyStateEntry
  | dozeWake => exact h.execDozeWake
  | listenerLock => exact h.execListenerLock
  | logReplay => exact h.execLogReplay
  | mirrorCopy => exact h.execMirrorCopy
  | patrolScrub => exact h.execPatrolScrub
  | dentPass => exact h.execDentPass
  | dentApply => exact h.execDentApply
  | regionClear => exact h.execRegionClear
  | slotAllocation => exact h.execSlotAllocation
  | slotReturn => exact h.execSlotReturn
  | collComplete => exact h.execCollComplete
  | boltPlacement => exact h.execBoltPlacement
  | starving => exact h.execStarving
  | priorityPreemption => exact h.execPriorityPreemption
  | boltSave => exact h.execBoltSave
  | boltRestore => exact h.execBoltRestore
  | savedMwaddrRead => exact h.execSavedMwaddrRead
  | fetchwAnswer => exact h.execFetchwAnswer
  | boltRetire => exact h.execBoltRetire
  | idemRelaunch => exact h.execIdemRelaunch
  | warpSwap => exact h.execWarpSwap
  | swapThreshold => exact h.execSwapThreshold
  | starveSwap => exact h.execStarveSwap
  | activeSetFill => exact h.execActiveSetFill
  | warpSlotFree => exact h.execWarpSlotFree
  | trapTaken => exact h.execTrapTaken
  | loomGrant => exact h.execLoomGrant
  | loomRequestAging => exact h.execLoomRequestAging
  | loomPassFinish => exact h.execLoomPassFinish
  | loomRequestFinish => exact h.execLoomRequestFinish
  | copyStart => exact h.execCopyStart
  | copyUnitWrite => exact h.execCopyUnitWrite
  | copyComplete => exact h.execCopyComplete
  | loadReturn => exact h.execLoadReturn
  | registrationComplete => exact h.execRegistrationComplete
  | atomicPerform => exact h.execAtomicPerform
  | epochFlush => exact h.execEpochFlush
  | sweepComplete => exact h.execSweepComplete
  | requestReturn => exact h.execRequestReturn
  | tlbinvRemoval => exact h.execTlbinvRemoval
  | pgreqPost => exact h.execPgreqPost
  | mwaitReread => exact h.execMwaitReread
  | powerRemoval => exact h.execPowerRemoval
  | instructionFetch => exact h.execInstructionFetch
  | registerWrite => exact h.execRegisterWrite
  | partitionWrite => exact h.execPartitionWrite
  | ctxTailWrite => exact h.execCtxTailWrite
  | ctxHeadWrite => exact h.execCtxHeadWrite
  | ctxBindEnable => exact h.execCtxBindEnable
  | ctxBindDisable => exact h.execCtxBindDisable
  | bootColdStart => exact h.execBootColdStart
  | bootWarmStart => exact h.execBootWarmStart
  | fundamentalReset => exact h.execFundamentalReset
  | bootReady => exact h.execBootReady
  | flashWindowWrite => exact h.execFlashWindowWrite
  | attestRequest => exact h.execAttestRequest
  | l2wbStart => exact h.execL2wbStart
  | preemptSave => exact h.execPreemptSave
  | preemptKill => exact h.execPreemptKill
  | preemptRelease => exact h.execPreemptRelease
  | traceEnable => exact h.execTraceEnable
  | traceDisable => exact h.execTraceDisable
  | counterClear => exact h.execCounterClear
  | counterLatchRead => exact h.execCounterLatchRead
  | bar4Access => exact h.execBar4Access
  | ualDown => exact h.execUalDown
  | inboundRemoteAccess => exact h.execInboundRemoteAccess
  | remoteTimeout => exact h.execRemoteTimeout
  | clockStepDown => exact h.execClockStepDown
  | heatPublish => exact h.execHeatPublish
  | contributionArrival => exact h.execContributionArrival
  | collTimeout => exact h.execCollTimeout
  | softError => exact h.execSoftError
  | cpHalt => exact h.execCpHalt
  | clockStepUp => exact h.execClockStepUp
  | portLinkChange => exact h.execPortLinkChange
  | remoteAcknowledge => exact h.execRemoteAcknowledge
  | resizableBarSet => exact h.execResizableBarSet

theorem MemWf.runWords {s : State} (h : MemWf s) (gs : List GWord) (pos : Nat) : MemWf (runWords gs pos s) := by
  induction gs generalizing pos s with
  | nil => exact h
  | cons g gs ih =>
    unfold Machine.runWords
    extract_lets _ t
    have ht : MemWf t := MemWf.tick h.same
    split
    · rename_i e
      exact ih ((ht.exec g.instr).next e) _
    · exact ih ht _
    · exact ih ht _

theorem MemWf.issueFormed {s : State} (h : MemWf s) (f : Formed) : NextWf (issueFormed (f, s)) := by
  unfold Machine.issueFormed
  split
  all_goals
    rename_i e
    cases e
  · exact .of h.precise
  · exact h.exec _
  · exact (MemWf.same h).exec _
  · exact .of (h.issueGroup fun _ k => k.runWords _ _)

theorem MemWf.issueTry {s : State} (h : MemWf s) (wids : List Nat) : NextWf (issueTry wids s) := by
  induction wids generalizing s with
  | nil => exact .of h
  | cons wid wids ih =>
    have ho : NextWf (Machine.issueFormed (s.focus wid).form) := h.focus.form.issueFormed _
    unfold Machine.issueTry
    split
    · rename_i e
      split
      · exact ih (ho.next e)
      · exact .of (ho.next e)
    · exact trivial
    · exact trivial

theorem MemWf.step {s : State} (h : MemWf s) : NextWf (step s) := by
  unfold Machine.step
  split
  · split
    · exact trivial
    · exact (MemWf.same h).exec _
  · split
    · exact (MemWf.same h).exec _
    · exact (MemWf.same h).issueTry _

/-- Settles O59: canonical memories are kept by every instruction and event, and so by every step. -/
theorem stepKeepsMemories : Obligations.StepKeepsMemories := by
  unfold Obligations.StepKeepsMemories
  intro s t h e
  exact (memWf_iff t).1 (((memWf_iff s).2 h).step.next e)

end Sys2Proof.Machine
end

section
/-! SUPPORT. What the plies do (O47): requests for a state, its entry with the write-back of the L1s, the wakes with
their replay or copy, heat and clocks. First what the bytes of a memory read as after each kind of write, and that the
atomics of the model are those of the statements; then what a dent makes of a mirror and a write-back of memory; then
one lemma for each case of each event. -/

namespace Sys2Proof.Machine

open Sys2Proof.Claim

/-- Equivalent conditions choose alike. -/
theorem ite_of_iff {α : Type} {p q : Prop} [Decidable p] [Decidable q] (h : p ↔ q) (x y : α) :
    (if p then x else y) = if q then x else y :=
  ite_congr (propext h) (fun _ => rfl) fun _ => rfl

/-! ## Bytes and words of a memory after a write -/

/-- A word that has been written changes the bytes of its range, the first lowest (R3), and no others. -/
theorem cellGet_cellPutWord {m : List Host.Cell} (h : Memory.wf m = true) (a n v k : Nat) :
    cellGet (cellPutWord m a n v) k =
      if a ≤ k ∧ k < a + n then BitVec.ofNat 8 (v / 256 ^ (k - a)) else cellGet m k := by
  induction n generalizing m a v with
  | zero => exact (if_neg (by omega)).symm
  | succ n ih =>
    have hput : cellPutWord m a (n + 1) v = cellPutWord (cellSet m a (BitVec.ofNat 8 v)) (a + 1) n (v / 256) := rfl
    rw [hput, ih (cellSet_wf h _ _)]
    obtain hlt | rfl | hgt := Nat.lt_trichotomy k a
    · rw [if_neg (by omega), if_neg (by omega), cellGet_cellSet_ne (by omega)]
    · rw [if_neg (by omega), if_pos (by omega), cellGet_cellSet_self h, Nat.sub_self, Nat.pow_zero, Nat.div_one]
    · have hpow : 256 * 256 ^ (k - (a + 1)) = 256 ^ (k - a) := by
        rw [← Nat.pow_succ', show (k - (a + 1)).succ = k - a by omega]
      rw [Nat.div_div_eq_div_mul, hpow, cellGet_cellSet_ne (by omega)]
      exact ite_of_iff (by omega) _ _

/-- A word elsewhere stays as it is. -/
theorem cellWord_cellPutWord_ne {m : List Host.Cell} {a b n v : Nat} (h : b + n ≤ a ∨ a + n ≤ b) :
    cellWord (cellPutWord m b n v) a n = cellWord m a n := by
  refine congrArg leVal (cellBytes_congr fun k _ _ => cellGet_cellPut_ne ?_)
  rw [leBytes_length]
  omega

/-- Bytes that are set one by one at offsets from a base, each to what `g` says. -/
theorem cellGet_foldl_cellSet {m : List Host.Cell} (h : Memory.wf m = true) (base : Nat) (g : Nat → Byte) (l : List Nat)
    (i : Nat) :
    cellGet (l.foldl (fun m k => cellSet m (base + k) (g k)) m) i =
      if base ≤ i ∧ i - base ∈ l then g (i - base) else cellGet m i := by
  induction l generalizing m with
  | nil => simp
  | cons k l ih =>
    rw [List.foldl_cons, ih (cellSet_wf h _ _)]
    by_cases hk : i = base + k
    · subst hk
      simp [cellGet_cellSet_self h]
    · rw [cellGet_cellSet_ne hk]
      refine ite_of_iff (and_congr_right fun _ => ?_) _ _
      rw [List.mem_cons, or_iff_right (by omega)]

theorem cellGet_cellClear (m : List Host.Cell) (a n i : Nat) :
    cellGet (cellClear m a n) i = if a ≤ i ∧ i < a + n then 0 else cellGet m i := by
  induction m with
  | nil => exact (ite_self _).symm
  | cons c cs ih =>
    unfold cellClear at ih ⊢
    rw [List.filter_cons]
    split
    · rename_i hout
      simp only [Bool.or_eq_true, decide_eq_true_eq] at hout
      simp only [cellGet, ih]
      by_cases hi : c.1 = i
      · rw [if_pos hi, if_pos hi, if_neg (by omega)]
      · rw [if_neg hi, if_neg hi]
    · rename_i hin
      simp only [Bool.or_eq_true, decide_eq_true_eq] at hin
      rw [ih]
      by_cases hi : c.1 = i
      · rw [if_pos (by omega), if_pos (by omega)]
      · rw [cellGet, if_neg hi]

theorem leVal_lt (bs : List Byte) : leVal bs < 256 ^ bs.length := by
  induction bs with
  | nil => exact Nat.one_pos
  | cons b bs ih =>
    have hb := b.isLt
    simp only [leVal, List.length_cons, Nat.pow_succ]
    omega

theorem cellBytes_length (m : List Host.Cell) (a n : Nat) : (cellBytes m a n).length = n := by
  induction n generalizing a with
  | zero => rfl
  | succ n ih => exact congrArg (· + 1) (ih (a + 1))

theorem cellWord_lt (m : List Host.Cell) (a n : Nat) : cellWord m a n < 256 ^ n := by
  have h := leVal_lt (cellBytes m a n)
  rwa [cellBytes_length] at h

theorem sum_map_const_mul {α : Type} (k : Nat) (f : α → Nat) (l : List α) :
    (l.map fun x => k * f x).sum = k * (l.map f).sum := by
  induction l with
  | nil => rfl
  | cons x l ih => simp only [List.map_cons, List.sum_cons, ih, Nat.mul_add]

/-- The word of the statements is that of the model. -/
theorem wordAt_eq_cellWord (m : List Host.Cell) (a n : Nat) : wordAt m a n = cellWord m a n := by
  induction n generalizing a with
  | zero => rfl
  | succ n ih =>
    have hw : wordAt m a (n + 1) = (cellGet m a).toNat + 256 * wordAt m (a + 1) n := by
      unfold wordAt
      rw [List.range_succ_eq_map, List.map_cons, List.sum_cons, List.map_map, ← sum_map_const_mul]
      simp only [Function.comp_def, Nat.pow_zero, Nat.mul_one, Nat.add_zero, Nat.succ_eq_add_one, Nat.pow_succ',
        Nat.add_assoc, Nat.add_comm 1, Nat.mul_left_comm]
    rw [hw, ih]
    rfl

/-! ## Atomics -/

/-- R399: an integer that an atomic compares, as a number of its width. -/
theorem atomSigned_eq {t : ATy} (ht : t ≠ .f32) (v : Nat) :
    atomSigned t v =
      if t = .u32 ∨ v % 256 ^ t.bytes < 256 ^ t.bytes / 2 then ((v % 256 ^ t.bytes : Nat) : Int)
      else ((v % 256 ^ t.bytes : Nat) : Int) - (256 ^ t.bytes : Nat) := by
  cases t with
  | u32 => rfl
  | f32 => exact absurd rfl ht
  | i32 | i64 =>
    simp only [atomSigned, BitVec.toInt, BitVec.toNat_ofNat, ATy.bytes, reduceCtorEq, false_or]
    split <;> split <;> omega

/-- R399: an atomic that is not of floating-point numbers gives what the statements say, its operands taken in its
width. -/
theorem atomInt_eq_atomically {old : Nat} {o : AOp} {t : ATy} (b c : Nat)
    (ht : t = .f32 → o ≠ .add ∧ o ≠ .min ∧ o ≠ .max) (h : old < 256 ^ t.bytes) :
    atomInt o t old b c = atomically o t old (b % 256 ^ t.bytes) (c % 256 ^ t.bytes) := by
  have hold : old % 256 ^ t.bytes = old := Nat.mod_eq_of_lt h
  have hpow : 256 ^ t.bytes = 2 ^ (8 * t.bytes) := by rw [Nat.pow_mul]
  have hbit : ∀ f : Nat → Nat → Nat, f old b % 2 ^ (8 * t.bytes) = f (old % 2 ^ (8 * t.bytes)) (b % 2 ^ (8 * t.bytes)) →
      f old b % 256 ^ t.bytes = f old (b % 256 ^ t.bytes) := fun f e => by rwa [← hpow, hold] at e
  cases o with
  | xchg => cases t <;> rfl
  | add =>
    cases t with
    | f32 => exact absurd (ht rfl) (by decide)
    | _ => exact congrArg (·, true) (Nat.add_mod_mod ..).symm
  | andB =>
    have e := hbit Nat.land (Nat.and_mod_two_pow ..)
    cases t <;> exact congrArg (·, true) e
  | orB =>
    have e := hbit Nat.lor (Nat.or_mod_two_pow ..)
    cases t <;> exact congrArg (·, true) e
  | xorB =>
    have e := hbit Nat.xor (Nat.xor_mod_two_pow ..)
    cases t <;> exact congrArg (·, true) e
  | min | max =>
    have hne : t ≠ .f32 := fun e => absurd (ht e) (by decide)
    simp only [atomInt, atomSigned_eq hne, hold]
    cases t with
    | f32 => exact absurd rfl hne
    | _ => rfl
  | cas =>
    simp only [atomInt, hold]
    cases t <;> rfl

/-- R399: so does every atomic. -/
theorem atomNew_eq_atomically {old : Nat} (o : AOp) {t : ATy} (b c : Nat) (h : old < 256 ^ t.bytes) :
    atomNew o t old b c = atomically o t old (b % 256 ^ t.bytes) (c % 256 ^ t.bytes) := by
  cases t with
  | f32 =>
    have hold : old % 2 ^ 32 = old := Nat.mod_eq_of_lt h
    cases o with
    | add | min | max =>
      simp only [atomNew, hold]
      rfl
    | _ =>
      unfold atomNew
      exact atomInt_eq_atomically b c (by decide) h
  | _ => exact atomInt_eq_atomically b c nofun h

end Sys2Proof.Machine

namespace Sys2Proof.Machine

open Sys2Proof.Claim

/-! ## Dents and mirrors -/

theorem dentBytes_eq (mask : BitVec 256) (data : BitVec 2048) :
    dentBytes mask data =
      ((List.range 256).filter mask.getLsbD).map fun i => (i, BitVec.ofNat 8 (data.toNat / 256 ^ i)) := by
  unfold dentBytes
  induction List.range 256 with
  | nil => rfl
  | cons i l ih =>
    rw [List.filterMap_cons, List.filter_cons, ih]
    cases mask.getLsbD i <;> rfl

/-- R32, R35, R39: what a dent makes of a mirror. -/
theorem Ply.dented_applyDent {p : Ply} (h : Memory.wf p.mirror = true) (k : DentKind) :
    Dented k p.mirror (p.applyDent k).mirror := by
  cases k with
  | write blk mask data =>
    intro i
    have hbytes := cellGet_foldl_cellSet h (256 * blk) (fun k => BitVec.ofNat 8 (data.toNat / 256 ^ k))
      ((List.range 256).filter mask.getLsbD) i
    simp only [Ply.applyDent, dentBytes_eq, List.foldl_map, hbytes, List.mem_filter, List.mem_range]
    by_cases hb : i / 256 = blk
    · subst hb
      have hm : i - 256 * (i / 256) = i % 256 := by omega
      rw [hm]
      exact ite_of_iff ⟨fun ⟨_, _, hbit⟩ => ⟨rfl, hbit⟩, fun ⟨_, hbit⟩ => ⟨by omega, by omega, hbit⟩⟩ _ _
    · rw [if_neg fun ⟨_, _, _⟩ => hb (by omega), if_neg fun e => hb e.1]
  | atomic blk off o t b c =>
    intro i
    have hword := cellGet_cellPutWord h (256 * blk + off) t.bytes
    simp only [Ply.applyDent, wordAt_eq_cellWord, ← atomNew_eq_atomically o b.toNat c.toNat (cellWord_lt _ _ _)]
    split
    · rename_i hr
      rw [show cellPut _ _ (leBytes _ _) = cellPutWord _ _ _ _ from rfl, hword]
      exact ite_of_iff (by simp only [hr, true_and]) _ _
    · rename_i hr
      rw [if_neg fun e => hr e.1]
  | clear _ base size => exact cellGet_cellClear _ _ _
  | join | leave | arrive => rfl

/-- R32, R45: a dent changes a mirror and what it is poisoned by, and APPLIED names it. -/
theorem Ply.applyLogged_eq (p : Ply) (e : Dent) :
    p.applyLogged e =
      { p with mirror := (p.applyLogged e).mirror, mirrorBad := (p.applyLogged e).mirrorBad, applied := e.dsn } := by
  unfold Ply.applyLogged Ply.applyDent
  cases e.kind <;> rfl

/-- R45: a ply that has replayed dents has applied the last of them; besides, only its mirror has changed. -/
theorem Ply.replayed_eq (p : Ply) (ds : List Dent) :
    ds.foldl Ply.applyLogged p =
      { p with
        mirror := (ds.foldl Ply.applyLogged p).mirror, mirrorBad := (ds.foldl Ply.applyLogged p).mirrorBad
        applied := ds.getLast?.elim p.applied Dent.dsn } := by
  induction ds generalizing p with
  | nil => rfl
  | cons e ds ih =>
    have hlast : (e :: ds).getLast?.elim p.applied Dent.dsn = ds.getLast?.elim e.dsn Dent.dsn := by
      rw [List.getLast?_cons]
      cases ds.getLast? <;> rfl
    rw [hlast, List.foldl_cons, ih, Ply.applyLogged_eq]

theorem Ply.replayed_wf {p : Ply} (h : Memory.wf p.mirror = true) (ds : List Dent) :
    Memory.wf (ds.foldl Ply.applyLogged p).mirror = true := by
  induction ds generalizing p with
  | nil => exact h
  | cons e ds ih => exact ih (Ply.applyLogged_wf h e)

/-- The mirror of a ply that has replayed the first `i` of some dents. -/
def Ply.mirrorAfter (p : Ply) (ds : List Dent) (i : Nat) : List Host.Cell := ((ds.take i).foldl Ply.applyLogged p).mirror

/-- R45: of dents that are replayed in turn, each makes of the mirror what it says. -/
theorem Ply.dented_mirrorAfter {p : Ply} (h : Memory.wf p.mirror = true) {ds : List Dent} {i : Nat} {e : Dent}
    (he : ds[i]? = some e) : Dented e.kind (p.mirrorAfter ds i) (p.mirrorAfter ds (i + 1)) := by
  unfold Ply.mirrorAfter
  rw [List.take_add_one, he, Option.toList_some, List.foldl_append]
  exact Ply.dented_applyDent (Ply.replayed_wf h _) e.kind

/-- R21, R22: a ply that was waking to run or to doze is awake. -/
theorem Ply.awake_eq_awoken {p : Ply} {n : BitVec 2} (hn : n = 0 ∨ n = 1) (h : p.state = .trans n) :
    p.awake = awoken p n := by
  unfold Ply.awake awoken
  rw [h]
  obtain rfl | rfl := hn <;> simp

/-- R45: a ply that is awake once it has replayed dents. -/
theorem awoken_replayed (p : Ply) (ds : List Dent) (n : BitVec 2) :
    awoken (ds.foldl Ply.applyLogged p) n =
      { awoken p n with
        mirror := p.mirrorAfter ds ds.length, mirrorBad := (ds.foldl Ply.applyLogged p).mirrorBad
        applied := ds.getLast?.elim p.applied Dent.dsn } := by
  unfold Ply.mirrorAfter
  rw [List.take_length, Ply.replayed_eq]
  rfl

/-! ## Plies of a state -/

theorem State.modPly_congr {s : State} {d : Die} {f g : Ply → Ply} (h : f (s.ply d) = g (s.ply d)) :
    s.modPly d f = s.modPly d g := by
  unfold State.modPly
  exact congrArg (fun q => { s with plies := s.plies.set d q }) h

theorem State.modPly_id (s : State) (d : Die) : s.modPly d (fun p => p) = s := by
  simp [State.modPly]

theorem State.modPly_modPly (s : State) (d : Die) (f g : Ply → Ply) :
    (s.modPly d f).modPly d g = s.modPly d fun p => g (f p) := by
  simp [State.modPly]

theorem State.foldl_modPly {α : Type} (s : State) (d : Die) (f : Ply → α → Ply) (l : List α) :
    l.foldl (fun s a => s.modPly d fun p => f p a) s = s.modPly d fun p => l.foldl f p := by
  induction l generalizing s with
  | nil => exact (s.modPly_id d).symm
  | cons a l ih => rw [List.foldl_cons, ih, State.modPly_modPly]; rfl

/-- Plies that are changed one after another, each once. -/
theorem State.ply_foldl_modPly (s : State) (f : Die → Ply → Ply) {l : List Die} (hl : l.Nodup) (d : Die) :
    (l.foldl (fun s d => s.modPly d (f d)) s).ply d = if d ∈ l then f d (s.ply d) else s.ply d := by
  induction l generalizing s with
  | nil => rfl
  | cons e l ih =>
    obtain ⟨he, hl⟩ := List.nodup_cons.1 hl
    rw [List.foldl_cons, ih _ hl]
    by_cases hd : d = e
    · subst hd
      rw [if_neg he, if_pos List.mem_cons_self, State.modPly_ply_self]
    · rw [State.modPly_ply_ne _ _ _ _ (Ne.symm hd)]
      exact ite_of_iff (by simp only [List.mem_cons, hd, false_or]) _ _

/-- The first die of which something holds. -/
theorem find?_finRange_eq_some {n : Nat} {p : Fin n → Bool} {i : Fin n} :
    (List.finRange n).find? p = some i ↔ p i = true ∧ ∀ j : Fin n, j.val < i.val → p j = false := by
  simp only [List.find?_eq_some_iff_getElem, List.getElem_finRange, List.length_finRange, Bool.not_eq_true']
  refine and_congr_right fun _ => ⟨?_, fun h => ⟨i.val, i.isLt, rfl, fun j hj => h _ hj⟩⟩
  rintro ⟨k, hk, rfl, h⟩ j hj
  exact h j.val hj

/-! ## Writing an L1 back -/

/-- A state differs from another only in what its dies count of their lines (R304). -/
def TrafficOnly (s t : State) : Prop := t = { s with slices := { s.slices with traffic := t.slices.traffic } }

theorem TrafficOnly.refl (s : State) : TrafficOnly s s := rfl

theorem TrafficOnly.trans {s t u : State} (h : TrafficOnly s t) (k : TrafficOnly t u) : TrafficOnly s u := by
  unfold TrafficOnly at h k ⊢
  rw [k, h]

theorem State.traffic_trafficOnly (s : State) (d : Die) (f : Traffic → Traffic) : TrafficOnly s (s.traffic d f) := by
  unfold State.traffic
  split <;> rfl

theorem State.lineRequest_trafficOnly (s : State) (d : Option Die) (h : Die) : TrafficOnly s (s.lineRequest d h) := by
  have hbm : ∀ t : State, TrafficOnly t (t.hbmLines h) := fun t => t.traffic_trafficOnly h _
  unfold State.lineRequest State.lineRequests
  cases d with
  | none => exact hbm s
  | some d =>
    dsimp only [Option.elim]
    exact (s.traffic_trafficOnly d _).trans (hbm _)

theorem State.lineRequests_trafficOnly {α : Type} (s : State) (c : α → Option Die) (h : State → α → Die) (l : List α) :
    TrafficOnly s (l.foldl (fun s x => s.lineRequest (c x) (h s x)) s) := by
  induction l generalizing s with
  | nil => exact .refl s
  | cons x l ih => exact (s.lineRequest_trafficOnly _ _).trans (ih _)

/-- R220: what is written to a frame goes, besides, to memory at its other frame alone. -/
theorem State.mirror_eq (s : State) (pa : Nat) (bs : List Byte) :
    s.mirror pa bs = { s with mem := (s.mirror pa bs).mem } := by
  unfold State.mirror
  generalize s.slices.twins.filter _ = l
  induction l generalizing s with
  | nil => rfl
  | cons x l ih => rw [List.foldl_cons, ih]

theorem State.mirror_of_twins_nil {s : State} (h : s.slices.twins = []) (pa : Nat) (bs : List Byte) :
    s.mirror pa bs = s := by
  unfold State.mirror
  rw [h]
  rfl

/-- A word of an L1 that memory does not have reaches it (R178), and the other frame of its page (R220). -/
def State.wordHome (s : State) (w : L1Word) : State :=
  ({ s with mem := cellPutWord s.mem w.pa 4 w.data.toNat } : State).mirror w.pa (leBytes 4 w.data.toNat)

theorem State.wordsHome_eq (s : State) (ws : List L1Word) :
    ws.foldl State.wordHome s = { s with mem := (ws.foldl State.wordHome s).mem } := by
  induction ws generalizing s with
  | nil => rfl
  | cons w ws ih =>
    rw [List.foldl_cons, ih]
    unfold State.wordHome
    rw [State.mirror_eq]

theorem State.wordsHome_of_twins_nil {s : State} (h : s.slices.twins = []) (ws : List L1Word) :
    ws.foldl State.wordHome s =
      { s with mem := ws.foldl (fun m w => cellPutWord m w.pa 4 w.data.toNat) s.mem } := by
  induction ws generalizing s with
  | nil => rfl
  | cons w ws ih =>
    have hw : s.wordHome w = { s with mem := cellPutWord s.mem w.pa 4 w.data.toNat } :=
      State.mirror_of_twins_nil (s := { s with mem := cellPutWord s.mem w.pa 4 w.data.toNat }) h _ _
    have ht : (s.wordHome w).slices.twins = [] := by rwa [hw]
    rw [List.foldl_cons, ih ht, hw]
    rfl

/-- A word that is written, or stands in memory, is there after the writes, where every other word lies elsewhere. -/
theorem cellWord_foldl_cellPutWord {m : List Host.Cell} (ws : List L1Word) {y : L1Word} (h : Memory.wf m = true)
    (hy : y ∈ ws ∨ cellWord m y.pa 4 = y.data.toNat) (hz : ∀ z ∈ ws, z ≠ y → z.pa + 4 ≤ y.pa ∨ y.pa + 4 ≤ z.pa) :
    cellWord (ws.foldl (fun m w => cellPutWord m w.pa 4 w.data.toNat) m) y.pa 4 = y.data.toNat := by
  induction ws generalizing m with
  | nil => exact hy.resolve_left List.not_mem_nil
  | cons w ws ih =>
    refine ih (cellPutWord_wf h _ _ _) ?_ fun z hzw => hz z (List.mem_cons_of_mem _ hzw)
    by_cases hw : w = y
    · subst hw
      exact .inr ((cellWord_cellPutWord h _ _ _).trans (Nat.mod_eq_of_lt w.data.isLt))
    · rw [cellWord_cellPutWord_ne (hz w List.mem_cons_self hw)]
      exact hy.imp_left fun hmem => (List.mem_cons.1 hmem).resolve_left (Ne.symm hw)

/-- The dirty words of the L1s that a write-back names. -/
def State.dirtyOf (s : State) (p : L1Word → Bool) : List L1Word := s.l1.filter fun w => w.dirty && p w

/-- The requests of a write-back (R181). -/
def State.askWriteBack (s : State) (p : L1Word → Bool) : State :=
  ((s.dirtyOf p).map fun w => (w.core, w.pa / 128)).eraseDups.foldl
    (fun s x => s.lineRequest (some (coreDie x.1)) (s.homeOf (128 * x.2))) s

/-- Words of the L1s are clean and owned by nobody. -/
def State.cleanL1 (s : State) (p : L1Word → Bool) : State :=
  { s with l1 := s.l1.map fun w => if p w then { w with dirty := false, owned := false } else w }

/-- R178, R181: the steps of a write-back. -/
theorem State.l1Flush_steps (s : State) (p : L1Word → Bool) :
    s.l1Flush p = (((s.dirtyOf p).filter L1Word.ahead).foldl State.wordHome (s.askWriteBack p)).cleanL1 p := rfl

theorem State.askWriteBack_trafficOnly (s : State) (p : L1Word → Bool) : TrafficOnly s (s.askWriteBack p) :=
  s.lineRequests_trafficOnly (fun x : Nat × Nat => some (coreDie x.1)) (fun s x => s.homeOf (128 * x.2)) _

/-- R178: a write-back changes memory, what the slices hold, and the words that it names, which it leaves clean. -/
theorem State.l1Flush_eq (s : State) (p : L1Word → Bool) :
    s.l1Flush p = { s.cleanL1 p with slices := (s.l1Flush p).slices, mem := (s.l1Flush p).mem } := by
  have ht : s.askWriteBack p = _ := s.askWriteBack_trafficOnly p
  rw [State.l1Flush_steps, State.wordsHome_eq, ht]
  rfl

/-- Cleaning the words of a die's L1s leaves those of the others as they are. -/
theorem State.filter_l1_cleanL1 (s : State) (d : Die) :
    (s.cleanL1 fun w => coreDie w.core == d).l1.filter (fun w => coreDie w.core != d) =
      s.l1.filter fun w => coreDie w.core != d := by
  unfold State.cleanL1
  dsimp only
  induction s.l1 with
  | nil => rfl
  | cons w l ih =>
    rw [List.map_cons, List.filter_cons, List.filter_cons, ih]
    by_cases hw : coreDie w.core = d <;> simp [hw]

/-- R178: a write-back of words that memory has leaves it as it is. -/
theorem State.l1Flush_mem_of_not_ahead {s : State} {p : L1Word → Bool}
    (h : ∀ w ∈ s.l1, p w = true → w.dirty = true → w.ahead = false) : (s.l1Flush p).mem = s.mem := by
  have hnil : (s.dirtyOf p).filter L1Word.ahead = [] := by
    refine List.filter_eq_nil_iff.2 fun w hw => ?_
    obtain ⟨hw, hdirty⟩ := List.mem_filter.1 hw
    obtain ⟨hd, hp⟩ := Bool.and_eq_true_iff.1 hdirty
    exact Bool.eq_false_iff.1 (h w hw hp hd)
  have ht : s.askWriteBack p = _ := s.askWriteBack_trafficOnly p
  rw [State.l1Flush_steps, hnil, ht]
  rfl

/-- R178: a write-back brings a word that memory does not have there, where no page has two frames and no other word of an
L1 lies over it. -/
theorem State.l1Flush_wordAt {s : State} {p : L1Word → Bool} {y : L1Word} (htwins : s.slices.twins = [])
    (hwf : Memory.wf s.mem = true) (hy : y ∈ s.l1) (hp : p y = true) (hd : y.dirty = true) (ha : y.ahead = true)
    (hz : ∀ z ∈ s.l1, z ≠ y → z.pa + 4 ≤ y.pa ∨ y.pa + 4 ≤ z.pa) :
    wordAt (s.l1Flush p).mem y.pa 4 = y.data.toNat := by
  have ht : s.askWriteBack p = _ := s.askWriteBack_trafficOnly p
  have htt : (s.askWriteBack p).slices.twins = [] := by rwa [ht]
  have htm : (s.askWriteBack p).mem = s.mem := by rw [ht]
  have hmem : y ∈ (s.dirtyOf p).filter L1Word.ahead :=
    List.mem_filter.2 ⟨List.mem_filter.2 ⟨hy, Bool.and_eq_true_iff.2 ⟨hd, hp⟩⟩, ha⟩
  rw [wordAt_eq_cellWord, State.l1Flush_steps, State.wordsHome_of_twins_nil htt, htm]
  refine cellWord_foldl_cellPutWord _ hwf (.inl hmem) fun z hz' => ?_
  exact hz z (List.mem_filter.1 (List.mem_filter.1 hz').1).1

end Sys2Proof.Machine

namespace Sys2Proof.Machine

open Sys2Proof.Claim

/-! ## Requests (R21, R24) -/

/-- R21: the request that is pending after one for run (0), doze (1) or sleep (2). -/
theorem Ply.request_eq (p : Ply) (n : BitVec 2) :
    p.request n =
      { p with
        pend :=
          if (p.state = .run ∧ n = 0) ∨ (p.state = .doze ∧ n = 1) ∨ (p.state = .sleep ∧ n = 2) then 0
          else if n = 0 then 3 else n } := by
  unfold Ply.request
  cases p.state <;> simp

/-- R21, R24: a host write that asks for a state changes PLY_CTL and what is pending. -/
theorem State.onWrite_plyRequest {s : State} {h : HostWrite} {d : Die} {v : Nat} {k : WriteKind} (n : BitVec 2)
    (hw : Writes s h (.plyCtl d) v k) :
    s.onWrite h k (fun w s => s.plyRequest w n) =
      s.modPly d fun p => { p.request n with autoDoze := BitVec.ofNat 8 (bits v 8 8), req := n } := by
  obtain ⟨w, hreg, hr, rfl, -, hk⟩ := hw
  unfold State.onWrite State.plyRequest State.setReg
  simp only [hreg, hk, hr, if_true, State.modPly_modPly]
  rfl

/-! ## Entering doze and sleep (R20) -/

section
variable {s : State} {d : Die}

theorem execPlyStateEntry_of_idle (h : (s.ply d).state = .run ∧ ((s.ply d).pend = 1 ∨ (s.ply d).pend = 2) ∨
      (s.ply d).state = .doze ∧ (s.ply d).pend = 2) :
    exec (.plyStateEntry d) s =
      .next (if s.plyBusy d then s else s.modPly d fun q => { q with state := .trans q.pend }) := by
  show execPlyStateEntry d s = _
  unfold execPlyStateEntry
  obtain ⟨hs, hp⟩ | ⟨hs, hp⟩ := h
  · simp only [hs]
    obtain hp | hp := hp <;> cases s.plyBusy d <;> simp [hp]
  · have hm := State.modPly_congr (s := s) (d := d) (f := fun q => { q with state := .trans q.pend })
      (g := fun q => { q with state := .trans 2 }) (by rw [hp])
    rw [hm]
    simp only [hs, hp]
    cases s.plyBusy d <;> rfl

theorem execPlyStateEntry_of_ops {n : BitVec 2} (hs : (s.ply d).state = .trans n)
    (ho : ∃ o ∈ s.ops, coreDie o.core = d) : exec (.plyStateEntry d) s = .next s := by
  have hany : (s.ops.any fun o => coreDie o.core == d) = true := by simpa using ho
  show execPlyStateEntry d s = _
  unfold execPlyStateEntry
  simp only [hs, hany]
  simp

/-- What a ply's entry to doze (1) or sleep (2) leaves: its L1s written back and invalidated, its state reached. -/
def State.entered (s : State) (d : Die) (n : BitVec 2) : State :=
  let t := s.l1Flush fun w => coreDie w.core == d
  { t with l1 := t.l1.filter fun w => coreDie w.core != d }.modPly d fun p =>
    { p with state := if n = 1 then .doze else .sleep, listen := n == 1, pend := if p.pend = n then 0 else p.pend }

theorem execPlyStateEntry_of_trans {n : BitVec 2} (hn : n = 1 ∨ n = 2) (hs : (s.ply d).state = .trans n)
    (hw : (s.ply d).wake = .none) (ho : ∀ o ∈ s.ops, coreDie o.core ≠ d) :
    exec (.plyStateEntry d) s = .next (s.entered d n) := by
  have hany : (s.ops.any fun o => coreDie o.core == d) = false := by simpa using ho
  show execPlyStateEntry d s = _
  unfold execPlyStateEntry
  simp only [hs, hw, hany]
  obtain rfl | rfl := hn <;> rfl

/-- R20: besides the ply's registers, the entry changes memory, what the slices hold, and the words of the ply's L1s, of
which none is left. -/
theorem State.entered_eq {n : BitVec 2} (hp : (s.ply d).pend = n) :
    s.entered d n =
      { s.modPly d (fun q =>
          { q with state := if n = 1 then .doze else .sleep, listen := decide (n = 1), pend := 0 }) with
        l1 := s.l1.filter fun y => coreDie y.core != d
        slices := (s.entered d n).slices
        mem := (s.entered d n).mem } := by
  have hl : (s.l1Flush fun w => coreDie w.core == d).l1.filter (fun w => coreDie w.core != d) =
      s.l1.filter fun w => coreDie w.core != d := by
    rw [State.l1Flush_eq]
    exact s.filter_l1_cleanL1 d
  have hm := State.modPly_congr (s := s) (d := d)
    (f := fun q => { q with state := if n = 1 then .doze else .sleep, listen := decide (n = 1), pend := 0 })
    (g := fun q => { q with
      state := if n = 1 then .doze else .sleep, listen := n == 1, pend := if q.pend = n then 0 else q.pend })
    (by rw [hp, if_pos rfl]; rfl)
  unfold State.entered
  dsimp only
  rw [hm, hl, State.l1Flush_eq]
  rfl

/-! ## Waking (R22, R45, R46) -/

theorem execDozeWake_of_doze (hs : (s.ply d).state = .doze) (hp : (s.ply d).pend = 3) :
    exec (.dozeWake d) s = .next (s.modPly d fun q => { q with state := .trans 0 }) := by
  refine congrArg Host.Outcome.next (State.modPly_congr ?_)
  simp only [hs, hp, if_true]

theorem execDozeWake_of_trans (hs : (s.ply d).state = .trans 0) (hw : (s.ply d).wake = .none)
    (hp : (s.ply d).pend = 3) :
    exec (.dozeWake d) s = .next (s.modPly d fun q => { q with state := .run, listen := true, pend := 0 }) := by
  refine congrArg Host.Outcome.next (State.modPly_congr ?_)
  simp only [hs, hw, and_self, if_true]
  rw [Ply.awake_eq_awoken (.inl rfl) hs]
  simp [awoken, hp, ← hw]

theorem execAutoDoze_of_idle (ha : (s.ply d).autoDoze ≠ 0) (hs : (s.ply d).state = .run) (hp : (s.ply d).pend = 0)
    (hg : s.groups = []) : exec (.autoDoze d) s = .next (s.modPly d fun q => { q with pend := 1 }) := by
  have hr : s.modPly d (fun q => q.request 1) = s.modPly d fun q => { q with pend := 1 } :=
    State.modPly_congr (by rw [Ply.request_eq, hs]; rfl)
  refine congrArg Host.Outcome.next ((if_pos ?_).trans hr)
  simpa [hs, hp, hg] using ha

theorem execAutoDoze_of_off (ha : (s.ply d).autoDoze = 0) : exec (.autoDoze d) s = .next s := by
  show execAutoDoze d s = _
  unfold execAutoDoze
  simp [ha]

/-- R21, R45: where a sleeping ply wakes to, and how it catches up. -/
theorem execListenerLock_of_sleep (hs : (s.ply d).state = .sleep) (hp : (s.ply d).pend = 3 ∨ (s.ply d).pend = 1) :
    ∃ k, exec (.listenerLock d) s = .next
        (s.modPly d fun q => { q with state := .trans (if (s.ply d).pend = 3 then 0 else 1), wake := k }) ∧
      (k = .replay ↔ (s.beam (dieBeam d)).reed.head - (s.ply d).applied ≤ 4096 ∧
        ∀ e ∈ (s.beam (dieBeam d)).reed.log, (s.ply d).applied < e.dsn → e.bad = false) ∧
      (k = .replay ∨ k = .copying) := by
  have hwakes : (s.ply d).wakes = some (if (s.ply d).pend = 3 then 0 else 1) := by
    unfold Ply.wakes
    obtain hp | hp := hp <;> simp [hs, hp]
  refine ⟨if decide ((s.beam (dieBeam d)).reed.head - (s.ply d).applied ≤ 4096) && (s.missed d).all fun e => !e.bad
    then .replay else .copying, ?_, ?_, ?_⟩
  · show execListenerLock d s = _
    unfold execListenerLock
    rw [hwakes]
  · simp [State.missed]
  · split
    · exact .inl rfl
    · exact .inr rfl

/-- R45, R273: a bad dent turns the replay into a copy. -/
theorem execLogReplay_of_bad (hw : (s.ply d).wake = .replay) (hb : ∃ e ∈ s.missed d, e.bad = true) :
    exec (.logReplay d) s = .next (s.modPly d fun q => { q with wake := .copying }) := by
  have hany : (s.missed d).any Dent.bad = true := List.any_eq_true.2 hb
  show execLogReplay d s = _
  unfold execLogReplay
  simp only [hw, hany, if_true]

/-- R45: the missed dents are replayed in turn, and the ply is awake. -/
theorem execLogReplay_of_sound {n : BitVec 2} (hn : n = 0 ∨ n = 1) (hs : (s.ply d).state = .trans n)
    (hw : (s.ply d).wake = .replay) (hb : ∀ e ∈ s.missed d, e.bad = false) :
    exec (.logReplay d) s =
      .next (s.modPly d fun _ => awoken ((s.missed d).foldl Ply.applyLogged (s.ply d)) n) := by
  have hany : (s.missed d).any Dent.bad = false := by simpa using hb
  show execLogReplay d s = _
  unfold execLogReplay
  simp only [hw, hany, if_true, State.foldl_modPly, State.modPly_modPly, Bool.false_eq_true, if_false]
  refine congrArg Host.Outcome.next (State.modPly_congr ?_)
  refine Ply.awake_eq_awoken hn ?_
  rw [Ply.replayed_eq]
  exact hs

/-- R46: the ply whose mirror is copied is the lowest other ply of the beam in run or doze. -/
theorem State.copySource_of_run {e : Die} (he : e ≠ d) (hb : dieBeam e = dieBeam d) (hr : (s.ply e).state = .run)
    (hlow : ∀ f : Die, f.val < e.val → dieBeam f = dieBeam d → f ≠ d →
      (s.ply f).state ≠ .run ∧ (s.ply f).state ≠ .doze) : s.copySource d = some e := by
  have hfind : ((beamDies (dieBeam d)).filter fun f => f != d).find?
      (fun f => (s.ply f).state == .run || (s.ply f).state == .doze) = some e := by
    rw [beamDies, List.filter_filter, List.find?_filter, find?_finRange_eq_some]
    exact ⟨by simp [he, hb, hr], fun f hf => by simpa [and_imp, imp.swap] using hlow f hf⟩
  unfold State.copySource
  simp only [hfind]

/-- R46: the mirror of the lowest other ply of the beam in run, where none below it is in run or doze. -/
theorem execMirrorCopy_of_run {n : BitVec 2} (hn : n = 0 ∨ n = 1) (hs : (s.ply d).state = .trans n)
    (hw : (s.ply d).wake = .copying) {e : Die} (he : e ≠ d) (hb : dieBeam e = dieBeam d) (hr : (s.ply e).state = .run)
    (hlow : ∀ f : Die, f.val < e.val → dieBeam f = dieBeam d → f ≠ d →
      (s.ply f).state ≠ .run ∧ (s.ply f).state ≠ .doze) :
    exec (.mirrorCopy d) s = .next (s.modPly d fun q =>
      { awoken q n with
        mirror := (s.ply e).mirror, mirrorBad := (s.ply e).mirrorBad, applied := (s.ply e).applied }) := by
  show execMirrorCopy d s = _
  unfold execMirrorCopy
  simp only [hw, if_true, State.copySource_of_run he hb hr hlow]
  refine congrArg Host.Outcome.next (State.modPly_congr ?_)
  rw [Ply.awake_eq_awoken hn hs]

end

/-! ## Heat (R18) -/

/-- R18: twice what a temperature exceeds 25 °C by, within 0 to 255. -/
theorem heatIndex_eq (t : Int) :
    heatIndex t =
      if t < 25000 then 0 else if 152500 ≤ t then 255 else BitVec.ofNat 8 ((t - 25000).toNat / 500) := by
  unfold heatIndex
  by_cases hlo : t < 25000
  · rw [if_pos hlo, show max 0 (min 255 (2 * (t - 25000) / 1000)) = 0 by omega]
    rfl
  · rw [if_neg hlo]
    by_cases hhi : 152500 ≤ t
    · rw [if_pos hhi, show max 0 (min 255 (2 * (t - 25000) / 1000)) = 255 by omega]
      rfl
    · rw [if_neg hhi,
        show max 0 (min 255 (2 * (t - 25000) / 1000)) = (((t - 25000).toNat / 500 : Nat) : Int) by omega]
      exact BitVec.ofInt_natCast ..

theorem execHeatPublish_of_ready {s : State} {ts : Vector (Int × List Int) 8} (hr : s.dev.ready = true) :
    ∃ u, exec (.heatPublish ts) s = .next u ∧ ∀ e : Die, u.ply e = { s.ply e with heat := heatIndex (hottest ts[e]) } := by
  refine ⟨_, congrArg Host.Outcome.next (if_pos hr), fun e => ?_⟩
  rw [State.ply_foldl_modPly s (fun d p => { p with heat := heatIndex (hottest ts[d]) }) (List.nodup_finRange 8)]
  exact if_pos (List.mem_finRange e)

/-- Settles O47: each clause is the lemma of its event's case; what an entry makes of memory is what the write-back of the
ply's L1s makes of it, and what a replay makes of the mirror is what its dents make of it in turn. -/
theorem plyResult : Obligations.PlyResult := by
  unfold Obligations.PlyResult
  intro s h d v ts p asked
  have hask : ∀ (n : BitVec 2) (k : WriteKind), Writes s h (.plyCtl d) v k →
      s.onWrite h k (fun w s => s.plyRequest w n) = asked n := fun n k hw =>
    (State.onWrite_plyRequest n hw).trans (State.modPly_congr (by rw [Ply.request_eq]))
  refine ⟨fun hw => congrArg Host.Outcome.next (hask 0 _ hw), fun hw => congrArg Host.Outcome.next (hask 1 _ hw),
    fun hw => congrArg Host.Outcome.next (hask 2 _ hw), execPlyStateEntry_of_idle, ?entry, execDozeWake_of_doze,
    execDozeWake_of_trans, execAutoDoze_of_idle, execAutoDoze_of_off, execListenerLock_of_sleep, ?replay,
    fun n hn hs hw e he hb hr hlow => execMirrorCopy_of_run hn hs hw he hb hr hlow, ?heat,
    fun hr => congrArg Host.Outcome.next (if_neg (Bool.eq_false_iff.1 hr)), rfl, rfl⟩
  case entry =>
    intro n hn hs hw
    refine ⟨execPlyStateEntry_of_ops hs, fun hp ho =>
      ⟨s.entered d n, execPlyStateEntry_of_trans hn hs hw ho, State.entered_eq hp, fun hclean => ?_, ?_⟩⟩
    · exact State.l1Flush_mem_of_not_ahead fun y hy hd => hclean y hy (beq_iff_eq.1 hd)
    · intro htwins hwf y hy hd hdirty hahead hz
      exact State.l1Flush_wordAt htwins hwf hy (beq_iff_eq.2 hd) hdirty hahead hz
  case replay =>
    intro n hn hs hw ds
    exact ⟨execLogReplay_of_bad hw, fun hb hwf =>
      ⟨_, p.mirrorAfter ds, execLogReplay_of_sound hn hs hw hb, awoken_replayed p ds n, rfl,
        fun i e he => Ply.dented_mirrorAfter hwf he⟩⟩
  case heat =>
    intro hr
    obtain ⟨u, hu, hheat⟩ := execHeatPublish_of_ready (ts := ts) hr
    exact ⟨u, hu, fun e => (hheat e).trans (by rw [heatIndex_eq]; rfl)⟩

end Sys2Proof.Machine
end

section
/-! SUPPORT. What a host write that sets fields does (O40): every event of a register write is its effect on the whole
value of its register; then one short reason for each register. -/

namespace Sys2Proof.Machine

open Sys2Proof.Claim

section
variable {s t : State} {h : HostWrite} {r : Reg} {v : Nat} {k : WriteKind} {f : RegWrite → State → State}

/-- R75: a write of the event's kind has the event's effect, whichever bytes of the register it names. -/
theorem State.onWrite_of_writes (hw : Writes s h r v k) (hf : ∀ first size, f ⟨h.port, r, v, first, size⟩ s = t) :
    s.onWrite h k f = t := by
  obtain ⟨⟨q, r, v, first, size⟩, hreg, rfl, rfl, rfl, hk⟩ := hw
  unfold State.onWrite
  rw [hreg]
  exact (if_pos hk).trans (hf first size)

/-- R75, R76: a write that reaches no register is ignored. -/
theorem State.onWrite_of_none (hn : s.regWrite h = none) : s.onWrite h k f = s := by
  unfold State.onWrite
  rw [hn]

/-- R75: what a plain write does is what the whole value of its register does. -/
theorem execRegisterWrite_of_writes (hw : Writes s h r v .plain) (ht : s.setReg ⟨h.port, r, v, 0, 0⟩ = t) :
    exec (.registerWrite h) s = .next t :=
  congrArg Host.Outcome.next (State.onWrite_of_writes hw fun _ _ => ht)

end

/-- R97: the ring of an idle stream takes what is written. -/
theorem State.setCtxReg_ring_of_idle {s : State} {b : Beam} {c : CtxN} (hi : s.streamState b c = .idle) (w : RegWrite) :
    s.setCtxReg b c .ring w = s.modCtx b c fun k =>
      { k with
        ringBase := BitVec.ofNat 45 (w.fld 56 12), ringSize := ringSizeOf (w.fld 11 8)
        vec := BitVec.ofNat 6 (w.fld 5 0) } := by
  unfold State.setCtxReg
  rw [hi]
  rfl

/-- R97: the ring of a stream that runs stays. -/
theorem State.setCtxReg_ring_of_running {s : State} {b : Beam} {c : CtxN} (hr : s.streamState b c = .running)
    (w : RegWrite) : s.setCtxReg b c .ring w = s := by
  unfold State.setCtxReg
  rw [hr]
  rfl

/-- Settles O40: each register's fields are those that `setReg` sets from the whole value. -/
theorem hostRegisterResult : Obligations.HostRegisterResult := by
  unfold Obligations.HostRegisterResult
  intro s h v p d b c wrote
  -- The registers below by name turn on the state of a stream or on the lack of a register; the others are `setReg` itself.
  refine ⟨?mchk, ?nonce, ?pmem, ?trapv, ?tfbase, ?psave, ?schedCtl, ?linkId, ?pgq, ?idleRing, ?runningRing, ?gkill,
    ?plyStatus, ?none⟩
  case idleRing => exact fun hw hi => execRegisterWrite_of_writes hw (State.setCtxReg_ring_of_idle hi _)
  case runningRing => exact fun hw hr => execRegisterWrite_of_writes hw (State.setCtxReg_ring_of_running hr _)
  case none => exact fun hn => congrArg Host.Outcome.next (State.onWrite_of_none hn)
  all_goals exact fun hw => execRegisterWrite_of_writes hw rfl

end Sys2Proof.Machine
end

section
/-! SUPPORT. The control registers of a context, a new partition and a command processor that stops (O41). -/

namespace Sys2Proof.Machine

open Sys2Proof.Claim

/-! ## Contexts (R96, R98, R111) -/

theorem State.modCtx_congr {s : State} {b : Beam} {c : CtxN} {f g : Context → Context}
    (h : f (s.ctx b c) = g (s.ctx b c)) : s.modCtx b c f = s.modCtx b c g := by
  unfold State.modCtx State.modBeam
  exact congrArg (fun k => { s with beams := s.beams.set b { s.beams[b] with ctxs := s.beams[b].ctxs.set c k } }) h

theorem State.modCtx_id (s : State) (b : Beam) (c : CtxN) : s.modCtx b c (fun k => k) = s := by
  have hset : ∀ r : BeamRegs, { r with ctxs := r.ctxs.set c r.ctxs[c] } = r := fun r => by simp
  unfold State.modCtx
  simp only [hset]
  simp [State.modBeam]

theorem State.modCtx_modCtx (s : State) (b : Beam) (c : CtxN) (f g : Context → Context) :
    (s.modCtx b c f).modCtx b c g = s.modCtx b c fun k => g (f k) := by
  simp [State.modCtx, State.modBeam]

/-- R98: the offsets that may be written to CTX_TAIL and CTX_HEAD. -/
theorem Context.offOk_iff (k : Context) (o : Nat) :
    k.offOk o = true ↔ o % 8 = 0 ∧ o < 2 ^ (12 + k.ringSize.toNat) := by
  unfold Context.offOk
  rw [Bool.and_eq_true_iff, beq_iff_eq, decide_eq_true_iff]
  rfl

/-- R12: partitions 0 to 3 lie on beam 0, the others on beam 1. -/
theorem dieBeam_eq_iff (d : Die) (b : Beam) : dieBeam d = b ↔ (b = 0 ↔ d.val < 4) := by
  revert d b
  decide

theorem dieBeam_eq_iff_div (d : Die) (b : Beam) : dieBeam d = b ↔ d.val / 4 = b.val := by
  revert d b
  decide

/-- R111: a halt of a stream whose vector is zero sends nothing; one that has halted keeps its first error. -/
theorem State.haltStream_of_vec_zero {s : State} {b : Beam} {c : CtxN} (hv : (s.ctx b c).vec = 0) (err : BitVec 8)
    (off : BitVec 20) :
    s.haltStream b c err off =
      s.modCtx b c fun k => if k.halted = true then k else { k with halted := true, err := err, errOff := off } := by
  unfold State.haltStream State.sendVector
  dsimp only
  by_cases hh : (s.ctx b c).halted = true
  · rw [if_pos hh]
    exact (s.modCtx_id b c).symm.trans (State.modCtx_congr (if_pos hh).symm)
  · rw [if_neg hh, if_pos hv]
    exact State.modCtx_congr (if_neg hh).symm

section
variable {s : State} {h : HostWrite} {b : Beam} {c : CtxN} {v : Nat}

/-- R98: TAIL takes an aligned offset of the ring, and no other. -/
theorem execCtxTailWrite_of_writes (hw : Writes s h (.ctx b c .tail) v .tail) :
    exec (.ctxTailWrite h) s = .next
      (if bits v 0 20 % 8 = 0 ∧ bits v 0 20 < 2 ^ (12 + (s.ctx b c).ringSize.toNat) then
        s.modCtx b c fun k => { k with tail := BitVec.ofNat 20 (bits v 0 20) }
      else s) :=
  congrArg Host.Outcome.next (State.onWrite_of_writes hw fun _ _ => ite_of_iff (Context.offOk_iff _ _) _ _)

/-- R98, R101: only a halted stream takes a new HEAD, and it is halted no more. -/
theorem execCtxHeadWrite_of_writes (hw : Writes s h (.ctx b c .head) v .head) :
    exec (.ctxHeadWrite h) s = .next
      (if (s.ctx b c).halted = true ∧ bits v 0 20 % 8 = 0 ∧ bits v 0 20 < 2 ^ (12 + (s.ctx b c).ringSize.toNat) then
        s.modCtx b c fun k =>
          { k with
            head := BitVec.ofNat 20 (bits v 0 20), halted := false, err := 0, nest := [], skip := none
            faulted := false }
      else s) :=
  congrArg Host.Outcome.next (State.onWrite_of_writes hw fun _ _ =>
    ite_of_iff ((Bool.and_eq_true_iff).trans (and_congr_right' (Context.offOk_iff _ _))) _ _)

/-- R96: a context is bound to an enabled partition of its beam. -/
theorem execCtxBindEnable_of_writes (hw : Writes s h (.ctx b c .bind) v .bindOn) :
    exec (.ctxBindEnable h) s = .next
      (let q : PartN := Fin.ofNat 8 (bits v 0 3)
       if (s.part q).en = true ∧ (b = 0 ↔ q.val < 4) then
         s.modCtx b c fun k => { k with en := true, part := BitVec.ofNat 3 q.val }
       else s) :=
  congrArg Host.Outcome.next (State.onWrite_of_writes hw fun _ _ =>
    ite_of_iff ((Bool.and_eq_true_iff).trans (and_congr_right' (beq_iff_eq.trans (dieBeam_eq_iff _ _)))) _ _)

/-- R96: where no command is in progress, a stream that loses its binding halts at HEAD. -/
theorem execCtxBindDisable_of_writes (hw : Writes s h (.ctx b c .bind) v .bindOff) (hc : (s.ctx b c).cmds = [])
    (hv : (s.ctx b c).vec = 0) :
    exec (.ctxBindDisable h) s = .next (s.modCtx b c fun k =>
      let k := { k with en := false, part := BitVec.ofNat 3 (bits v 0 3) }
      if (s.ctx b c).en = true ∧ (s.ctx b c).halted = false then
        { k with halted := true, err := 0x0F, errOff := k.head }
      else k) := by
  refine congrArg Host.Outcome.next (State.onWrite_of_writes hw fun _ _ => ?_)
  have hcur : (s.ctx b c).current = (s.ctx b c).head := by
    unfold Context.current
    rw [hc]
    rfl
  dsimp only
  rw [State.haltStream_of_vec_zero hv, hcur]
  by_cases hen : (s.ctx b c).en = true
  · rw [if_pos hen, State.modCtx_modCtx]
    refine State.modCtx_congr ?_
    by_cases hh : (s.ctx b c).halted = true
    · simp only [hh, hen, hc, if_true, and_false, reduceCtorEq, if_false, List.filter_nil]
      rfl
    · rw [Bool.not_eq_true] at hh
      simp only [hh, hen, hc, and_self, if_true, reduceCtorEq, if_false, List.filter_nil]
      rfl
  · rw [if_neg hen]
    refine State.modCtx_congr ?_
    simp only [hen, hc, List.filter_nil]
    rfl

end

/-! ## A new partition (R79) -/

/-- Entries that no TLB holds are dropped without effect. -/
theorem State.tlbDrop_of_none {s : State} {p : TlbEntry → Bool} (hp : ∀ e ∈ s.tlb, p e = false) : s.tlbDrop p = s := by
  have hout : s.tlb.filter p = [] := List.filter_eq_nil_iff.2 fun e he => by simp [hp e he]
  have hkept : (s.tlb.filter fun e => !p e) = s.tlb := List.filter_eq_self.2 fun e he => by simp [hp e he]
  have hleft : ∀ ks : List TlbKey, (ks.filter fun k => !([] : List TlbEntry).any fun e => e.key == k) = ks :=
    fun ks => List.filter_eq_self.2 fun _ _ => rfl
  unfold State.tlbDrop State.modWarps
  simp only [hout, hkept, hleft, List.foldl_nil, List.map_id', ite_self]

section
variable {s : State} {p : PartN}

/-- R79: a partition that is not enabled has no die. -/
theorem State.dieIn_of_disabled {q : PartN} (h : (s.part q).en = false) (d : Die) : s.dieIn q d = false := by
  simp [State.dieIn, h]

theorem State.partDies_of_disabled (h : (s.part p).en = false) : s.partDies p = [] := by
  simp [State.partDies, State.dieIn_of_disabled h]

/-- R81: a partition that is not enabled and of which no TLB holds an entry has nothing to give up. -/
theorem State.flushPart_of_disabled (h : (s.part p).en = false) (ht : ∀ e ∈ s.tlb, e.part ≠ p) : s.flushPart p = s := by
  unfold State.flushPart
  rw [State.partDies_of_disabled h]
  exact State.tlbDrop_of_none fun e he => beq_false_of_ne (ht e he)

/-- R79: a machine without work has no busy partition. -/
theorem State.partBusy_of_no_work (hl : s.launches = []) (hg : s.groups = [])
    (hs : ∀ e : Beam, ∀ i : Fin 64, ((s.beam e).reed.slots[i]).owned = false) : s.partBusy p = false := by
  have hpool : ∀ e : Beam, ((s.pool e p).any fun i => ((s.beam e).reed.slots[i]).owned) = false :=
    fun e => List.any_eq_false.2 fun i _ => Bool.eq_false_iff.1 (hs e i)
  unfold State.partBusy
  simp only [hl, hg, hpool, List.any_nil, List.any_cons, Bool.or_self]

/-- R79: a write that enables a partition at a multiple of its size is taken where no partition is enabled and no ply has
failed. -/
theorem State.partIgnored_of_bare {w : RegWrite} (hen : ∀ q : PartN, (s.part q).en = false)
    (hbusy : s.partBusy p = false) (hal : p.val % 2 ^ w.fld 9 8 = 0) (hf : s.dev.plyFail = 0) :
    s.partIgnored p w = false := by
  unfold State.partIgnored
  simp [hen, hbusy, hal, hf, State.dieIn_of_disabled]

/-- R39, R79: `s` once a partition has been created: its registers are set and its reed regions are to be cleared. -/
def State.created (s : State) (p : PartN) (v : Nat) : State :=
  let f := fun r : Reed => { r with regions := r.regions.set p { r.regions[p] with cleared := false } }
  ((s.modPart p fun r => { r with
      en := v.testBit 31, size := BitVec.ofNat 2 (bits v 8 2), port := BitVec.ofNat 1 (bits v 0 1) }).modReed 0 f).modReed 1 f

theorem execPartitionWrite_of_bare {h : HostWrite} {v : Nat} (hw : Writes s h (.part p) v .part)
    (hen : ∀ q : PartN, (s.part q).en = false) (hbusy : s.partBusy p = false) (ht : ∀ e ∈ s.tlb, e.part ≠ p)
    (hal : p.val % 2 ^ bits v 8 2 = 0) (hf : s.dev.plyFail = 0) :
    exec (.partitionWrite h) s = .next (s.created p v) := by
  refine congrArg Host.Outcome.next (State.onWrite_of_writes hw fun first size => ?_)
  have htaken := State.partIgnored_of_bare (w := ⟨h.port, .part p, v, first, size⟩) hen hbusy hal hf
  dsimp only
  rw [htaken, State.flushPart_of_disabled (hen p) ht, hen p]
  rfl

theorem State.created_part (v : Nat) (q : PartN) :
    (s.created p v).part q = (s.modPart p fun r => { r with
      en := v.testBit 31, size := BitVec.ofNat 2 (bits v 8 2), port := BitVec.ofNat 1 (bits v 0 1) }).part q := rfl

/-- R39: the regions of a new partition are to be cleared on both beams. -/
theorem State.created_region (v : Nat) (e : Beam) : (((s.created p v).beam e).reed.regions[p]).cleared = false := by
  match e with
  | 0 =>
    unfold State.created State.modReed
    rw [State.modBeam_beam_ne _ _ _ _ (by decide), State.modBeam_beam_self]
    simp
  | 1 =>
    unfold State.created State.modReed
    rw [State.modBeam_beam_self]
    simp

end

/-! ## Machine checks (R84) -/

/-- A machine check changes ports and what is sent, and nothing else. -/
theorem State.machineCheck_eq (s : State) (qs : List Port) (bit : Nat) :
    s.machineCheck qs bit =
      { s with ports := (s.machineCheck qs bit).ports, out := (s.machineCheck qs bit).out } := by
  induction qs generalizing s with
  | nil => rfl
  | cons q qs ih =>
    unfold State.machineCheck
    rw [List.foldl_cons]
    refine (ih _).trans ?_
    dsimp only
    split <;> rfl

theorem State.machineCheck_beam (s : State) (qs : List Port) (bit : Nat) (b : Beam) :
    (s.machineCheck qs bit).beam b = s.beam b :=
  (congrArg (State.beam · b) (s.machineCheck_eq qs bit)).trans rfl

/-- R84: a machine check sets its bit at each of its ports. -/
theorem State.machineCheck_port (s : State) (qs : List Port) (bit : Nat) (q : Port) :
    (s.machineCheck qs bit).port q =
      { s.port q with mchk := if q ∈ qs then (s.port q).mchk ||| BitVec.twoPow 5 bit else (s.port q).mchk } := by
  induction qs generalizing s with
  | nil => rfl
  | cons r qs ih =>
    have hone : ∀ t : State, ∀ o, (if (s.port r).mchk = 0 then t.emit o else t).port q = t.port q := by
      intro t o
      split <;> rfl
    unfold State.machineCheck
    rw [List.foldl_cons]
    refine (ih _).trans ?_
    rw [hone]
    by_cases hq : q = r
    · subst hq
      rw [State.modPort_port_self]
      simp [BitVec.or_assoc]
    · rw [State.modPort_port_ne _ _ _ _ (Ne.symm hq)]
      simp [hq]

theorem mem_ports (q : Port) : q ∈ [(0 : Port), 1] := by
  revert q
  decide

theorem State.mem_portsOf {s : State} {f : PartN → Bool} {q : Port} :
    q ∈ s.portsOf f ↔ (List.finRange 8).any (fun p => (s.part p).en && (s.part p).port.toNat == q.val && f p) = true := by
  unfold State.portsOf
  rw [List.mem_filter]
  exact and_iff_right (mem_ports q)

/-- Settles O41: each clause is the lemma of its event's case. -/
theorem contextControlResult : Obligations.ContextControlResult := by
  unfold Obligations.ContextControlResult
  intro s h v b c p k off legal
  refine ⟨execCtxTailWrite_of_writes, execCtxHeadWrite_of_writes, execCtxBindEnable_of_writes,
    execCtxBindDisable_of_writes, ?part, ?halt⟩
  case part =>
    intro hw hen hl hg hs ht hal h31 hf
    have hoff : ∀ q : PartN, (s.part q).en = false := by simpa using hen
    refine ⟨_, execPartitionWrite_of_bare hw hoff (State.partBusy_of_no_work hl hg hs) ht hal hf, ?_,
      fun q hq => ?_, State.created_region v, rfl⟩
    · rw [State.created_part, State.modPart_part_self, h31]
    · rw [State.created_part, State.modPart_part_ne _ _ _ _ (Ne.symm hq)]
  case halt =>
    refine ⟨_, rfl, ?_, fun q => ?_⟩
    · rw [State.machineCheck_beam, State.modBeam_beam_self]
    · rw [State.machineCheck_port]
      refine ite_of_iff (State.mem_portsOf.trans ?_) _ _
      simp only [← dieBeam_eq_iff_div]
      rfl

end Sys2Proof.Machine
end

section
/-! SUPPORT. Starts, the flash window and quotes (O49). -/

namespace Sys2Proof.Machine

open Sys2Proof.Claim

/-! ## What every start leaves (R86, R88) -/

/-- R86: nothing runs and every register is at its reset value, whatever else a start makes of memory, of the device block
and of the ports' machine checks. -/
theorem cleared_of_ports {s : State} {ports : Vector PortRegs 2} (cal : Bool) (mem : List Host.Cell)
    (poison : List Poison) (dev : Device) (out : List Output)
    (hp : ∀ q : Port, ∃ m n, ports[q] = { (s.port q).afterStart with mchk := m, bar4 := n }) :
    Cleared s
      { s.cleared with
        beams := State.reset.beams.map fun b => { b with reed := { b.reed with calOk := cal } }
        mem := mem, poison := poison, dev := dev, ports := ports, out := out } cal := by
  refine ⟨rfl, rfl, rfl, rfl, rfl, rfl, rfl, rfl, rfl, rfl, rfl, rfl, rfl, rfl, rfl, rfl, rfl, rfl, fun b => ?_,
    fun q => ?_⟩
  · simp [State.beam, State.reset, BeamRegs.reset]
  · obtain ⟨m, n, hq⟩ := hp q
    unfold State.port
    rw [hq]
    exact ⟨rfl, rfl, rfl, rfl⟩

theorem State.cleared_port (s : State) (q : Port) : s.cleared.port q = (s.port q).afterStart := by
  simp [State.cleared, State.port]

/-- R89: whether an image is accepted depends on the flash and the fused minimum alone. -/
theorem State.imageOk_congr {s u : State} (hf : u.flash = s.flash) (hd : u.dev.fuseSvn = s.dev.fuseSvn) :
    u.imageOk = s.imageOk := by
  unfold State.imageOk State.imageDigest State.image State.headerField
  rw [hf, hd]

/-- R85 to R89: a start that has begun, with the size of BAR4 that it leaves at each port. -/
theorem started_beginStart_with {s : State} (warm : Bool) {ports : Vector PortRegs 2}
    (hp : ∀ q : Port, ∃ n, ports[q] = { (s.port q).afterStart with bar4 := n }) :
    Started s { s.beginStart warm with ports := ports } warm := by
  have hok : (s.wipe warm).imageOk = s.imageOk := State.imageOk_congr rfl rfl
  refine ⟨?cleared, rfl, ?mchk, rfl, rfl, rfl, rfl, rfl, rfl, rfl, rfl, rfl, rfl, ?img, ?svn⟩
  case cleared =>
    exact cleared_of_ports false _ _ _ _ fun q => (hp q).elim fun n hq => ⟨_, n, hq⟩
  case mchk =>
    intro q
    obtain ⟨n, hq⟩ := hp q
    exact congrArg PortRegs.mchk hq
  case img =>
    rw [wordAt_eq_cellWord, ← hok]
    rfl
  case svn =>
    rw [wordAt_eq_cellWord, ← hok]
    rfl

theorem started_beginStart (s : State) (warm : Bool) : Started s (s.beginStart warm) warm :=
  started_beginStart_with warm fun q => ⟨_, s.cleared_port q⟩

/-- R85: `s` once a write of `v` to BOOT_CTL has set its fields. -/
def State.bootCtl (s : State) (v : Nat) : State :=
  { s with dev := { s.dev with forceCal := v.testBit 2, start := BitVec.ofNat 2 v } }

section
variable {s : State} {h : HostWrite} {v : Nat}

theorem execBootColdStart_of_writes (hw : Writes s h .bootCtl v .cold) :
    exec (.bootColdStart h) s = .next ((s.bootCtl v).beginStart false) :=
  congrArg Host.Outcome.next (State.onWrite_of_writes hw fun _ _ => rfl)

theorem execBootWarmStart_of_writes (hw : Writes s h .bootCtl v .warm) :
    exec (.bootWarmStart h) s = .next ((s.bootCtl v).beginStart true) :=
  congrArg Host.Outcome.next (State.onWrite_of_writes hw fun _ _ => rfl)

end

/-- R85: power that returns starts the device cold, with the reset size of BAR4. -/
theorem execPowerUp_of_off {s : State} (h : s.dev.power = false) :
    ∃ u, exec .powerUp s = .next u ∧ Started s u false ∧ ∀ r : Port, (u.port r).bar4 = 1 := by
  refine ⟨_, congrArg Host.Outcome.next (if_neg (Bool.eq_false_iff.1 h)),
    started_beginStart_with false fun q => ⟨1, ?_⟩, fun r => ?_⟩
  · exact (Vector.getElem_map _ q.isLt).trans
      (congrArg (fun a : PortRegs => { a with bar4 := 1 }) (s.cleared_port q))
  · simp [State.port]

/-! ## A start ends (R86 to R88) -/

/-- R86, R88: whether the vault self-test runs. -/
def State.vaultTest (s : State) : Bool := s.dev.kind == 1 || s.dev.vaultEcc

/-- R86 to R88: `s` cleared once more as its start ends, before the self-test's result is reported. -/
def State.restarted (s : State) (fails : BitVec 8) : State :=
  { s.cleared with
    beams := State.reset.beams.map fun b => { b with reed := { b.reed with calOk := true } }
    dev := { s.dev with
      ready := true
      starting := false
      forceCal := s.dev.kind == 2 && s.dev.forceCal
      start := 0
      calReused := s.dev.kind == 2 && s.dev.retCal && !s.dev.forceCal && s.dev.retDigest == s.dev.img.digest
      vtestRan := s.vaultTest
      svn := s.dev.img.svn
      plyFail := if s.vaultTest then fails else s.dev.plyFail
      retCal := true
      retDigest := s.dev.img.digest
      vaultEcc := if s.vaultTest then false else s.dev.vaultEcc
      vaultFix := if s.vaultTest then [] else s.dev.vaultFix
      fwDigest := s.dev.img.digest } }

theorem State.finishStart_def (s : State) (fails : BitVec 8) :
    s.finishStart fails =
      if (s.vaultTest && fails != 0) = true then (s.restarted fails).machineCheck [0, 1] 1 else s.restarted fails := rfl

/-- R84: the report of the self-test changes ports and what is sent, and nothing else. -/
theorem State.finishStart_eq (s : State) (fails : BitVec 8) :
    s.finishStart fails =
      { s.restarted fails with ports := (s.finishStart fails).ports, out := (s.finishStart fails).out } := by
  rw [State.finishStart_def]
  split
  · exact State.machineCheck_eq ..
  · rfl

/-- R84: MCHK.VTEST stays, and is set where the self-test has found a fault. -/
theorem State.finishStart_port (s : State) (fails : BitVec 8) (q : Port) :
    (s.finishStart fails).port q =
      { (s.port q).afterStart with
        mchk := if s.vaultTest = true ∧ fails ≠ 0 then ((s.port q).mchk &&& 2) ||| 2 else (s.port q).mchk &&& 2 } := by
  have hport : (s.restarted fails).port q = (s.port q).afterStart := s.cleared_port q
  rw [State.finishStart_def]
  by_cases hc : s.vaultTest = true ∧ fails ≠ 0
  · rw [if_pos hc, if_pos (by simpa using hc), State.machineCheck_port, if_pos (mem_ports q), hport]
    rfl
  · rw [if_neg hc, if_neg (by simpa using hc), hport]
    rfl

theorem State.finishStart_dev (s : State) (fails : BitVec 8) : (s.finishStart fails).dev = (s.restarted fails).dev :=
  (congrArg State.dev (s.finishStart_eq fails)).trans rfl

theorem State.finishStart_mem (s : State) (fails : BitVec 8) : (s.finishStart fails).mem = retained s :=
  (congrArg State.mem (s.finishStart_eq fails)).trans rfl

/-- R86, R89: a start ends in recovery where its step 1 has rejected the image. -/
theorem execBootReady_of_starting {s : State} (h : s.dev.starting = true) (fails : BitVec 8) :
    exec (.bootReady fails) s = .next (if s.dev.img.ok = true then s.finishStart fails
      else { s with dev := { s.dev with authFail := true, starting := false } }) :=
  congrArg Host.Outcome.next (if_neg (by rw [h]; exact Bool.false_ne_true))

theorem cleared_finishStart (s : State) (fails : BitVec 8) : Cleared s (s.finishStart fails) true := by
  rw [State.finishStart_eq]
  exact cleared_of_ports true _ _ _ _ fun q => ⟨_, _, s.finishStart_port fails q⟩

/-! ## The flash window (R90) -/

/-- R90: a write to the flash window programs the bytes that it names. -/
theorem execFlashWindowWrite_of_regWrite {s : State} {h : HostWrite} {w : RegWrite} (hw : s.regWrite h = some w)
    (hr : w.reg = .flashWin) :
    exec (.flashWindowWrite h) s = .next
      { s with flash := cellPutWord s.flash ((s.port w.port).fwPage.toNat % 1024 * 2 ^ 15 + w.first) w.size h.data.toNat } := by
  have hk : s.writeKind w = .flash := by
    unfold State.writeKind
    rw [hr]
  refine congrArg Host.Outcome.next ?_
  unfold State.onWrite
  rw [hw]
  exact if_pos hk

/-! ## Quotes (R91, R92) -/

theorem State.modPort_congr {s : State} {q : Port} {f g : PortRegs → PortRegs} (h : f (s.port q) = g (s.port q)) :
    s.modPort q f = s.modPort q g := by
  unfold State.modPort
  exact congrArg (fun a => { s with ports := s.ports.set q a }) h

theorem State.modPort_id (s : State) (q : Port) : s.modPort q (fun a => a) = s := by
  simp [State.modPort]

section
variable {s : State} {h : HostWrite} {v : Nat}

/-- R91: a request while no quote is made is kept, and where the device is ready it captures what is quoted. -/
theorem execAttestRequest_of_free (hw : Writes s h .attestCtl v .attest) (hb : (s.port h.port).attBusy = false) :
    exec (.attestRequest h) s = .next (s.modPort h.port fun a =>
      { a with
        attReq := BitVec.ofNat 8 v, attBusy := s.dev.ready
        capture := if s.dev.ready = true then s.quoteBody h.port else a.capture }) := by
  have hreq : BitVec.ofNat 8 (v / 2 ^ 0 % 2 ^ 8) = BitVec.ofNat 8 v := by
    apply BitVec.eq_of_toNat_eq
    simp
  refine congrArg Host.Outcome.next (State.onWrite_of_writes hw fun _ _ => ?_)
  dsimp only
  rw [if_neg (Bool.eq_false_iff.1 hb), ← hreq]
  rfl

/-- R91: while a quote is made, a request is ignored. -/
theorem execAttestRequest_of_busy (hw : Writes s h .attestCtl v .attest) (hb : (s.port h.port).attBusy = true) :
    exec (.attestRequest h) s = .next s :=
  congrArg Host.Outcome.next (State.onWrite_of_writes hw fun _ _ => if_pos hb)

end

/-- R92: the signature of a quote over what its request has captured, with its padding. -/
def State.quoteTail (s : State) (q : Port) : List Byte :=
  leBytes 114 (Config.quoteSig s.dev.fwDigest (Config.shake256 (s.port q).capture)).toNat ++ List.replicate 46 0

/-- R91, R92: a quote that is finished is what was captured, signed. -/
theorem execQuoteDone_of_busy {s : State} {q : Port} (hb : (s.port q).attBusy = true) (hr : s.dev.ready = true) :
    exec (.quoteDone q) s = .next (s.modPort q fun a =>
      { a with attBusy := false, attDone := a.attReq, quote := (s.port q).capture ++ s.quoteTail q }) := by
  refine congrArg Host.Outcome.next (State.modPort_congr ?_)
  rw [if_pos (by rw [hb, hr]; rfl), State.quoteTail, List.append_assoc]

theorem State.quoteTail_length (s : State) (q : Port) : (s.quoteTail q).length = 160 := by
  simp [State.quoteTail]

theorem execQuoteDone_of_free {s : State} {q : Port} (hb : (s.port q).attBusy = false) :
    exec (.quoteDone q) s = .next s := by
  refine congrArg Host.Outcome.next ((State.modPort_congr ?_).trans (s.modPort_id q))
  simp [hb]

/-- Settles O49: each clause is the lemma of its event's case; a write to BOOT_CTL sets its fields before its start. -/
theorem startResult : Obligations.StartResult := by
  unfold Obligations.StartResult
  intro s h v q fails
  refine ⟨?cold, ?warm, ?reset, ?noReset, execPowerUp_of_off, fun hp => congrArg Host.Outcome.next (if_pos hp), ?removal,
    fun hs => congrArg Host.Outcome.next (if_pos (by rw [hs]; rfl)), ?ready, ?flash, ?attest, ?early,
    execAttestRequest_of_busy, ?quote, execQuoteDone_of_free⟩
  case cold =>
    intro hw
    exact ⟨_, execBootColdStart_of_writes hw, started_beginStart (s.bootCtl v) false, rfl⟩
  case warm =>
    intro hw
    exact ⟨_, execBootWarmStart_of_writes hw, started_beginStart (s.bootCtl v) true, rfl, rfl⟩
  case reset =>
    intro hp hq
    exact ⟨_, congrArg Host.Outcome.next (if_pos (by simpa [hp] using hq)), started_beginStart s true⟩
  case noReset =>
    intro hq hl
    exact congrArg Host.Outcome.next (if_neg (by simp [hq, hl]))
  case removal =>
    refine ⟨_, rfl, rfl, rfl, rfl, rfl, rfl, rfl, rfl, rfl, rfl, rfl, rfl, fun r => ?_⟩
    simp [State.port]
  case ready =>
    intro hs test
    have htest : s.vaultTest = true ↔ test := by simp [State.vaultTest, test]
    refine ⟨_, execBootReady_of_starting hs fails, fun hok => if_neg (Bool.eq_false_iff.1 hok), fun hok => ?_⟩
    rw [if_pos hok]
    have hdev := s.finishStart_dev fails
    refine ⟨cleared_finishStart s fails, s.finishStart_mem fails, ?_⟩
    rw [hdev]
    refine ⟨rfl, rfl, rfl, ?_, htest, ite_of_iff htest _ _, rfl, rfl, rfl, fun r => ?_⟩
    · simp [State.restarted, and_assoc]
    · rw [State.finishStart_port]
      exact ite_of_iff (and_congr_left' htest) _ _
  case flash =>
    intro w hw hr hwf at_
    exact ⟨_, execFlashWindowWrite_of_regWrite hw hr, rfl, cellGet_cellPutWord hwf _ _ _⟩
  case attest =>
    intro hw hb hr
    rw [execAttestRequest_of_free hw hb, hr]
    rfl
  case early =>
    intro hw hb hr
    rw [execAttestRequest_of_free hw hb, hr]
    rfl
  case quote =>
    intro hb hr hlen
    refine ⟨_, execQuoteDone_of_busy hb hr, ?_⟩
    rw [State.modPort_port_self]
    refine ⟨rfl, rfl, ?_, ?_, rfl⟩
    · rw [List.length_append, hlen, State.quoteTail_length]
    · rw [← hlen]
      exact List.take_left

end Sys2Proof.Machine
end
